-- ==== Sys2Proof/Word.lean ====
section
/-! DEFINITION. Sys2Proof/Word.lean: the word types of the Vaxia (spec/01 R10, R11) and their plainest readings. -/

namespace Sys2Proof

/-- A 64-bit scalar value (R10). -/
abbrev Word := BitVec 64

/-- One byte of memory or scratchpad. -/
abbrev Byte := BitVec 8

/-- A 32-bit word: an instruction word, a counter, a predicate (R10). -/
abbrev Half := BitVec 32

/-- A vector register (R10, R11). -/
abbrev VReg := BitVec 256

/-- `n` bits of the number `w` from bit `lo` up (R2). -/
def bits (w lo n : Nat) : Nat := w / 2 ^ lo % 2 ^ n

/-- A field of an instruction word as a bit vector of its own width (R37, R43). -/
def fld (w lo n : Nat) : BitVec n := BitVec.ofNat n (w / 2 ^ lo)

/-- A truth value as one bit of a 64-bit word. -/
def bit (b : Bool) : Nat := if b then 1 else 0

end Sys2Proof
end

