-- ==== Sys2Proof/Config.lean ====
section
/-! DEFINITION. Sys2Proof/Config.lean: what the spec leaves to the implementation or leaves open. Every constant
here has no body, so a statement about it holds whatever its value is (notes/assumptions 1, 2, 8, 10, 13 to 16). -/

namespace Sys2Proof.Config

/-- Which of several possible next happenings comes first (log entry 1). -/
opaque pick : Nat → Nat

/-- A free bit, applied to the counter `State.tick` (log entry 2): the old or new value of a y register (R98), of a
code unit fetched before an IFLUSH (R38), of a source byte read during a copy. -/
opaque freeBit : Nat → Bool

/-- A free word: unstated values and device-private bytes (log entry 14). -/
opaque freeWord : Nat → Word

/-- The first SEQ stamp of the launch agent of die `d` (R224, R259; log entry 10). -/
opaque seqBase : Nat → BitVec 23

/-- COOKIE number `n` of agent `c` is `cookieBase c + n` (R369; log entry 13). -/
opaque cookieBase : Nat → Half

/-- The port of its I/O die through which a scale-up flow leaves (R415, R424; log entry 27). -/
opaque port : Nat → Nat

/-- Fuses (R449, R450): is the core at this position fused off, and the router at which an agent attaches. -/
opaque fused : Nat → Bool
opaque attach : Nat → BitVec 10

/-- The package number of the signed configuration (R459). -/
opaque pkgid : BitVec 10

/-- Does power-on step `n` report ready (R447)? -/
opaque stepReady : Nat → Bool

/-- Failing lanes that a training or repair measures in the lower and upper half of a module (R421, R446). -/
opaque failingLanes : Nat → Nat × Nat

/-- The signature bytes of an attestation answer (R442; log entry 15). -/
opaque signature : List Byte → Nat → List Byte

/-- The SHA3-256 digest of an image (R1, R442); what FIPS 202 computes is no part of the spec's text. -/
opaque digest : List Byte → BitVec 256

/-- Does an ML-DSA-44 signature hold for a digest (R442, R448)? -/
opaque verifies : BitVec 256 → List Byte → Bool

/-- Slots that the other end of a scale-up link buffers for each virtual channel (R423; log entry 59). -/
opaque linkCredits : Nat

/-- Flits that a packet takes after its first (R424, R431): the flit format is not stated (log entry 59). -/
opaque flits : Nat → Nat

/-- Contents of slot `i` of a packet beside its routing header, and the CRC-32 over the low bits of a link flit's header and its
slots (R423; log entry 59). -/
opaque slotImage : Nat → Nat → BitVec 512
opaque linkCrc : BitVec 96 → List (BitVec 512) → BitVec 32

/-- Packets of one scale-up flow that the mesh takes before it has delivered the first (R424; log entry 60). -/
opaque meshRoom : Nat

/-- The MTU of the Ethernet ports, from 1,500 to 9,216 bytes (R430; log entry 61). -/
opaque mtu : Nat

end Sys2Proof.Config
end

