-- ==== Sys2Proof/Syntax.lean ====
section
/-! DEFINITION. Sys2Proof/Syntax.lean: the instructions and events of the Vaxia, one constructor for each row of
spec/opcode_table.json. The 224 encoded rows carry the fields of their words (R43, R50 to R56). An event row has no
encoding and no field here: where it happens and what it brings from outside stand in `Machine.State.ev`, except the
word of `illegalWord`. -/

namespace Sys2Proof

/-- One instruction word or one event of the machine. -/
inductive Instr where
  /-- ADD (R89): Adds two scalar registers modulo 2^64 into x[D]. -/
  | add (g : BitVec 4) (b a d : BitVec 5)
  /-- SUB (R89): Subtracts x[B] from x[A] modulo 2^64. -/
  | sub (g : BitVec 4) (b a d : BitVec 5)
  /-- MUL (R89): Writes the low 64 bits of the product. -/
  | mul (g : BitVec 4) (b a d : BitVec 5)
  /-- MULH (R89): Writes the high 64 bits of the signed or unsigned 128-bit product. -/
  | mulh (g : BitVec 4) (u : BitVec 1) (b a d : BitVec 5)
  /-- DIV (R89): Divides on the core divider, rounding towards zero, with defined results for zero and overflow. -/
  | div (g : BitVec 4) (u : BitVec 1) (b a d : BitVec 5)
  /-- REM (R89): Forms the remainder on the core divider with defined edge results. -/
  | rem (g : BitVec 4) (u : BitVec 1) (b a d : BitVec 5)
  /-- AND (R89): Bitwise AND of two scalar registers. -/
  | and (g : BitVec 4) (b a d : BitVec 5)
  /-- OR (R89): Bitwise OR of two scalar registers. -/
  | or (g : BitVec 4) (b a d : BitVec 5)
  /-- XOR (R89): Bitwise XOR of two scalar registers. -/
  | xor (g : BitVec 4) (b a d : BitVec 5)
  /-- SHL (R89): Shifts x[A] left by x[B][5:0]. -/
  | shl (g : BitVec 4) (b a d : BitVec 5)
  /-- SHR (R89): Shifts x[A] right logically by x[B][5:0]. -/
  | shr (g : BitVec 4) (b a d : BitVec 5)
  /-- SHA (R89): Shifts x[A] right arithmetically by x[B][5:0]. -/
  | sha (g : BitVec 4) (b a d : BitVec 5)
  /-- ROTL (R89): Rotates x[A] left by x[B][5:0]. -/
  | rotl (g : BitVec 4) (b a d : BitVec 5)
  /-- MIN (R89): Writes the signed or unsigned minimum. -/
  | min (g : BitVec 4) (u : BitVec 1) (b a d : BitVec 5)
  /-- MAX (R89): Writes the signed or unsigned maximum. -/
  | max (g : BitVec 4) (u : BitVec 1) (b a d : BitVec 5)
  /-- SEL (R42): Always writes x[D] with x[A] where the guard value is 1 and x[B] elsewhere. -/
  | sel (g : BitVec 4) (b a d : BitVec 5)
  /-- ADDI (R90): Adds a sign-extended immediate or an e-register to x[A]. -/
  | addi (g : BitVec 4) (e : BitVec 1) (k : BitVec 10) (a d : BitVec 5)
  /-- ANDI (R90): ANDs x[A] with an immediate or e-register. -/
  | andi (g : BitVec 4) (e : BitVec 1) (k : BitVec 10) (a d : BitVec 5)
  /-- ORI (R90): ORs x[A] with an immediate or e-register. -/
  | ori (g : BitVec 4) (e : BitVec 1) (k : BitVec 10) (a d : BitVec 5)
  /-- XORI (R90): XORs x[A] with an immediate or e-register. -/
  | xori (g : BitVec 4) (e : BitVec 1) (k : BitVec 10) (a d : BitVec 5)
  /-- SHLI (R91): Shifts left by an immediate count. -/
  | shli (g : BitVec 4) (sx : BitVec 6) (a d : BitVec 5)
  /-- SHRI (R91): Shifts right logically by an immediate count. -/
  | shri (g : BitVec 4) (sx : BitVec 6) (a d : BitVec 5)
  /-- SHAI (R91): Shifts right arithmetically by an immediate count. -/
  | shai (g : BitVec 4) (sx : BitVec 6) (a d : BitVec 5)
  /-- ROTLI (R91): Rotates left by an immediate count. -/
  | rotli (g : BitVec 4) (sx : BitVec 6) (a d : BitVec 5)
  /-- CLZ (R93): Counts leading zero bits of x[A]. -/
  | clz (g : BitVec 4) (a d : BitVec 5)
  /-- CTZ (R93): Counts trailing zero bits of x[A]. -/
  | ctz (g : BitVec 4) (a d : BitVec 5)
  /-- POPC (R93): Counts the one bits of x[A]. -/
  | popc (g : BitVec 4) (a d : BitVec 5)
  /-- EXT (R93): Sign- or zero-extends the low 2^S bytes of x[A]. -/
  | ext (g : BitVec 4) (u : BitVec 1) (sx : BitVec 2) (a d : BitVec 5)
  /-- BFX (R95): Extracts a bit field of x[A] described by x[B]. -/
  | bfx (g : BitVec 4) (b a d : BitVec 5)
  /-- BFI (R95): Inserts a field of x[A] into x[D] as described by x[B]. -/
  | bfi (g : BitVec 4) (b a d : BitVec 5)
  /-- MOV (R96): Copies one scalar register to another. -/
  | mov (g : BitVec 4) (a d : BitVec 5)
  /-- MOV_TO_Y (R97): Writes a core y-register from x[A] and tags it with the writer's context. -/
  | movToY (g : BitVec 4) (a : BitVec 5) (d : BitVec 3)
  /-- MOV_FROM_Y (R97): Reads a y-register into x[D], giving zero when its owner is another context. -/
  | movFromY (g : BitVec 4) (a : BitVec 3) (d : BitVec 5)
  /-- LI (R92): Loads a sign-extended 16-bit constant. -/
  | li (g : BitVec 4) (k : BitVec 16) (d : BitVec 5)
  /-- LIH (R92): Replaces bits [63:16] of x[D] with a sign-extended 16-bit constant. -/
  | lih (g : BitVec 4) (k : BitVec 16) (d : BitVec 5)
  /-- CMP (R99): Compares two registers and writes all bits of a predicate. -/
  | cmp (g : BitVec 4) (u : BitVec 1) (c : BitVec 3) (b a : BitVec 5) (p : BitVec 3)
  /-- CMPI (R100): Compares a register with an immediate and writes a predicate. -/
  | cmpi (g : BitVec 4) (u : BitVec 1) (c : BitVec 3) (k : BitVec 7) (a : BitVec 5) (p : BitVec 3)
  /-- PAND (R101): ANDs two predicates. -/
  | pand (g : BitVec 4) (b a d : BitVec 3)
  /-- POR (R101): ORs two predicates. -/
  | por (g : BitVec 4) (b a d : BitVec 3)
  /-- PXOR (R101): XORs two predicates. -/
  | pxor (g : BitVec 4) (b a d : BitVec 3)
  /-- PNOT (R101): Inverts a predicate. -/
  | pnot (g : BitVec 4) (a d : BitVec 3)
  /-- PMOVX (R101): Copies a predicate zero-extended into a scalar register. -/
  | pmovx (g : BitVec 4) (a : BitVec 3) (d : BitVec 5)
  /-- PMOVP (R101): Copies x[A][31:0] into a predicate. -/
  | pmovp (g : BitVec 4) (a : BitVec 5) (d : BitVec 3)
  /-- BR (R103): Branches relative when the guard tests true on predicate bit BIT. -/
  | br (g : BitVec 4) (bx : BitVec 5) (k : BitVec 16)
  /-- J (R103): Jumps relative with a 21-bit offset. -/
  | j (g : BitVec 4) (k : BitVec 21)
  /-- JAL (R103): Jumps relative and writes the link register. -/
  | jal (g : BitVec 4) (k : BitVec 16) (d : BitVec 5)
  /-- JR (R103): Jumps to the address in x[A]. -/
  | jr (g : BitVec 4) (a : BitVec 5)
  /-- JALR (R103): Jumps to x[A] and writes the link register. -/
  | jalr (g : BitVec 4) (a d : BitVec 5)
  /-- TRAP (R104): Raises the USER trap 0x10 + n. -/
  | trap (g k : BitVec 4)
  /-- BKPT (R104): Raises BREAK, or halts the core when HBKPT is set. -/
  | bkpt (g : BitVec 4) (k : BitVec 8)
  /-- TRET (R33): Leaves a trap handler, optionally skipping the trapping instruction. -/
  | tret (g : BitVec 4) (sx : BitVec 1)
  /-- EXTI (R105): Loads or concatenates 16 bits into an e-register. -/
  | exti (g : BitVec 4) (k : BitVec 16) (c : BitVec 1) (e : BitVec 3)
  /-- EXTX (R106): Copies x[A] into an e-register. -/
  | extx (g : BitVec 4) (a : BitVec 5) (e : BitVec 3)
  /-- EXTG (R106): Writes a 7-bit tag and a 57-bit value into an e-register. -/
  | extg (g : BitVec 4) (k : BitVec 7) (a : BitVec 5) (e : BitVec 3)
  /-- EXTL (R106): ORs x[A] shifted left into an e-register. -/
  | extl (g : BitVec 4) (k : BitVec 6) (a : BitVec 5) (e : BitVec 3)
  /-- EXTS (R106): Writes x[A] plus a small offset into an e-register. -/
  | exts (g : BitVec 4) (k : BitVec 7) (a : BitVec 5) (e : BitVec 3)
  /-- SRD (R108): Copies a system register into a scalar register. -/
  | srd (g : BitVec 4) (n : BitVec 12) (x : BitVec 5)
  /-- SWR (R108): Writes a system register field by field, with W1C, RSEED and limit effects. -/
  | swr (g : BitVec 4) (n : BitVec 12) (x : BitVec 5)
  /-- EVT (R110): Appends a user event record to the context's event queue. -/
  | evt (g : BitVec 4) (n : BitVec 12) (x : BitVec 5)
  /-- IFLUSH (R111): Discards the instruction cache and the slot's fetched instructions. -/
  | iflush (g : BitVec 4)
  /-- FENCEC_FENCE (R391): Fences a vcore, waits for its router to apply it and starts the salvage. -/
  | fencecFence (g : BitVec 4) (x : BitVec 5)
  /-- FENCEC_ABANDON (R391): Drops the held restart records of a fenced vcore, counting them lost. -/
  | fencecAbandon (g : BitVec 4) (x : BitVec 5)
  /-- CMAPW (R392): Writes one core-map entry, resetting the named core and placing held restart records. -/
  | cmapw (g : BitVec 4) (x : BitVec 5)
  /-- PREEMPT_SAVE (R384): Saves one context on a range of cores into a save area. -/
  | preemptSave (g : BitVec 4) (x : BitVec 5)
  /-- PREEMPT_RESUME (R384): Restores a saved context on its cores. -/
  | preemptResume (g : BitVec 4) (x : BitVec 5)
  /-- CAPSTART (R410): Binds a capture set, sets its event codes and starts counting. -/
  | capstart (g : BitVec 4) (a : BitVec 5)
  /-- CAPSTOP (R411): Stops the capture and writes counters and summary. -/
  | capstop (g : BitVec 4) (a d : BitVec 5)
  /-- TRCMARK (R413): Places a KIND 0x30 trace record when enabled. -/
  | trcmark (g : BitVec 4) (b a k : BitVec 5)
  /-- LSEND (R453): Sends one raw flit and writes its status. -/
  | lsend (g : BitVec 4) (b a d : BitVec 5)
  /-- LRECV (R454): Takes the head raw flit of the core's raw queue, waiting if empty. -/
  | lrecv (g : BitVec 4) (b d : BitVec 5)
  /-- LD (R113): Loads 1 to 8 bytes from local space into a scalar register. -/
  | ld (g : BitVec 4) (u : BitVec 1) (sx : BitVec 2) (k : BitVec 7) (a d : BitVec 5)
  /-- ST (R113): Stores 1 to 8 bytes to local space, optionally as a release. -/
  | st (g : BitVec 4) (sx : BitVec 2) (o : BitVec 1) (k : BitVec 7) (a d : BitVec 5)
  /-- LDV (R114): Loads the active bytes of a 32-byte block into a vector register. -/
  | ldv (g : BitVec 4) (k : BitVec 7) (a d : BitVec 5)
  /-- STV (R114): Stores the active bytes of a vector register, optionally as a release. -/
  | stv (g : BitVec 4) (o : BitVec 1) (k : BitVec 7) (a d : BitVec 5)
  /-- LDVX (R115): Gathers active lanes from the own core's scratchpad. -/
  | ldvx (g : BitVec 4) (w : BitVec 2) (b a d : BitVec 5)
  /-- STVX (R115): Scatters active lanes to the own core's scratchpad. -/
  | stvx (g : BitVec 4) (w : BitVec 2) (b a d : BitVec 5)
  /-- LDF (R116): Loads a granule when full, optionally emptying it, waiting unless .nw. -/
  | ldf (g : BitVec 4) (n c : BitVec 1) (k : BitVec 6) (a d : BitVec 5)
  /-- STF (R116): Stores to a granule when empty and sets it full, waiting unless .nw. -/
  | stf (g : BitVec 4) (n : BitVec 1) (k : BitVec 6) (a d : BitVec 5)
  /-- SETE (R116): Marks a granule empty. -/
  | sete (g : BitVec 4) (k : BitVec 6) (a : BitVec 5)
  /-- SETF (R116): Marks a granule full. -/
  | setf (g : BitVec 4) (k : BitVec 6) (a : BitVec 5)
  /-- GSTATE (R116): Reads a granule's full and waiter bits. -/
  | gstate (g : BitVec 4) (k : BitVec 6) (a d : BitVec 5)
  /-- AMO_LOAD (R310): Atomically reads a global word. -/
  | amoLoad (g : BitVec 4) (r w : BitVec 1) (a d : BitVec 5)
  /-- AMO_STORE (R312): Posts an atomic store to a global word, replaying on a fault. -/
  | amoStore (g : BitVec 4) (r w : BitVec 1) (b a : BitVec 5)
  /-- AMO_SWAP (R310): Atomically swaps a global word. -/
  | amoSwap (g : BitVec 4) (r w : BitVec 1) (b a d : BitVec 5)
  /-- CAS (R310): Compares and swaps a global word bitwise, returning the old value. -/
  | cas (g : BitVec 4) (r w : BitVec 1) (b a d : BitVec 5)
  /-- AMO_ADD (R310): Atomically adds an integer to a global word. -/
  | amoAdd (g : BitVec 4) (r w : BitVec 1) (b a d : BitVec 5)
  /-- AMO_AND (R310): Atomically ANDs a global word. -/
  | amoAnd (g : BitVec 4) (r w : BitVec 1) (b a d : BitVec 5)
  /-- AMO_OR (R310): Atomically ORs a global word. -/
  | amoOr (g : BitVec 4) (r w : BitVec 1) (b a d : BitVec 5)
  /-- AMO_XOR (R310): Atomically XORs a global word. -/
  | amoXor (g : BitVec 4) (r w : BitVec 1) (b a d : BitVec 5)
  /-- AMO_MIN_SIGNED (R310): Atomic signed minimum. -/
  | amoMinSigned (g : BitVec 4) (r w : BitVec 1) (b a d : BitVec 5)
  /-- AMO_MAX_SIGNED (R310): Atomic signed maximum. -/
  | amoMaxSigned (g : BitVec 4) (r w : BitVec 1) (b a d : BitVec 5)
  /-- AMO_MIN_UNSIGNED (R310): Atomic unsigned minimum. -/
  | amoMinUnsigned (g : BitVec 4) (r w : BitVec 1) (b a d : BitVec 5)
  /-- AMO_MAX_UNSIGNED (R310): Atomic unsigned maximum. -/
  | amoMaxUnsigned (g : BitVec 4) (r w : BitVec 1) (b a d : BitVec 5)
  /-- AMO_FADD (R310): Atomic floating-point add rounded to nearest, flags suppressed. -/
  | amoFadd (g : BitVec 4) (r w : BitVec 1) (b a d : BitVec 5)
  /-- AMO_FMIN (R310): Atomic floating-point minimum. -/
  | amoFmin (g : BitVec 4) (r w : BitVec 1) (b a d : BitVec 5)
  /-- AMO_FMAX (R310): Atomic floating-point maximum. -/
  | amoFmax (g : BitVec 4) (r w : BitVec 1) (b a d : BitVec 5)
  /-- FENCE_REL (R308): Release fence of a scope, waiting for the release wait. -/
  | fenceRel (g : BitVec 4) (sx : BitVec 2)
  /-- FENCE_ACQ (R308): Acquire fence of a scope. -/
  | fenceAcq (g : BitVec 4) (sx : BitVec 2)
  /-- FENCE_AR (R308): Acquire-release fence of a scope. -/
  | fenceAr (g : BitVec 4) (sx : BitVec 2)
  /-- VADD (R129): Lane-wise floating add. -/
  | vadd (g : BitVec 4) (t : BitVec 2) (b a d : BitVec 5)
  /-- VSUB (R129): Lane-wise floating subtract. -/
  | vsub (g : BitVec 4) (t : BitVec 2) (b a d : BitVec 5)
  /-- VMUL (R129): Lane-wise floating multiply. -/
  | vmul (g : BitVec 4) (t : BitVec 2) (b a d : BitVec 5)
  /-- VDIV (R129): Lane-wise correctly rounded divide on the vector divider. -/
  | vdiv (g : BitVec 4) (t : BitVec 2) (b a d : BitVec 5)
  /-- VFMA (R129): Lane-wise fused a × b + c. -/
  | vfma (g : BitVec 4) (t : BitVec 2) (b a d : BitVec 5)
  /-- VFMS (R129): Lane-wise fused a × b − c. -/
  | vfms (g : BitVec 4) (t : BitVec 2) (b a d : BitVec 5)
  /-- VFNMA (R129): Lane-wise fused c − a × b. -/
  | vfnma (g : BitVec 4) (t : BitVec 2) (b a d : BitVec 5)
  /-- VMIN (R130): Lane-wise floating minimum. -/
  | vmin (g : BitVec 4) (t : BitVec 2) (b a d : BitVec 5)
  /-- VMAX (R130): Lane-wise floating maximum. -/
  | vmax (g : BitVec 4) (t : BitVec 2) (b a d : BitVec 5)
  /-- VNEG (R131): Inverts lane signs. -/
  | vneg (g : BitVec 4) (t : BitVec 2) (a d : BitVec 5)
  /-- VABS (R131): Clears lane signs. -/
  | vabs (g : BitVec 4) (t : BitVec 2) (a d : BitVec 5)
  /-- VSQRT (R131): Lane-wise square root under a rounding mode. -/
  | vsqrt (g : BitVec 4) (t r : BitVec 2) (a d : BitVec 5)
  /-- VRCPA (R132): Approximate reciprocal at P fraction bits. -/
  | vrcpa (g : BitVec 4) (t : BitVec 2) (a d : BitVec 5)
  /-- VRSQA (R132): Approximate reciprocal square root. -/
  | vrsqa (g : BitVec 4) (t : BitVec 2) (a d : BitVec 5)
  /-- VEXPA (R132): Approximate base-2 exponential. -/
  | vexpa (g : BitVec 4) (t : BitVec 2) (a d : BitVec 5)
  /-- VLOGA (R132): Approximate base-2 logarithm. -/
  | vloga (g : BitVec 4) (t : BitVec 2) (a d : BitVec 5)
  /-- VRINT (R131): Rounds lanes to integral values. -/
  | vrint (g : BitVec 4) (t r : BitVec 2) (a d : BitVec 5)
  /-- VIADD (R134): Lane-wise integer add. -/
  | viadd (g : BitVec 4) (w : BitVec 2) (b a d : BitVec 5)
  /-- VISUB (R134): Lane-wise integer subtract. -/
  | visub (g : BitVec 4) (w : BitVec 2) (b a d : BitVec 5)
  /-- VIMUL (R134): Lane-wise integer multiply. -/
  | vimul (g : BitVec 4) (w : BitVec 2) (b a d : BitVec 5)
  /-- VIMIN_I (R134): Lane-wise signed minimum. -/
  | viminI (g : BitVec 4) (w : BitVec 2) (b a d : BitVec 5)
  /-- VIMIN_N (R134): Lane-wise unsigned minimum. -/
  | viminN (g : BitVec 4) (w : BitVec 2) (b a d : BitVec 5)
  /-- VIMAX_I (R134): Lane-wise signed maximum. -/
  | vimaxI (g : BitVec 4) (w : BitVec 2) (b a d : BitVec 5)
  /-- VIMAX_N (R134): Lane-wise unsigned maximum. -/
  | vimaxN (g : BitVec 4) (w : BitVec 2) (b a d : BitVec 5)
  /-- VIADDS_I (R134): Lane-wise signed saturating add. -/
  | viaddsI (g : BitVec 4) (w : BitVec 2) (b a d : BitVec 5)
  /-- VIADDS_N (R134): Lane-wise unsigned saturating add. -/
  | viaddsN (g : BitVec 4) (w : BitVec 2) (b a d : BitVec 5)
  /-- VAND (R134): Lane-wise AND. -/
  | vand (g : BitVec 4) (w : BitVec 2) (b a d : BitVec 5)
  /-- VOR (R134): Lane-wise OR. -/
  | vor (g : BitVec 4) (w : BitVec 2) (b a d : BitVec 5)
  /-- VXOR (R134): Lane-wise XOR. -/
  | vxor (g : BitVec 4) (w : BitVec 2) (b a d : BitVec 5)
  /-- VSHL (R134): Lane-wise left shift. -/
  | vshl (g : BitVec 4) (w : BitVec 2) (b a d : BitVec 5)
  /-- VSHR_N (R134): Lane-wise logical right shift. -/
  | vshrN (g : BitVec 4) (w : BitVec 2) (b a d : BitVec 5)
  /-- VSHR_I (R134): Lane-wise arithmetic right shift. -/
  | vshrI (g : BitVec 4) (w : BitVec 2) (b a d : BitVec 5)
  /-- VCMP (R135): Compares lanes and writes a lane mask predicate. -/
  | vcmp (g : BitVec 4) (c : BitVec 3) (w : BitVec 2) (b a : BitVec 5) (l : BitVec 2) (p : BitVec 3)
  /-- VSEL (R136): Selects each lane from va or vb by the guard. -/
  | vsel (g : BitVec 4) (w : BitVec 2) (b a d : BitVec 5)
  /-- VCVT (R137): Converts active elements between formats. -/
  | vcvt (g : BitVec 4) (r : BitVec 3) (t sx : BitVec 4) (a d : BitVec 5)
  /-- VDUP (R138): Broadcasts x[A] into active lanes. -/
  | vdup (g : BitVec 4) (w : BitVec 2) (a d : BitVec 5)
  /-- VGET (R138): Reads one lane into a scalar register. -/
  | vget (g : BitVec 4) (w : BitVec 2) (j a d : BitVec 5)
  /-- VINS (R138): Inserts x[A] into one lane. -/
  | vins (g : BitVec 4) (w : BitVec 2) (j a d : BitVec 5)
  /-- VIOTA (R138): Writes x[A] + i into each active lane. -/
  | viota (g : BitVec 4) (w : BitVec 2) (a d : BitVec 5)
  /-- VPERM (R138): Permutes lanes by an index vector. -/
  | vperm (g : BitVec 4) (w : BitVec 2) (b a d : BitVec 5)
  /-- VREDS (R141): Sums active lanes by a fixed tree into x[D]. -/
  | vreds (g t : BitVec 4) (a d : BitVec 5)
  /-- VREDM (R142): Folds the minimum or maximum of active lanes into x[D]. -/
  | vredm (g t : BitVec 4) (m : BitVec 1) (a d : BitVec 5)
  /-- VDOT (R141): Forms a fixed-order dot product into x[D]. -/
  | vdot (g t : BitVec 4) (b a d : BitVec 5)
  /-- VSCAN (R143): Forms running lane sums. -/
  | vscan (g t : BitVec 4) (a d : BitVec 5)
  /-- VSORT (R144): Stably sorts active keys, optionally with values, on the sort network. -/
  | vsort (g : BitVec 4) (e k : BitVec 1) (c : BitVec 4) (b a d : BitVec 5)
  /-- VMXQ (R145): Quantises a 32-element block to MX elements with its scale in e7. -/
  | vmxq (g : BitVec 4) (e : BitVec 3) (t : BitVec 2) (r : BitVec 3) (a d : BitVec 5)
  /-- VMXD (R146): Decodes an MX block with scale e7 into a register group. -/
  | vmxd (g : BitVec 4) (e : BitVec 3) (t : BitVec 2) (a d : BitVec 5)
  /-- VLUT (R139): Looks up lanes in an eight-register table. -/
  | vlut (g : BitVec 4) (w : BitVec 2) (b a d : BitVec 5)
  /-- RINIT (R153): Defines a ring from a configuration word. -/
  | rinit (g q : BitVec 4) (a : BitVec 5)
  /-- RADV_HEAD (R154): Pops n filled slots of a ring. -/
  | radvHead (g q : BitVec 4) (a : BitVec 5)
  /-- RADV_TAIL (R154): Fills n slots of a local ring as a release. -/
  | radvTail (g q : BitVec 4) (a : BitVec 5)
  /-- RWAIT_HEAD (R155): Waits for n filled slots and returns the head slot address. -/
  | rwaitHead (g q : BitVec 4) (a d : BitVec 5)
  /-- RWAIT_TAIL (R155): Waits for n free slots and returns the tail slot address. -/
  | rwaitTail (g q : BitVec 4) (a d : BitVec 5)
  /-- RSTAT (R156): Writes a snapshot of a ring. -/
  | rstat (g q : BitVec 4) (d : BitVec 5)
  /-- TMMA (R168): Multiplies the head tiles of two rings into an accumulator slot. -/
  | tmma (g : BitVec 4) (t : BitVec 3) (c b a : BitVec 4)
  /-- TMMX (R171): Multiplies MX tiles with block scales into an accumulator slot. -/
  | tmmx (g : BitVec 4) (t : BitVec 3) (c b a : BitVec 4)
  /-- TZERO (R173): Zeroes an accumulator slot. -/
  | tzero (g c : BitVec 4)
  /-- TLOADA (R174): Loads an accumulator slot from a ring tile. -/
  | tloada (g t c q : BitVec 4)
  /-- TSTORE (R175): Writes an accumulator slot through the epilogue into a ring slot. -/
  | tstore (g t c q : BitVec 4) (e : BitVec 3)
  /-- TTRN (R177): Transposes a ring tile into another ring. -/
  | ttrn (g t sx q : BitVec 4)
  /-- TSCL (R169): Writes a scale register. -/
  | tscl (g : BitVec 4) (z : BitVec 2) (a : BitVec 5)
  /-- SLAB (R178): Sets the forwarding role of a ring. -/
  | slab (g q : BitVec 4) (a : BitVec 5)
  /-- SPAWN (R183): Sends a spawn record to a target core and waits for its answer. -/
  | spawn (g : BitVec 4) (q : BitVec 1) (d : BitVec 5)
  /-- QUIT (R188): Ends the process after its release wait, or ends a stage firing. -/
  | quit (g : BitVec 4)
  /-- COMMIT (R190): Marks an idempotent process committed. -/
  | commit (g : BitVec 4)
  /-- YIELD (R191): Gives up issue for 16 cycles. -/
  | yield (g : BitVec 4)
  /-- PRIO (R192): Sets the process's priority. -/
  | prio (g : BitVec 4) (a : BitVec 5)
  /-- CHOPEN (R200): Configures a closed port. -/
  | chopen (g : BitVec 4) (q : BitVec 1) (p : BitVec 6) (a d : BitVec 5)
  /-- CHBIND (R204): Binds a port to a handle through a bind query. -/
  | chbind (g : BitVec 4) (q : BitVec 1) (p : BitVec 6) (a d : BitVec 5)
  /-- CHCLOSE (R205): Closes a port, discarding messages and returning credits. -/
  | chclose (g : BitVec 4) (q : BitVec 1) (p : BitVec 6) (d : BitVec 5)
  /-- CHSTAT (R206): Reads a port's status, handle, peer or head-message word. -/
  | chstat (g : BitVec 4) (p : BitVec 6) (sx d : BitVec 5)
  /-- WREL (R207): Discards the head message and returns its buffer. -/
  | wrel (g : BitVec 4) (q : BitVec 1) (p : BitVec 6) (d : BitVec 5)
  /-- SEND (R209): Sends a word message against a credit as a release. -/
  | send (g : BitVec 4) (q : BitVec 1) (p : BitVec 6) (a d : BitVec 5)
  /-- RECV (R210): Takes a word message as an acquire. -/
  | recv (g : BitVec 4) (q : BitVec 1) (p : BitVec 6) (a d : BitVec 5)
  /-- SENDV (R209): Sends a vector message. -/
  | sendv (g : BitVec 4) (q : BitVec 1) (p : BitVec 6) (a d : BitVec 5)
  /-- RECVV (R210): Takes a vector message. -/
  | recvv (g : BitVec 4) (q : BitVec 1) (p : BitVec 6) (a d : BitVec 5)
  /-- SENDT (R211): Streams a tile from scratchpad to a granted destination. -/
  | sendt (g : BitVec 4) (q : BitVec 1) (p : BitVec 6) (a d : BitVec 5)
  /-- RECVT (R211): Grants a tile request with a destination address and waits for the data. -/
  | recvt (g : BitVec 4) (q : BitVec 1) (p : BitVec 6) (a d : BitVec 5)
  /-- ALT (R216): Waits until one of up to eight guards is ready and returns its e-register number. -/
  | alt (g : BitVec 4) (n : BitVec 3) (d : BitVec 5)
  /-- LAUNCH (R227): Requests a launch from the die's launch agent. -/
  | launch (g : BitVec 4) (q : BitVec 1) (b d : BitVec 5)
  /-- LWAIT (R233): Waits for a launch, graph or job to be DONE and acquires it. -/
  | lwait (g : BitVec 4) (q : BitVec 1) (b a d : BitVec 5)
  /-- LCANCEL (R234): Cancels a launch or graph and its descendants. -/
  | lcancel (g : BitVec 4) (q : BitVec 1) (a d : BitVec 5)
  /-- LDEP (R235): Adds a dependence, or releases a held launch. -/
  | ldep (g : BitVec 4) (q : BitVec 1) (b a d : BitVec 5)
  /-- GRAPH_OPEN (R236): Allocates a graph record. -/
  | graphOpen (g : BitVec 4) (q : BitVec 1) (a d : BitVec 5)
  /-- GRAPH_CLOSE (R236): Closes a graph and releases its members. -/
  | graphClose (g : BitVec 4) (q : BitVec 1) (a d : BitVec 5)
  /-- JCANCEL (R237): Cancels every launch and process of a context on the package. -/
  | jcancel (g : BitVec 4) (q : BitVec 1) (a d : BitVec 5)
  /-- NEXTT (R252): Takes the tile index for a slab step from an imposition table. -/
  | nextt (g : BitVec 4) (q : BitVec 1) (b a d : BitVec 5)
  /-- GSEND_SCALAR (R243): Contributes a scalar word to a combine sequence. -/
  | gsendScalar (g : BitVec 4) (q : BitVec 1) (p : BitVec 6) (a d : BitVec 5)
  /-- GSEND_VECTOR (R243): Contributes vector words to a combine sequence. -/
  | gsendVector (g : BitVec 4) (q : BitVec 1) (p : BitVec 6) (a d : BitVec 5)
  /-- GRECV_SCALAR (R244): Takes a combine result into a scalar register. -/
  | grecvScalar (g : BitVec 4) (q : BitVec 1) (p : BitVec 6) (a d : BitVec 5)
  /-- GRECV_VECTOR (R244): Takes a combine result into vector registers. -/
  | grecvVector (g : BitVec 4) (q : BitVec 1) (p : BitVec 6) (a d : BitVec 5)
  /-- GCFG (R241): Configures or clears a combine-table entry. -/
  | gcfg (g : BitVec 4) (p : BitVec 6) (a : BitVec 5)
  /-- GCFG_PORT (R245): Configures a port as a dispatch sender or sink. -/
  | gcfgPort (g : BitVec 4) (p : BitVec 6) (a : BitVec 5)
  /-- DSEND (R248): Sends a 64-byte row to a keyed destination, with drop, reroute or spill. -/
  | dsend (g : BitVec 4) (q : BitVec 1) (p : BitVec 6) (a d : BitVec 5)
  /-- DSTAT (R249): Reads dispatch counts of a sender or sink. -/
  | dstat (g : BitVec 4) (p : BitVec 6) (a d : BitVec 5)
  /-- COPY (R335): Issues a strided copy described by e0–e5. -/
  | copy (g : BitVec 4) (q : BitVec 1) (d : BitVec 5)
  /-- COPYA (R335): Issues a copy armed on a trigger counter. -/
  | copya (g : BitVec 4) (q : BitVec 1) (k : BitVec 4) (a d : BitVec 5)
  /-- CSTAT (R336): Reads a counter, barrier or engine summary, clearing it under selector 3. -/
  | cstat (g k : BitVec 4) (sx d : BitVec 5)
  /-- CTRADD (R337): Adds to a trigger counter. -/
  | ctradd (g : BitVec 4) (q : BitVec 1) (k : BitVec 4) (a d : BitVec 5)
  /-- CTRSET (R337): Writes a trigger counter, taking ownership, optionally cancelling arms. -/
  | ctrset (g : BitVec 4) (q c : BitVec 1) (k : BitVec 4) (a d : BitVec 5)
  /-- TBEXP (R338): Posts or initialises a transaction-barrier expectation. -/
  | tbexp (g : BitVec 4) (q : BitVec 1) (k : BitVec 3) (a d : BitVec 5)
  /-- TBARR (R339): Arrives at a barrier and waits for the phase to complete. -/
  | tbarr (g : BitVec 4) (q : BitVec 1) (k : BitVec 3) (d : BitVec 5)
  /-- PROOF (R347): Tests a draft's residual against the tolerance. -/
  | proof (g : BitVec 4) (a : BitVec 5)
  /-- PVERD (R348): Reads the draft's verdict so far. -/
  | pverd (g : BitVec 4) (d : BitVec 5)
  /-- HLOAD (R273): Queues a copy from global memory into the memory core's window. -/
  | hload (g : BitVec 4) (b a d : BitVec 5)
  /-- HSTORE (R274): Queues a copy from the window to global memory. -/
  | hstore (g : BitVec 4) (b a d : BitVec 5)
  /-- HPUSH (R275): Queues a push of window bytes into a ring slot on a core. -/
  | hpush (g : BitVec 4) (b a d : BitVec 5)
  /-- HDRAIN (R276): Waits for the process's memory-core operations and returns the failure summary. -/
  | hdrain (g : BitVec 4) (d : BitVec 5)
  /-- TLBP (R278): Probes cached translations or reads the lease clock. -/
  | tlbp (g : BitVec 4) (b a d : BitVec 5)
  /-- C_NOP (R56): Compact no-operation. -/
  | cNop
  /-- C_MOV (R56): Compact MOV. -/
  | cMov (a d : BitVec 4)
  /-- C_ADD (R56): Compact ADD xd, xd, xa. -/
  | cAdd (a d : BitVec 4)
  /-- C_ADDI (R56): Compact ADDI with a 7-bit immediate. -/
  | cAddi (k : BitVec 7) (d : BitVec 4)
  /-- C_SUB (R56): Compact SUB. -/
  | cSub (a d : BitVec 4)
  /-- C_AND (R56): Compact AND. -/
  | cAnd (a d : BitVec 4)
  /-- C_OR (R56): Compact OR. -/
  | cOr (a d : BitVec 4)
  /-- C_XOR (R56): Compact XOR. -/
  | cXor (a d : BitVec 4)
  /-- C_SHLI (R56): Compact SHLI. -/
  | cShli (sx : BitVec 6) (d : BitVec 4)
  /-- C_LI (R56): Compact LI. -/
  | cLi (k : BitVec 7) (d : BitVec 4)
  /-- C_LD (R56): Compact LD.i64. -/
  | cLd (j : BitVec 3) (a d : BitVec 4)
  /-- C_ST (R56): Compact ST.i64. -/
  | cSt (j : BitVec 3) (a d : BitVec 4)
  /-- C_BR (R57): Compact conditional branch with its own guard. -/
  | cBr (k : BitVec 7) (n : BitVec 1) (p : BitVec 3)
  /-- C_J (R56): Compact jump. -/
  | cJ (k : BitVec 11)
  /-- C_RECV (R56): Compact RECV. -/
  | cRecv (p d : BitVec 4)
  /-- C_SEND (R56): Compact SEND. -/
  | cSend (p a : BitVec 4)
  /-- ILLEGAL_WORD (R58): A slot issues a halfword or word that decodes as no instruction (major 0x00, a reserved
  major, a reserved compact encoding, or a major 0x3E form off a memory core) and raises ILLEGAL. -/
  | illegalWord (w : Nat)
  /-- IFLUSH_DONE (R88): The 64-cycle flush completes and the slot rejoins the rotation. -/
  | iflushDone
  /-- GRANULE_POLL_REISSUE (R121): Every 64 cycles a polling process reissues its granule operation. -/
  | granulePollReissue
  /-- RELEASE_WAIT_DONE (R302): SACK, the replay queue and HOSTP drain and the waiting release form takes effect. -/
  | releaseWaitDone
  /-- VECTOR_UNIT_GRANT (R147): The vector divider or sort network is granted to the oldest waiting instruction. -/
  | vectorUnitGrant
  /-- VECTOR_RESULT (R124): A multi-cycle vector instruction writes its result and flags and its slot rejoins the
  rotation. -/
  | vectorResult
  /-- DIVIDER_GRANT (R88): The scalar divider is granted to the oldest waiting DIV or REM. -/
  | dividerGrant
  /-- DIVIDER_DONE (R88): A DIV or REM writes its result after 24 cycles and the slot rejoins the rotation. -/
  | dividerDone
  /-- TILE_ACCEPT (R162): A waiting tile instruction is accepted into the tile queue, capturing z registers and
  claiming a destination slot. -/
  | tileAccept
  /-- TILE_START (R163): The tile unit starts the next accepted instruction. -/
  | tileStart
  /-- TILE_ACTIVATION_GRANT (R461): The die governor admits a held tile-unit activation. -/
  | tileActivationGrant
  /-- TILE_COMPLETE (R163): A tile instruction writes results, pops and fills rings, merges flags and frees its entry. -/
  | tileComplete
  /-- YIELD_END (R191): The 16-cycle yield expires and the slot becomes eligible again. -/
  | yieldEnd
  /-- SPAWN_RECORD_ACCEPT (R182): A spawn record is taken into a free queue entry, its header read and its answer
  sent. -/
  | spawnRecordAccept
  /-- SPAWN_ANSWER (R183): The target's answer to a SPAWN reaches the issuer, which writes the status. -/
  | spawnAnswer
  /-- SLOT_ASSIGN (R182): A free slot is given to a ready parked process, an exact record or the best fitting spawn
  record, allocating window, rings and ports. -/
  | slotAssign
  /-- WINDOW_CLEAR_DONE (R24): Window clearing completes and the process starts with its initial state. -/
  | windowClearDone
  /-- PARK_START (R194): The core begins parking its oldest parkable blocked slot. -/
  | parkStart
  /-- PARK_DONE (R195): Saving into a park record completes and the slot becomes empty. -/
  | parkDone
  /-- PARK_RESTORE_DONE (R195): Restoring a parked process completes and it reissues its instruction. -/
  | parkRestoreDone
  /-- STAGE_FIRING (R198): A stage process fires when its input and credit counts are met. -/
  | stageFiring
  /-- ALT_TIMEOUT (R215): An ALT time-out guard's deadline expires. -/
  | altTimeout
  /-- CREDIT_REQUEST_ARRIVE (R202): A credit request reaches a receiving port, is checked and queued or answered. -/
  | creditRequestArrive
  /-- CREDIT_GRANT (R202): A port grants a queued request once a buffer or a waiting receive permits. -/
  | creditGrant
  /-- CHANNEL_ANSWER (R203): A grant, refusal, bind answer or acknowledgement reaches the sending port. -/
  | channelAnswer
  /-- MESSAGE_ARRIVE (R209): A channel message reaches its port and is buffered, taken or dropped. -/
  | messageArrive
  /-- CREDIT_RETURN (R202): A returned credit reaches its port. -/
  | creditReturn
  /-- BIND_QUERY_ARRIVE (R203): A bind query is checked at the receiving port and answered. -/
  | bindQueryArrive
  /-- TILE_TRANSFER_DATA (R211): Tile flits are written at the receiver, granules set full, and the final
  acknowledgement sent. -/
  | tileTransferData
  /-- DEADLOCK_PROBE_START (R218): After DLWINDOW blocked cycles a core sends deadlock probes for a context. -/
  | deadlockProbeStart
  /-- DEADLOCK_PROBE (R218): A probe is forwarded, dropped or closes a cycle at its origin. -/
  | deadlockProbe
  /-- LAUNCH_REQUEST_ARRIVE (R227): The launch agent reads the header, allocates a record and answers. -/
  | launchRequestArrive
  /-- LAUNCH_ANSWER (R227): The agent's answer reaches the issuer, which writes the identifier or status. -/
  | launchAnswer
  /-- LAUNCH_RELEASE (R235): A pending launch whose hold and dependences are met starts its wake flood. -/
  | launchRelease
  /-- LAUNCH_WAKE (R228): A wake message reaches a core, which places the launch's spawn records. -/
  | launchWake
  /-- LAUNCH_COUNTER_DECREMENT (R230): A process end, child completion or placement end decrements a launch counter at
  its agent. -/
  | launchCounterDecrement
  /-- CANCEL_ARRIVE (R234): A flooded cancel reaches a core and ends the launch's records and processes. -/
  | cancelArrive
  /-- COMBINE_CONTRIBUTION_ARRIVE (R242): A child contribution reaches a router's combine sequence. -/
  | combineContributionArrive
  /-- COMBINE_SEQUENCE (R242): A complete sequence is combined in fixed order and sent up or formed as result. -/
  | combineSequence
  /-- COMBINE_RESULT_ARRIVE (R242): A result travels down to a router and waits for local receivers. -/
  | combineResultArrive
  /-- COMBINE_CREDIT_ARRIVE (R242): A parent's credit lets a router send a child contribution. -/
  | combineCreditArrive
  /-- DISPATCH_CLAIM_ARRIVE (R246): A dispatch claim is checked at a sink and granted a slot or refused FULL. -/
  | dispatchClaimArrive
  /-- DISPATCH_CLAIM_ANSWER (R248): The sink's answer reaches the sender, which sends the row or applies its policy. -/
  | dispatchClaimAnswer
  /-- DISPATCH_ROW_ARRIVE (R246): A row is written at the sink, set full and made visible in arrival order. -/
  | dispatchRowArrive
  /-- COPY_ACCEPT (R321): A copy takes its destination granules and is accepted or armed. -/
  | copyAccept
  /-- COPY_UNIT_SEND (R323): The engine sends the next transfer unit of a running copy. -/
  | copyUnitSend
  /-- COPY_UNIT_READ (R323): The source holder reads a unit and pushes it to the destination. -/
  | copyUnitRead
  /-- COPY_UNIT_WRITE (R323): The destination holder writes a unit, sets granules full and acknowledges. -/
  | copyUnitWrite
  /-- COPY_UNIT_ACK (R327): A unit acknowledgement charges the barrier and may complete the copy. -/
  | copyUnitAck
  /-- GALLEY_WRITE (R350): A draft's write enters or merges into a galley entry at its home, or is refused when full. -/
  | galleyWrite
  /-- DRAFT_SETTLED (R358): A quitting draft's writes and copies have drained and its cause is decided. -/
  | draftSettled
  /-- GALLEY_PREPARE (R359): A home checks a tag's entries and locks their lines or answers LAPSE. -/
  | galleyPrepare
  /-- GALLEY_PREPARE_ANSWER (R359): A prepare answer reaches the draft's core, which publishes or discards. -/
  | galleyPrepareAnswer
  /-- GALLEY_PUBLISH (R359): A home writes a tag's masked bytes, frees entries and releases lines. -/
  | galleyPublish
  /-- GALLEY_PUBLISH_ACK (R359): The last publish acknowledgement commits the draft. -/
  | galleyPublishAck
  /-- GALLEY_DISCARD (R361): A home drops a tag's entries. -/
  | galleyDiscard
  /-- GALLEY_DISCARD_ACK (R361): The last discard acknowledgement frees the draft and writes its exact record. -/
  | galleyDiscardAck
  /-- MEMCORE_OP_ACCEPT (R272): A waiting memory-core operation is accepted when the queue and per-process limits
  allow. -/
  | memcoreOpAccept
  /-- HLOAD_LINE_ARRIVE (R273): An HLOAD line is written into the window and its granules set full. -/
  | hloadLineArrive
  /-- HSTORE_LINE_DONE (R274): An HSTORE line is performed at its home. -/
  | hstoreLineDone
  /-- MEMCORE_OP_COMPLETE (R276): A memory-core operation completes, recording any failure. -/
  | memcoreOpComplete
  /-- RING_CLAIM_ARRIVE (R275): An external producer's claim is checked at the ring's core. -/
  | ringClaimArrive
  /-- RING_CLAIM_GRANT (R275): A waiting claim takes the tail slot when FREE ≥ 1 and is granted. -/
  | ringClaimGrant
  /-- RING_CLAIM_ANSWER (R275): A claim grant or failure reaches the producer, which streams or records it. -/
  | ringClaimAnswer
  /-- RING_PUSH_DATA (R275): Pushed or copied data is written into a claimed slot and the slot marked filled. -/
  | ringPushData
  /-- FORWARD_CREDIT_GRANT (R179): A sink core grants a forwarding credit and claims a slot. -/
  | forwardCreditGrant
  /-- FORWARD_SEND (R179): A source sends a filled slot's copy against a credit. -/
  | forwardSend
  /-- FORWARD_DATA_ARRIVE (R179): The sink writes a forwarded copy, fills the slot and acknowledges. -/
  | forwardDataArrive
  /-- FORWARD_ACK (R179): The source advances FHEAD and lowers UNFWD. -/
  | forwardAck
  /-- FORWARD_FAILURE (R180): A source learns its sink cannot take forwards and sets FERR. -/
  | forwardFailure
  /-- AMO_AT_HOME (R311): An AMO, CAS or store is lease-checked and performed indivisibly at its home. -/
  | amoAtHome
  /-- NEXTT_AT_HOME (R252): A NEXTT request is performed atomically at the table's home. -/
  | nexttAtHome
  /-- AMO_REPLY (R313): An atomic reply reaches the issuer and writes x[D]. -/
  | amoReply
  /-- REMOTE_ACCESS_ARRIVE (R266): A remote scratchpad access is checked and served at the owning core. -/
  | remoteAccessArrive
  /-- REMOTE_LOAD_REPLY (R122): Remote load data or refusal returns to the issuer. -/
  | remoteLoadReply
  /-- STORE_ACK (R301): A posted write's acknowledgement lowers SACK. -/
  | storeAck
  /-- HOST_WRITEBACK_DONE (R434): An AMO.store to apertures 1 or 2 reaches host memory and leaves HOSTP. -/
  | hostWritebackDone
  /-- LAPSE_REJECT (R290): A home rejects a request with LAPSE and the issuer walks again and resends. -/
  | lapseReject
  /-- WALK_COMPLETE (R285): A page-table walk returns a translation or a fault. -/
  | walkComplete
  /-- WALK_RESTART (R285): A walk not finished within one lease count is abandoned and restarted. -/
  | walkRestart
  /-- TRANSLATION_EXPIRY (R288): A cached translation is dropped when the die clock reaches E. -/
  | translationExpiry
  /-- LEASE_RENEWAL (R294): An in-progress operation walks again when E is within 8 counts. -/
  | leaseRenewal
  /-- LEASE_TICK (R289): I/O die 0 sends a lease-clock tick that steps every die's copy. -/
  | leaseTick
  /-- LEASE_RESYNC (R291): The I/O die resynchronises a skewed die and walks resume. -/
  | leaseResync
  /-- WATCH_NOTIFY (R295): A write to a watched line makes the network interface reread an ALT word. -/
  | watchNotify
  /-- WATCH_POLL (R295): An unwatched ALT kind 4 guard is polled every 1,024 cycles. -/
  | watchPoll
  /-- FAULT_RECORD_SEND (R369): A core sends a fault record to the die's pager against a credit. -/
  | faultRecordSend
  /-- FAULT_RECORD_RETRY (R369): Every 1,024 cycles a held fault record's credit request is repeated. -/
  | faultRecordRetry
  /-- WAKE_RETRY (R371): A RETRY wake reissues the suspended instruction or resends queued stores or units. -/
  | wakeRetry
  /-- WAKE_KILL (R371): A KILL wake ends the process with FAULT. -/
  | wakeKill
  /-- WAKE_ABANDON (R371): An ABANDON wake abandons a copy entry or memory-core lines with PARTIAL. -/
  | wakeAbandon
  /-- CORE_SAVE (R375): A core stops, discards or saves a context's processes once unparkable waits finish. -/
  | coreSave
  /-- CORE_RESTORE (R381): A core restores a saved context once its resources are free. -/
  | coreRestore
  /-- CORE_WATCHDOG (R385): The progress watchdog count reaches WDCYCLES and a record is sent. -/
  | coreWatchdog
  /-- LINK_WATCHDOG (R386): A virtual-channel head waits LIMIT cycles and a record is sent. -/
  | linkWatchdog
  /-- FENCE_SALVAGE (R390): The management agent reads a fenced core and decides the fate of its work. -/
  | fenceSalvage
  /-- ECC_CORRECTABLE (R395): A correctable error is corrected and counted. -/
  | eccCorrectable
  /-- ECC_UNCORRECTABLE (R395): An uncorrectable error is handled at its site. -/
  | eccUncorrectable
  /-- DBG_HALT (R400): A write of HALT = 1 stops issue on the core. -/
  | dbgHalt
  /-- DBG_RESUME (R400): A write of HALT = 0 resumes issue. -/
  | dbgResume
  /-- DBG_STEP (R400): A write of STEP = 1 lets one slot issue one instruction while halted. -/
  | dbgStep
  /-- DBGACC_READ (R401): A DBGACC write with WR = 0 reads a process item into DBGDATA. -/
  | dbgaccRead
  /-- DBGACC_WRITE (R401): A DBGACC write with WR = 1 writes DBGDATA into a halted process's item. -/
  | dbgaccWrite
  /-- TRACE_DRAIN (R404): The oldest trace record leaves the buffer when the trace network grants a credit. -/
  | traceDrain
  /-- TRACE_RING_WRITE (R405): The die trace unit writes a record and WRPTR into the trace ring. -/
  | traceRingWrite
  /-- TRACE_RDPTR_POLL (R405): A full trace ring's RDPTR is reread every 1,024 cycles. -/
  | traceRdptrPoll
  /-- CAPTURE_START_PACKET (R407): A start-capture packet makes a router zero counts and open an interval. -/
  | captureStartPacket
  /-- CAPTURE_INTERVAL_END (R407): At the end of INTLEN cycles a router dumps its counts. -/
  | captureIntervalEnd
  /-- CAPTURE_STOP_PACKET (R407): A stop packet ends the interval with a partial dump. -/
  | captureStopPacket
  /-- BRIDGE_FLIT_RETRY (R419): A flit failing CRC is retried, and 16 failures take its module out. -/
  | bridgeFlitRetry
  /-- BRIDGE_PAUSE (R421): BCTL command PAUSE stops new flits on the bridge. -/
  | bridgePause
  /-- BRIDGE_PAUSED (R421): Every sent flit is acknowledged and the bridge enters PAUSED. -/
  | bridgePaused
  /-- BRIDGE_REPAIR (R446): BCTL command REPAIR measures a module and maps failing lanes to spares. -/
  | bridgeRepair
  /-- BRIDGE_RETRAIN (R421): BCTL command RETRAIN trains a module at x64, x32 or off. -/
  | bridgeRetrain
  /-- BRIDGE_RESUME (R421): BCTL command RESUME returns the bridge to RUN if a module is up. -/
  | bridgeResume
  /-- BRIDGE_MODOFF (R421): BCTL command MODOFF takes a module out while paused. -/
  | bridgeModoff
  /-- BRIDGE_SERVICE_DONE (R421): A repair or training completes and the bridge returns to PAUSED. -/
  | bridgeServiceDone
  /-- SCALEUP_LINK_FLIT (R423): A scale-up link flit is checked and delivered, or a retry requested. -/
  | scaleupLinkFlit
  /-- SCALEUP_RETRY_REQUEST (R423): A retry request makes the sender replay go-back-N. -/
  | scaleupRetryRequest
  /-- E2E_ACK (R424): An end-to-end ack frees a flow's buffered packets. -/
  | e2eAck
  /-- E2E_NAK (R424): An end-to-end nak makes the sender resend from the missing packet. -/
  | e2eNak
  /-- E2E_ACK_TIMER (R424): The receiver acks a flow after 10 µs. -/
  | e2eAckTimer
  /-- E2E_RESEND_TIMEOUT (R424): After 1 ms without ack the sender resends, and after 8 resends sets UNREACH. -/
  | e2eResendTimeout
  /-- REDUCTION_RESULT (R429): A switch reduction result is written as a mask and delivered to the root router. -/
  | reductionResult
  /-- LEND_REQUEST (R426): An APERTURE 3 request from another package is checked against the lend table and performed
  or refused. -/
  | lendRequest
  /-- APERTURE3_REFUSAL (R464): A refused APERTURE 3 request's outcome reaches the issuer with a KIND 0x14 record. -/
  | aperture3Refusal
  /-- SCALEOUT_PACKET (R432): A course transport data, ack or nak packet arrives. -/
  | scaleoutPacket
  /-- SCALEOUT_TIMEOUT (R432): A retransmission time-out resends and doubles, and the tenth sets UNREACH. -/
  | scaleoutTimeout
  /-- HOST_MEM_ACCESS (R433): A host CXL.mem access is performed at the home. -/
  | hostMemAccess
  /-- CXL_SNOOP (R435): An invalidating snoop ends a monitor's shared copy and notifies watchers. -/
  | cxlSnoop
  /-- COMMAND_RING_FETCH (R437): The host interface unit reads the next command entry when TAIL exceeds HEAD. -/
  | commandRingFetch
  /-- CMD_LAUNCH (R438): Host command creating a depth-0 launch. -/
  | cmdLaunch
  /-- CMD_RETIRE (R438): Host command freeing a DONE depth-0 record. -/
  | cmdRetire
  /-- CMD_CANCEL (R438): Host command cancelling a launch or graph. -/
  | cmdCancel
  /-- CMD_JCANCEL (R438): Host command cancelling a context's job. -/
  | cmdJcancel
  /-- CMD_PSAVE (R438): Host command pre-empting a context. -/
  | cmdPsave
  /-- CMD_PRESUME (R438): Host command resuming a context. -/
  | cmdPresume
  /-- CMD_EVQ (R439): Host command configuring a context's event queue. -/
  | cmdEvq
  /-- CMD_SUMMARY (R440): Host command writing the device summary. -/
  | cmdSummary
  /-- CMD_NOP (R438): Host command doing nothing. -/
  | cmdNop
  /-- RDESC_ENABLE (R436): Writing EN = 1 enables a command ring and resets HEAD to TAIL. -/
  | rdescEnable
  /-- EVENT_RECORD_WRITE (R439): The host interface unit writes an event record and WRPTR, raising MSI-X. -/
  | eventRecordWrite
  /-- EVQ_RDPTR_POLL (R439): A full event queue's RDPTR is reread every 1,024 cycles. -/
  | evqRdptrPoll
  /-- LEND_ENTRY_WRITE (R426): A lend-table entry write, with V = 0 setting DRAIN. -/
  | lendEntryWrite
  /-- LEND_DRAIN_DONE (R426): DRAIN clears when every admitted request has been performed. -/
  | lendDrainDone
  /-- REGISTER_WRITE (R463): A management write to a register with no behaviour of its own. -/
  | registerWrite
  /-- RAW_DISCOVER (R452): A DISCOVER flit reaches a raw agent, which sends a REPORT. -/
  | rawDiscover
  /-- RAW_REPORT (R452): A REPORT flit is queued at (0, 0). -/
  | rawReport
  /-- RAW_IMAGE (R452): An IMAGE flit is written into a core's boot region. -/
  | rawImage
  /-- RAW_START (R452): A START flit starts a boot process on a mapped working core. -/
  | rawStart
  /-- RAW_DATA (R452): A DATA flit is queued at its destination. -/
  | rawData
  /-- POWER_INPUT_VALID (R447): The 48 V input enters range and the management cores leave reset. -/
  | powerInputValid
  /-- POWER_STEP (R447): A power-on step begins once the previous step reports ready. -/
  | powerStep
  /-- BOOT_PROGRAM_START (R450): The management agent writes map entries and images and starts the corner boot
  process. -/
  | bootProgramStart
  /-- LEAVE_BOOT_MODE (R458): After every die reports, the management core sets tables and clears BOOT. -/
  | leaveBootMode
  /-- THERMAL_HIGH (R462): A die above 105 °C throttles activations and reports. -/
  | thermalHigh
  /-- THERMAL_SHUTDOWN (R462): Above 115 °C the module loses power. -/
  | thermalShutdown
  /-- ATTESTATION_REQUEST (R442): An SPDM attestation request over PCIe DOE is answered with an ML-DSA-44-signed
  message that holds the digests of the loaded images. -/
  | attestationRequest
  /-- THERMAL_NORMAL (R462): Every die sensor falls back to 105 °C or below, and the die governor returns to 64
  activations per 128 cycles. -/
  | thermalNormal
  /-- CREDIT_REQUEST_WITHDRAWN (R189): The withdrawal of a queued credit request reaches the receiving port, which
  removes the request from its queue. -/
  | creditRequestWithdrawn
  deriving DecidableEq, Repr

end Sys2Proof
end

