-- ==== Sys2Proof/WellFormed.lean ====
section
/-! DEFINITION. Sys2Proof/WellFormed.lean: which instruction words are instructions (R58): the limits on field values
that the tables of R44 to R56 and the owning chapters state beyond the fixed bits of each row. -/

namespace Sys2Proof

/-- Registers in the group of a vector MX form, by FT (R127, R145, R146). -/
def groupLen (t : BitVec 2) : Nat := if t == 0 then 8 else if t == 1 then 4 else 2

/-- An encoded instruction is well formed when none of the field limits of R58 items 3 to 6 is broken. Every 32-bit
form needs a guard other than "never" (R39). An event has no word and is always well formed. -/
def wellFormed : Instr → Bool
  | .add g _ _ _ => g != 8
  | .sub g _ _ _ => g != 8
  | .mul g _ _ _ => g != 8
  | .mulh g _ _ _ _ => g != 8
  | .div g _ _ _ _ => g != 8
  | .rem g _ _ _ _ => g != 8
  | .and g _ _ _ => g != 8
  | .or g _ _ _ => g != 8
  | .xor g _ _ _ => g != 8
  | .shl g _ _ _ => g != 8
  | .shr g _ _ _ => g != 8
  | .sha g _ _ _ => g != 8
  | .rotl g _ _ _ => g != 8
  | .min g _ _ _ _ => g != 8
  | .max g _ _ _ _ => g != 8
  | .sel g _ _ _ => g != 8
  | .addi g e k _ _ => g != 8 && (e == 0 || k.toNat < 8)
  | .andi g e k _ _ => g != 8 && (e == 0 || k.toNat < 8)
  | .ori g e k _ _ => g != 8 && (e == 0 || k.toNat < 8)
  | .xori g e k _ _ => g != 8 && (e == 0 || k.toNat < 8)
  | .shli g _ _ _ => g != 8
  | .shri g _ _ _ => g != 8
  | .shai g _ _ _ => g != 8
  | .rotli g _ _ _ => g != 8
  | .clz g _ _ => g != 8
  | .ctz g _ _ => g != 8
  | .popc g _ _ => g != 8
  | .ext g _ sx _ _ => g != 8 && sx != 3
  | .bfx g _ _ _ => g != 8
  | .bfi g _ _ _ => g != 8
  | .mov g _ _ => g != 8
  | .movToY g _ _ => g != 8
  | .movFromY g _ _ => g != 8
  | .li g _ _ => g != 8
  | .lih g _ _ => g != 8
  | .cmp g u c _ _ _ => g != 8 && c.toNat < 6 && !(u == 1 && c.toNat < 2)
  | .cmpi g _ c _ _ _ => g != 8 && c.toNat < 6
  | .pand g _ _ _ => g != 8
  | .por g _ _ _ => g != 8
  | .pxor g _ _ _ => g != 8
  | .pnot g _ _ => g != 8
  | .pmovx g _ _ => g != 8
  | .pmovp g _ _ => g != 8
  | .br g _ _ => g != 8
  | .j g _ => g != 8
  | .jal g _ _ => g != 8
  | .jr g _ => g != 8
  | .jalr g _ _ => g != 8
  | .trap g _ => g != 8
  | .bkpt g _ => g != 8
  | .tret g _ => g != 8
  | .exti g _ _ _ => g != 8
  | .extx g _ _ => g != 8
  | .extg g _ _ _ => g != 8
  | .extl g _ _ _ => g != 8
  | .exts g _ _ _ => g != 8
  | .srd g _ _ => g != 8
  | .swr g _ _ => g != 8
  | .evt g _ _ => g != 8
  | .iflush g => g != 8
  | .fencecFence g x => g != 8 && x != 0
  | .fencecAbandon g x => g != 8 && x != 0
  | .cmapw g x => g != 8 && x != 0
  | .preemptSave g x => g != 8 && x != 0
  | .preemptResume g x => g != 8 && x != 0
  | .capstart g _ => g != 8
  | .capstop g _ _ => g != 8
  | .trcmark g _ _ _ => g != 8
  | .lsend g _ _ _ => g != 8
  | .lrecv g _ _ => g != 8
  | .ld g _ _ _ _ _ => g != 8
  | .st g _ _ _ _ _ => g != 8
  | .ldv g _ _ _ => g != 8
  | .stv g _ _ _ _ => g != 8
  | .ldvx g _ _ _ _ => g != 8
  | .stvx g _ _ _ _ => g != 8
  | .ldf g _ _ _ _ _ => g != 8
  | .stf g _ _ _ _ => g != 8
  | .sete g _ _ => g != 8
  | .setf g _ _ => g != 8
  | .gstate g _ _ _ => g != 8
  | .amoLoad g _ _ _ _ => g != 8
  | .amoStore g _ _ _ _ => g != 8
  | .amoSwap g _ _ _ _ _ => g != 8
  | .cas g _ _ _ _ _ => g != 8
  | .amoAdd g _ _ _ _ _ => g != 8
  | .amoAnd g _ _ _ _ _ => g != 8
  | .amoOr g _ _ _ _ _ => g != 8
  | .amoXor g _ _ _ _ _ => g != 8
  | .amoMinSigned g _ _ _ _ _ => g != 8
  | .amoMaxSigned g _ _ _ _ _ => g != 8
  | .amoMinUnsigned g _ _ _ _ _ => g != 8
  | .amoMaxUnsigned g _ _ _ _ _ => g != 8
  | .amoFadd g _ _ _ _ _ => g != 8
  | .amoFmin g _ _ _ _ _ => g != 8
  | .amoFmax g _ _ _ _ _ => g != 8
  | .fenceRel g _ => g != 8
  | .fenceAcq g _ => g != 8
  | .fenceAr g _ => g != 8
  | .vadd g _ _ _ _ => g != 8
  | .vsub g _ _ _ _ => g != 8
  | .vmul g _ _ _ _ => g != 8
  | .vdiv g _ _ _ _ => g != 8
  | .vfma g _ _ _ _ => g != 8
  | .vfms g _ _ _ _ => g != 8
  | .vfnma g _ _ _ _ => g != 8
  | .vmin g _ _ _ _ => g != 8
  | .vmax g _ _ _ _ => g != 8
  | .vneg g _ _ _ => g != 8
  | .vabs g _ _ _ => g != 8
  | .vsqrt g _ _ _ _ => g != 8
  | .vrcpa g _ _ _ => g != 8
  | .vrsqa g _ _ _ => g != 8
  | .vexpa g _ _ _ => g != 8
  | .vloga g _ _ _ => g != 8
  | .vrint g _ _ _ _ => g != 8
  | .viadd g _ _ _ _ => g != 8
  | .visub g _ _ _ _ => g != 8
  | .vimul g _ _ _ _ => g != 8
  | .viminI g _ _ _ _ => g != 8
  | .viminN g _ _ _ _ => g != 8
  | .vimaxI g _ _ _ _ => g != 8
  | .vimaxN g _ _ _ _ => g != 8
  | .viaddsI g _ _ _ _ => g != 8
  | .viaddsN g _ _ _ _ => g != 8
  | .vand g _ _ _ _ => g != 8
  | .vor g _ _ _ _ => g != 8
  | .vxor g _ _ _ _ => g != 8
  | .vshl g _ _ _ _ => g != 8
  | .vshrN g _ _ _ _ => g != 8
  | .vshrI g _ _ _ _ => g != 8
  | .vcmp g c w _ _ l _ => g != 8 && c.toNat < 6 && !(l == 2 && w == 0) && !(l == 3 && w != 1)
  | .vsel g _ _ _ _ => g != 8
  | .vcvt g r t sx _ _ => g != 8 && t.toNat < 14 && sx.toNat < 14 && t != sx && r.toNat < 5 && !(r == 4 && t.toNat < 10)
      && !(r != 0 && t.toNat < 8 && sx.toNat < 8)
  | .vdup g _ _ _ => g != 8
  | .vget g w j _ _ => g != 8 && j.toNat * 2 ^ w.toNat < 32
  | .vins g w j _ _ => g != 8 && j.toNat * 2 ^ w.toNat < 32
  | .viota g _ _ _ => g != 8
  | .vperm g _ _ _ _ => g != 8
  | .vreds g t _ _ => g != 8 && t.toNat < 14
  | .vredm g t _ _ _ => g != 8 && t.toNat < 14
  | .vdot g t _ _ _ => g != 8 && t.toNat < 14
  | .vscan g t _ _ => g != 8 && t.toNat < 12
  | .vsort g _ k c b _ d => g != 8 && c.toNat < 14 && !(k == 0 && b != 0) && !(k == 1 && b == d)
  | .vmxq g e t r a _ => g != 8 && e.toNat < 5 && r.toNat < 5 && a.toNat + groupLen t ≤ 32
  | .vmxd g e t _ d => g != 8 && e.toNat < 5 && d.toNat + groupLen t ≤ 32
  | .vlut g _ _ a _ => g != 8 && a.toNat ≤ 24
  | .rinit g _ _ => g != 8
  | .radvHead g _ _ => g != 8
  | .radvTail g _ _ => g != 8
  | .rwaitHead g _ _ _ => g != 8
  | .rwaitTail g _ _ _ => g != 8
  | .rstat g _ _ => g != 8
  | .tmma g _ _ _ _ => g != 8
  | .tmmx g t _ _ _ => g != 8 && t.toNat < 5
  | .tzero g _ => g != 8
  | .tloada g t _ _ => g != 8 && (t == 2 || t == 8 || t == 9 || t == 10 || t == 11)
  | .tstore g t _ _ e => g != 8 && (if e.getLsbD 2 then t.toNat < 5 else t.toNat < 14)
  | .ttrn g t sx q => g != 8 && t.toNat < 14 && sx != q
  | .tscl g _ _ => g != 8
  | .slab g _ _ => g != 8
  | .spawn g q d => g != 8 && (q == 1 || d == 0)
  | .quit g => g != 8
  | .commit g => g != 8
  | .yield g => g != 8
  | .prio g _ => g != 8
  | .chopen g q _ _ d => g != 8 && (q == 1 || d == 0)
  | .chbind g q _ _ d => g != 8 && (q == 1 || d == 0)
  | .chclose g q _ d => g != 8 && (q == 1 || d == 0)
  | .chstat g _ sx _ => g != 8 && (sx.toNat < 3 || (8 ≤ sx.toNat && sx.toNat < 16))
  | .wrel g q _ d => g != 8 && (q == 1 || d == 0)
  | .send g q _ _ d => g != 8 && (q == 1 || d == 0)
  | .recv g q _ a _ => g != 8 && (q == 1 || a == 0)
  | .sendv g q _ _ d => g != 8 && (q == 1 || d == 0)
  | .recvv g q _ a _ => g != 8 && (q == 1 || a == 0)
  | .sendt g q _ _ d => g != 8 && (q == 1 || d == 0)
  | .recvt g q _ _ d => g != 8 && (q == 1 || d == 0)
  | .alt g _ _ => g != 8
  | .launch g q b _ => g != 8 && (q == 1 || b == 0)
  | .lwait g q b _ _ => g != 8 && (q == 1 || b == 0)
  | .lcancel g q _ d => g != 8 && (q == 1 || d == 0)
  | .ldep g q _ _ d => g != 8 && (q == 1 || d == 0)
  | .graphOpen g q a _ => g != 8 && (q == 1 || a == 0)
  | .graphClose g q _ d => g != 8 && (q == 1 || d == 0)
  | .jcancel g q _ d => g != 8 && (q == 1 || d == 0)
  | .nextt g q _ a _ => g != 8 && (q == 1 || a == 0)
  | .gsendScalar g q _ _ d => g != 8 && (q == 1 || d == 0)
  | .gsendVector g q _ _ d => g != 8 && (q == 1 || d == 0)
  | .grecvScalar g q _ a _ => g != 8 && (q == 1 || a == 0)
  | .grecvVector g q _ a _ => g != 8 && (q == 1 || a == 0)
  | .gcfg g _ _ => g != 8
  | .gcfgPort g _ _ => g != 8
  | .dsend g _ _ _ _ => g != 8
  | .dstat g _ _ _ => g != 8
  | .copy g q d => g != 8 && (q == 1 || d == 0)
  | .copya g q _ _ d => g != 8 && (q == 1 || d == 0)
  | .cstat g k sx _ => g != 8 && sx.toNat < 8 && !((sx == 2 || sx == 3) && k != 0) && !(4 ≤ sx.toNat && 8 ≤ k.toNat)
  | .ctradd g q _ _ d => g != 8 && (q == 1 || d == 0)
  | .ctrset g q _ _ _ d => g != 8 && (q == 1 || d == 0)
  | .tbexp g q _ _ d => g != 8 && (q == 1 || d == 0)
  | .tbarr g q _ d => g != 8 && (q == 1 || d == 0)
  | .proof g _ => g != 8
  | .pverd g _ => g != 8
  | .hload g _ _ _ => g != 8
  | .hstore g _ _ _ => g != 8
  | .hpush g _ _ _ => g != 8
  | .hdrain g _ => g != 8
  | .tlbp g _ _ _ => g != 8
  | .cNop => true
  | .cMov _ _ => true
  | .cAdd _ _ => true
  | .cAddi _ _ => true
  | .cSub _ _ => true
  | .cAnd _ _ => true
  | .cOr _ _ => true
  | .cXor _ _ => true
  | .cShli _ _ => true
  | .cLi _ _ => true
  | .cLd _ _ _ => true
  | .cSt _ _ _ => true
  | .cBr _ n p => !(p == 0 && n == 1)
  | .cJ _ => true
  | .cRecv _ _ => true
  | .cSend _ _ => true
  | .illegalWord _ => true
  | .iflushDone => true
  | .granulePollReissue => true
  | .releaseWaitDone => true
  | .vectorUnitGrant => true
  | .vectorResult => true
  | .dividerGrant => true
  | .dividerDone => true
  | .tileAccept => true
  | .tileStart => true
  | .tileActivationGrant => true
  | .tileComplete => true
  | .yieldEnd => true
  | .spawnRecordAccept => true
  | .spawnAnswer => true
  | .slotAssign => true
  | .windowClearDone => true
  | .parkStart => true
  | .parkDone => true
  | .parkRestoreDone => true
  | .stageFiring => true
  | .altTimeout => true
  | .creditRequestArrive => true
  | .creditGrant => true
  | .channelAnswer => true
  | .messageArrive => true
  | .creditReturn => true
  | .bindQueryArrive => true
  | .tileTransferData => true
  | .deadlockProbeStart => true
  | .deadlockProbe => true
  | .launchRequestArrive => true
  | .launchAnswer => true
  | .launchRelease => true
  | .launchWake => true
  | .launchCounterDecrement => true
  | .cancelArrive => true
  | .combineContributionArrive => true
  | .combineSequence => true
  | .combineResultArrive => true
  | .combineCreditArrive => true
  | .dispatchClaimArrive => true
  | .dispatchClaimAnswer => true
  | .dispatchRowArrive => true
  | .copyAccept => true
  | .copyUnitSend => true
  | .copyUnitRead => true
  | .copyUnitWrite => true
  | .copyUnitAck => true
  | .galleyWrite => true
  | .draftSettled => true
  | .galleyPrepare => true
  | .galleyPrepareAnswer => true
  | .galleyPublish => true
  | .galleyPublishAck => true
  | .galleyDiscard => true
  | .galleyDiscardAck => true
  | .memcoreOpAccept => true
  | .hloadLineArrive => true
  | .hstoreLineDone => true
  | .memcoreOpComplete => true
  | .ringClaimArrive => true
  | .ringClaimGrant => true
  | .ringClaimAnswer => true
  | .ringPushData => true
  | .forwardCreditGrant => true
  | .forwardSend => true
  | .forwardDataArrive => true
  | .forwardAck => true
  | .forwardFailure => true
  | .amoAtHome => true
  | .nexttAtHome => true
  | .amoReply => true
  | .remoteAccessArrive => true
  | .remoteLoadReply => true
  | .storeAck => true
  | .hostWritebackDone => true
  | .lapseReject => true
  | .walkComplete => true
  | .walkRestart => true
  | .translationExpiry => true
  | .leaseRenewal => true
  | .leaseTick => true
  | .leaseResync => true
  | .watchNotify => true
  | .watchPoll => true
  | .faultRecordSend => true
  | .faultRecordRetry => true
  | .wakeRetry => true
  | .wakeKill => true
  | .wakeAbandon => true
  | .coreSave => true
  | .coreRestore => true
  | .coreWatchdog => true
  | .linkWatchdog => true
  | .fenceSalvage => true
  | .eccCorrectable => true
  | .eccUncorrectable => true
  | .dbgHalt => true
  | .dbgResume => true
  | .dbgStep => true
  | .dbgaccRead => true
  | .dbgaccWrite => true
  | .traceDrain => true
  | .traceRingWrite => true
  | .traceRdptrPoll => true
  | .captureStartPacket => true
  | .captureIntervalEnd => true
  | .captureStopPacket => true
  | .bridgeFlitRetry => true
  | .bridgePause => true
  | .bridgePaused => true
  | .bridgeRepair => true
  | .bridgeRetrain => true
  | .bridgeResume => true
  | .bridgeModoff => true
  | .bridgeServiceDone => true
  | .scaleupLinkFlit => true
  | .scaleupRetryRequest => true
  | .e2eAck => true
  | .e2eNak => true
  | .e2eAckTimer => true
  | .e2eResendTimeout => true
  | .reductionResult => true
  | .lendRequest => true
  | .aperture3Refusal => true
  | .scaleoutPacket => true
  | .scaleoutTimeout => true
  | .hostMemAccess => true
  | .cxlSnoop => true
  | .commandRingFetch => true
  | .cmdLaunch => true
  | .cmdRetire => true
  | .cmdCancel => true
  | .cmdJcancel => true
  | .cmdPsave => true
  | .cmdPresume => true
  | .cmdEvq => true
  | .cmdSummary => true
  | .cmdNop => true
  | .rdescEnable => true
  | .eventRecordWrite => true
  | .evqRdptrPoll => true
  | .lendEntryWrite => true
  | .lendDrainDone => true
  | .registerWrite => true
  | .rawDiscover => true
  | .rawReport => true
  | .rawImage => true
  | .rawStart => true
  | .rawData => true
  | .powerInputValid => true
  | .powerStep => true
  | .bootProgramStart => true
  | .leaveBootMode => true
  | .thermalHigh => true
  | .thermalShutdown => true
  | .attestationRequest => true
  | .thermalNormal => true
  | .creditRequestWithdrawn => true

end Sys2Proof
end

