-- ==== Sys2Proof/Decode.lean ====
section
/-! DEFINITION. Sys2Proof/Decode.lean: reading an instruction from bytes (R36, R37, R43 to R56), total on any bytes
and rejecting by name, and the encoder written from the same tables. -/

namespace Sys2Proof

/-- Why bytes are no instruction (R58). -/
inductive DecodeError where
  /-- Fewer bytes than the instruction has (a fetch would bring the rest). -/
  | truncated
  /-- Major 0x00, a reserved major, or a reserved function value or fixed field of a major (R58 items 1 to 3). -/
  | reserved (w : Nat)
  /-- A field value outside its limits, G = 0b1000 included (R58 items 4 and 5). -/
  | illFormed (i : Instr)
  /-- A reserved compact encoding (R58 item 6). -/
  | reservedCompact (w : Nat)
  deriving DecidableEq, Repr

/-- Major 0x01 (R50 to R54). -/
def decMajor01 (w : Nat) : Option Instr :=
  if bits w 22 6 == 0 then some (.add (fld w 28 4) (fld w 17 5) (fld w 12 5) (fld w 7 5))
  else if bits w 22 6 == 1 then some (.sub (fld w 28 4) (fld w 17 5) (fld w 12 5) (fld w 7 5))
  else if bits w 22 6 == 2 then some (.mul (fld w 28 4) (fld w 17 5) (fld w 12 5) (fld w 7 5))
  else if bits w 22 4 == 3 && bits w 27 1 == 0 then some (.mulh (fld w 28 4) (fld w 26 1) (fld w 17 5) (fld w 12 5) (fld w 7 5))
  else if bits w 22 4 == 4 && bits w 27 1 == 0 then some (.div (fld w 28 4) (fld w 26 1) (fld w 17 5) (fld w 12 5) (fld w 7 5))
  else if bits w 22 4 == 5 && bits w 27 1 == 0 then some (.rem (fld w 28 4) (fld w 26 1) (fld w 17 5) (fld w 12 5) (fld w 7 5))
  else if bits w 22 6 == 6 then some (.and (fld w 28 4) (fld w 17 5) (fld w 12 5) (fld w 7 5))
  else if bits w 22 6 == 7 then some (.or (fld w 28 4) (fld w 17 5) (fld w 12 5) (fld w 7 5))
  else if bits w 22 6 == 8 then some (.xor (fld w 28 4) (fld w 17 5) (fld w 12 5) (fld w 7 5))
  else if bits w 22 6 == 9 then some (.shl (fld w 28 4) (fld w 17 5) (fld w 12 5) (fld w 7 5))
  else if bits w 22 6 == 10 then some (.shr (fld w 28 4) (fld w 17 5) (fld w 12 5) (fld w 7 5))
  else if bits w 22 6 == 11 then some (.sha (fld w 28 4) (fld w 17 5) (fld w 12 5) (fld w 7 5))
  else if bits w 22 6 == 12 then some (.rotl (fld w 28 4) (fld w 17 5) (fld w 12 5) (fld w 7 5))
  else if bits w 22 4 == 13 && bits w 27 1 == 0 then some (.min (fld w 28 4) (fld w 26 1) (fld w 17 5) (fld w 12 5) (fld w 7 5))
  else if bits w 22 4 == 14 && bits w 27 1 == 0 then some (.max (fld w 28 4) (fld w 26 1) (fld w 17 5) (fld w 12 5) (fld w 7 5))
  else if bits w 22 6 == 15 then some (.sel (fld w 28 4) (fld w 17 5) (fld w 12 5) (fld w 7 5))
  else none

/-- Major 0x02 (R50 to R54). -/
def decMajor02 (w : Nat) : Option Instr :=
  some (.addi (fld w 28 4) (fld w 27 1) (fld w 17 10) (fld w 12 5) (fld w 7 5))

/-- Major 0x03 (R50 to R54). -/
def decMajor03 (w : Nat) : Option Instr :=
  some (.andi (fld w 28 4) (fld w 27 1) (fld w 17 10) (fld w 12 5) (fld w 7 5))

/-- Major 0x04 (R50 to R54). -/
def decMajor04 (w : Nat) : Option Instr :=
  some (.ori (fld w 28 4) (fld w 27 1) (fld w 17 10) (fld w 12 5) (fld w 7 5))

/-- Major 0x05 (R50 to R54). -/
def decMajor05 (w : Nat) : Option Instr :=
  some (.xori (fld w 28 4) (fld w 27 1) (fld w 17 10) (fld w 12 5) (fld w 7 5))

/-- Major 0x06 (R50 to R54). -/
def decMajor06 (w : Nat) : Option Instr :=
  if bits w 23 5 == 0 then some (.shli (fld w 28 4) (fld w 17 6) (fld w 12 5) (fld w 7 5))
  else if bits w 23 5 == 4 then some (.shri (fld w 28 4) (fld w 17 6) (fld w 12 5) (fld w 7 5))
  else if bits w 23 5 == 8 then some (.shai (fld w 28 4) (fld w 17 6) (fld w 12 5) (fld w 7 5))
  else if bits w 23 5 == 12 then some (.rotli (fld w 28 4) (fld w 17 6) (fld w 12 5) (fld w 7 5))
  else none

/-- Major 0x07 (R50 to R54). -/
def decMajor07 (w : Nat) : Option Instr :=
  if bits w 17 11 == 0 then some (.clz (fld w 28 4) (fld w 12 5) (fld w 7 5))
  else if bits w 17 11 == 32 then some (.ctz (fld w 28 4) (fld w 12 5) (fld w 7 5))
  else if bits w 17 11 == 64 then some (.popc (fld w 28 4) (fld w 12 5) (fld w 7 5))
  else if bits w 20 8 == 12 then some (.ext (fld w 28 4) (fld w 19 1) (fld w 17 2) (fld w 12 5) (fld w 7 5))
  else if bits w 22 6 == 4 then some (.bfx (fld w 28 4) (fld w 17 5) (fld w 12 5) (fld w 7 5))
  else if bits w 22 6 == 5 then some (.bfi (fld w 28 4) (fld w 17 5) (fld w 12 5) (fld w 7 5))
  else if bits w 17 11 == 192 then some (.mov (fld w 28 4) (fld w 12 5) (fld w 7 5))
  else if bits w 10 2 == 0 && bits w 17 11 == 193 then some (.movToY (fld w 28 4) (fld w 12 5) (fld w 7 3))
  else if bits w 15 13 == 776 then some (.movFromY (fld w 28 4) (fld w 12 3) (fld w 7 5))
  else none

/-- Major 0x08 (R50 to R54). -/
def decMajor08 (w : Nat) : Option Instr :=
  some (.li (fld w 28 4) (fld w 12 16) (fld w 7 5))

/-- Major 0x09 (R50 to R54). -/
def decMajor09 (w : Nat) : Option Instr :=
  some (.lih (fld w 28 4) (fld w 12 16) (fld w 7 5))

/-- Major 0x0A (R50 to R54). -/
def decMajor0A (w : Nat) : Option Instr :=
  if bits w 10 2 == 0 && bits w 26 2 == 0 then some (.cmp (fld w 28 4) (fld w 25 1) (fld w 22 3) (fld w 17 5) (fld w 12 5) (fld w 7 3))
  else none

/-- Major 0x0B (R50 to R54). -/
def decMajor0B (w : Nat) : Option Instr :=
  if bits w 10 2 == 0 then some (.cmpi (fld w 28 4) (fld w 27 1) (fld w 24 3) (fld w 17 7) (fld w 12 5) (fld w 7 3))
  else none

/-- Major 0x0C (R50 to R54). -/
def decMajor0C (w : Nat) : Option Instr :=
  if bits w 10 2 == 0 && bits w 15 2 == 0 && bits w 20 8 == 0 then some (.pand (fld w 28 4) (fld w 17 3) (fld w 12 3) (fld w 7 3))
  else if bits w 10 2 == 0 && bits w 15 2 == 0 && bits w 20 8 == 4 then some (.por (fld w 28 4) (fld w 17 3) (fld w 12 3) (fld w 7 3))
  else if bits w 10 2 == 0 && bits w 15 2 == 0 && bits w 20 8 == 8 then some (.pxor (fld w 28 4) (fld w 17 3) (fld w 12 3) (fld w 7 3))
  else if bits w 10 2 == 0 && bits w 15 13 == 384 then some (.pnot (fld w 28 4) (fld w 12 3) (fld w 7 3))
  else if bits w 15 13 == 512 then some (.pmovx (fld w 28 4) (fld w 12 3) (fld w 7 5))
  else if bits w 10 2 == 0 && bits w 17 11 == 160 then some (.pmovp (fld w 28 4) (fld w 12 5) (fld w 7 3))
  else none

/-- Major 0x10 (R50 to R54). -/
def decMajor10 (w : Nat) : Option Instr :=
  some (.br (fld w 28 4) (fld w 23 5) (fld w 7 16))

/-- Major 0x11 (R50 to R54). -/
def decMajor11 (w : Nat) : Option Instr :=
  some (.j (fld w 28 4) (fld w 7 21))

/-- Major 0x12 (R50 to R54). -/
def decMajor12 (w : Nat) : Option Instr :=
  some (.jal (fld w 28 4) (fld w 12 16) (fld w 7 5))

/-- Major 0x13 (R50 to R54). -/
def decMajor13 (w : Nat) : Option Instr :=
  if bits w 7 5 == 0 && bits w 17 11 == 0 then some (.jr (fld w 28 4) (fld w 12 5))
  else if bits w 17 11 == 32 then some (.jalr (fld w 28 4) (fld w 12 5) (fld w 7 5))
  else none

/-- Major 0x14 (R50 to R54). -/
def decMajor14 (w : Nat) : Option Instr :=
  if bits w 7 5 == 0 && bits w 16 12 == 0 then some (.trap (fld w 28 4) (fld w 12 4))
  else if bits w 7 5 == 0 && bits w 20 8 == 4 then some (.bkpt (fld w 28 4) (fld w 12 8))
  else if bits w 7 5 == 0 && bits w 13 15 == 1024 then some (.tret (fld w 28 4) (fld w 12 1))
  else none

/-- Major 0x18 (R50 to R54). -/
def decMajor18 (w : Nat) : Option Instr :=
  if bits w 27 1 == 0 then some (.exti (fld w 28 4) (fld w 11 16) (fld w 10 1) (fld w 7 3))
  else if bits w 10 2 == 0 && bits w 17 11 == 1024 then some (.extx (fld w 28 4) (fld w 12 5) (fld w 7 3))
  else if bits w 10 2 == 0 && bits w 24 4 == 9 then some (.extg (fld w 28 4) (fld w 17 7) (fld w 12 5) (fld w 7 3))
  else if bits w 10 2 == 0 && bits w 23 5 == 20 then some (.extl (fld w 28 4) (fld w 17 6) (fld w 12 5) (fld w 7 3))
  else if bits w 10 2 == 0 && bits w 24 4 == 11 then some (.exts (fld w 28 4) (fld w 17 7) (fld w 12 5) (fld w 7 3))
  else none

/-- Major 0x19 (R50 to R54). -/
def decMajor19 (w : Nat) : Option Instr :=
  if bits w 12 1 == 0 && bits w 25 3 == 0 then some (.srd (fld w 28 4) (fld w 13 12) (fld w 7 5))
  else if bits w 12 1 == 0 && bits w 25 3 == 1 then some (.swr (fld w 28 4) (fld w 13 12) (fld w 7 5))
  else if bits w 12 1 == 0 && bits w 25 3 == 2 then some (.evt (fld w 28 4) (fld w 13 12) (fld w 7 5))
  else if bits w 7 21 == 786432 then some (.iflush (fld w 28 4))
  else if bits w 12 16 == 32768 then some (.fencecFence (fld w 28 4) (fld w 7 5))
  else if bits w 12 16 == 32770 then some (.fencecAbandon (fld w 28 4) (fld w 7 5))
  else if bits w 12 16 == 40960 then some (.cmapw (fld w 28 4) (fld w 7 5))
  else if bits w 12 16 == 49152 then some (.preemptSave (fld w 28 4) (fld w 7 5))
  else if bits w 12 16 == 49154 then some (.preemptResume (fld w 28 4) (fld w 7 5))
  else none

/-- Major 0x1A (R50 to R54). -/
def decMajor1A (w : Nat) : Option Instr :=
  if bits w 7 5 == 0 && bits w 17 11 == 0 then some (.capstart (fld w 28 4) (fld w 12 5))
  else if bits w 17 11 == 32 then some (.capstop (fld w 28 4) (fld w 12 5) (fld w 7 5))
  else if bits w 22 6 == 2 then some (.trcmark (fld w 28 4) (fld w 17 5) (fld w 12 5) (fld w 7 5))
  else none

/-- Major 0x1B (R50 to R54). -/
def decMajor1B (w : Nat) : Option Instr :=
  if bits w 22 6 == 0 then some (.lsend (fld w 28 4) (fld w 17 5) (fld w 12 5) (fld w 7 5))
  else if bits w 12 5 == 0 && bits w 22 6 == 1 then some (.lrecv (fld w 28 4) (fld w 17 5) (fld w 7 5))
  else none

/-- Major 0x1C (R50 to R54). -/
def decMajor1C (w : Nat) : Option Instr :=
  if bits w 24 1 == 0 then some (.ld (fld w 28 4) (fld w 27 1) (fld w 25 2) (fld w 17 7) (fld w 12 5) (fld w 7 5))
  else none

/-- Major 0x1D (R50 to R54). -/
def decMajor1D (w : Nat) : Option Instr :=
  if bits w 27 1 == 0 then some (.st (fld w 28 4) (fld w 25 2) (fld w 24 1) (fld w 17 7) (fld w 12 5) (fld w 7 5))
  else none

/-- Major 0x1E (R50 to R54). -/
def decMajor1E (w : Nat) : Option Instr :=
  if bits w 24 4 == 0 then some (.ldv (fld w 28 4) (fld w 17 7) (fld w 12 5) (fld w 7 5))
  else if bits w 25 3 == 4 then some (.stv (fld w 28 4) (fld w 24 1) (fld w 17 7) (fld w 12 5) (fld w 7 5))
  else none

/-- Major 0x1F (R50 to R54). -/
def decMajor1F (w : Nat) : Option Instr :=
  if bits w 22 1 == 0 && bits w 25 3 == 0 then some (.ldvx (fld w 28 4) (fld w 23 2) (fld w 17 5) (fld w 12 5) (fld w 7 5))
  else if bits w 22 1 == 1 && bits w 25 3 == 0 then some (.stvx (fld w 28 4) (fld w 23 2) (fld w 17 5) (fld w 12 5) (fld w 7 5))
  else none

/-- Major 0x20 (R50 to R54). -/
def decMajor20 (w : Nat) : Option Instr :=
  if bits w 25 3 == 0 then some (.ldf (fld w 28 4) (fld w 24 1) (fld w 23 1) (fld w 17 6) (fld w 12 5) (fld w 7 5))
  else if bits w 23 1 == 0 && bits w 25 3 == 1 then some (.stf (fld w 28 4) (fld w 24 1) (fld w 17 6) (fld w 12 5) (fld w 7 5))
  else if bits w 7 5 == 0 && bits w 23 5 == 8 then some (.sete (fld w 28 4) (fld w 17 6) (fld w 12 5))
  else if bits w 7 5 == 0 && bits w 23 5 == 12 then some (.setf (fld w 28 4) (fld w 17 6) (fld w 12 5))
  else if bits w 23 5 == 16 then some (.gstate (fld w 28 4) (fld w 17 6) (fld w 12 5) (fld w 7 5))
  else none

/-- Major 0x21 (R50 to R54). -/
def decMajor21 (w : Nat) : Option Instr :=
  if bits w 17 5 == 0 && bits w 23 4 == 0 then some (.amoLoad (fld w 28 4) (fld w 27 1) (fld w 22 1) (fld w 12 5) (fld w 7 5))
  else if bits w 7 5 == 0 && bits w 23 4 == 1 then some (.amoStore (fld w 28 4) (fld w 27 1) (fld w 22 1) (fld w 17 5) (fld w 12 5))
  else if bits w 23 4 == 2 then some (.amoSwap (fld w 28 4) (fld w 27 1) (fld w 22 1) (fld w 17 5) (fld w 12 5) (fld w 7 5))
  else if bits w 23 4 == 3 then some (.cas (fld w 28 4) (fld w 27 1) (fld w 22 1) (fld w 17 5) (fld w 12 5) (fld w 7 5))
  else if bits w 23 4 == 4 then some (.amoAdd (fld w 28 4) (fld w 27 1) (fld w 22 1) (fld w 17 5) (fld w 12 5) (fld w 7 5))
  else if bits w 23 4 == 5 then some (.amoAnd (fld w 28 4) (fld w 27 1) (fld w 22 1) (fld w 17 5) (fld w 12 5) (fld w 7 5))
  else if bits w 23 4 == 6 then some (.amoOr (fld w 28 4) (fld w 27 1) (fld w 22 1) (fld w 17 5) (fld w 12 5) (fld w 7 5))
  else if bits w 23 4 == 7 then some (.amoXor (fld w 28 4) (fld w 27 1) (fld w 22 1) (fld w 17 5) (fld w 12 5) (fld w 7 5))
  else if bits w 23 4 == 8 then some (.amoMinSigned (fld w 28 4) (fld w 27 1) (fld w 22 1) (fld w 17 5) (fld w 12 5) (fld w 7 5))
  else if bits w 23 4 == 9 then some (.amoMaxSigned (fld w 28 4) (fld w 27 1) (fld w 22 1) (fld w 17 5) (fld w 12 5) (fld w 7 5))
  else if bits w 23 4 == 10 then some (.amoMinUnsigned (fld w 28 4) (fld w 27 1) (fld w 22 1) (fld w 17 5) (fld w 12 5) (fld w 7 5))
  else if bits w 23 4 == 11 then some (.amoMaxUnsigned (fld w 28 4) (fld w 27 1) (fld w 22 1) (fld w 17 5) (fld w 12 5) (fld w 7 5))
  else if bits w 23 4 == 12 then some (.amoFadd (fld w 28 4) (fld w 27 1) (fld w 22 1) (fld w 17 5) (fld w 12 5) (fld w 7 5))
  else if bits w 23 4 == 13 then some (.amoFmin (fld w 28 4) (fld w 27 1) (fld w 22 1) (fld w 17 5) (fld w 12 5) (fld w 7 5))
  else if bits w 23 4 == 14 then some (.amoFmax (fld w 28 4) (fld w 27 1) (fld w 22 1) (fld w 17 5) (fld w 12 5) (fld w 7 5))
  else none

/-- Major 0x22 (R50 to R54). -/
def decMajor22 (w : Nat) : Option Instr :=
  if bits w 7 17 == 32768 && bits w 26 2 == 0 then some (.fenceRel (fld w 28 4) (fld w 24 2))
  else if bits w 7 17 == 65536 && bits w 26 2 == 0 then some (.fenceAcq (fld w 28 4) (fld w 24 2))
  else if bits w 7 17 == 98304 && bits w 26 2 == 0 then some (.fenceAr (fld w 28 4) (fld w 24 2))
  else none

/-- Major 0x24 (R50 to R54). -/
def decMajor24 (w : Nat) : Option Instr :=
  if bits w 24 4 == 0 then some (.vadd (fld w 28 4) (fld w 22 2) (fld w 17 5) (fld w 12 5) (fld w 7 5))
  else if bits w 24 4 == 1 then some (.vsub (fld w 28 4) (fld w 22 2) (fld w 17 5) (fld w 12 5) (fld w 7 5))
  else if bits w 24 4 == 2 then some (.vmul (fld w 28 4) (fld w 22 2) (fld w 17 5) (fld w 12 5) (fld w 7 5))
  else if bits w 24 4 == 3 then some (.vdiv (fld w 28 4) (fld w 22 2) (fld w 17 5) (fld w 12 5) (fld w 7 5))
  else if bits w 24 4 == 4 then some (.vfma (fld w 28 4) (fld w 22 2) (fld w 17 5) (fld w 12 5) (fld w 7 5))
  else if bits w 24 4 == 5 then some (.vfms (fld w 28 4) (fld w 22 2) (fld w 17 5) (fld w 12 5) (fld w 7 5))
  else if bits w 24 4 == 6 then some (.vfnma (fld w 28 4) (fld w 22 2) (fld w 17 5) (fld w 12 5) (fld w 7 5))
  else if bits w 24 4 == 7 then some (.vmin (fld w 28 4) (fld w 22 2) (fld w 17 5) (fld w 12 5) (fld w 7 5))
  else if bits w 24 4 == 8 then some (.vmax (fld w 28 4) (fld w 22 2) (fld w 17 5) (fld w 12 5) (fld w 7 5))
  else none

/-- Major 0x25 (R50 to R54). -/
def decMajor25 (w : Nat) : Option Instr :=
  if bits w 17 5 == 0 && bits w 24 4 == 0 then some (.vneg (fld w 28 4) (fld w 22 2) (fld w 12 5) (fld w 7 5))
  else if bits w 17 5 == 0 && bits w 24 4 == 1 then some (.vabs (fld w 28 4) (fld w 22 2) (fld w 12 5) (fld w 7 5))
  else if bits w 19 3 == 0 && bits w 24 4 == 2 then some (.vsqrt (fld w 28 4) (fld w 22 2) (fld w 17 2) (fld w 12 5) (fld w 7 5))
  else if bits w 17 5 == 0 && bits w 24 4 == 3 then some (.vrcpa (fld w 28 4) (fld w 22 2) (fld w 12 5) (fld w 7 5))
  else if bits w 17 5 == 0 && bits w 24 4 == 4 then some (.vrsqa (fld w 28 4) (fld w 22 2) (fld w 12 5) (fld w 7 5))
  else if bits w 17 5 == 0 && bits w 24 4 == 5 then some (.vexpa (fld w 28 4) (fld w 22 2) (fld w 12 5) (fld w 7 5))
  else if bits w 17 5 == 0 && bits w 24 4 == 6 then some (.vloga (fld w 28 4) (fld w 22 2) (fld w 12 5) (fld w 7 5))
  else if bits w 19 3 == 0 && bits w 24 4 == 7 then some (.vrint (fld w 28 4) (fld w 22 2) (fld w 17 2) (fld w 12 5) (fld w 7 5))
  else none

/-- Major 0x26 (R50 to R54). -/
def decMajor26 (w : Nat) : Option Instr :=
  if bits w 24 4 == 0 then some (.viadd (fld w 28 4) (fld w 22 2) (fld w 17 5) (fld w 12 5) (fld w 7 5))
  else if bits w 24 4 == 1 then some (.visub (fld w 28 4) (fld w 22 2) (fld w 17 5) (fld w 12 5) (fld w 7 5))
  else if bits w 24 4 == 2 then some (.vimul (fld w 28 4) (fld w 22 2) (fld w 17 5) (fld w 12 5) (fld w 7 5))
  else if bits w 24 4 == 3 then some (.viminI (fld w 28 4) (fld w 22 2) (fld w 17 5) (fld w 12 5) (fld w 7 5))
  else if bits w 24 4 == 4 then some (.viminN (fld w 28 4) (fld w 22 2) (fld w 17 5) (fld w 12 5) (fld w 7 5))
  else if bits w 24 4 == 5 then some (.vimaxI (fld w 28 4) (fld w 22 2) (fld w 17 5) (fld w 12 5) (fld w 7 5))
  else if bits w 24 4 == 6 then some (.vimaxN (fld w 28 4) (fld w 22 2) (fld w 17 5) (fld w 12 5) (fld w 7 5))
  else if bits w 24 4 == 7 then some (.viaddsI (fld w 28 4) (fld w 22 2) (fld w 17 5) (fld w 12 5) (fld w 7 5))
  else if bits w 24 4 == 8 then some (.viaddsN (fld w 28 4) (fld w 22 2) (fld w 17 5) (fld w 12 5) (fld w 7 5))
  else if bits w 24 4 == 9 then some (.vand (fld w 28 4) (fld w 22 2) (fld w 17 5) (fld w 12 5) (fld w 7 5))
  else if bits w 24 4 == 10 then some (.vor (fld w 28 4) (fld w 22 2) (fld w 17 5) (fld w 12 5) (fld w 7 5))
  else if bits w 24 4 == 11 then some (.vxor (fld w 28 4) (fld w 22 2) (fld w 17 5) (fld w 12 5) (fld w 7 5))
  else if bits w 24 4 == 12 then some (.vshl (fld w 28 4) (fld w 22 2) (fld w 17 5) (fld w 12 5) (fld w 7 5))
  else if bits w 24 4 == 13 then some (.vshrN (fld w 28 4) (fld w 22 2) (fld w 17 5) (fld w 12 5) (fld w 7 5))
  else if bits w 24 4 == 14 then some (.vshrI (fld w 28 4) (fld w 22 2) (fld w 17 5) (fld w 12 5) (fld w 7 5))
  else none

/-- Major 0x27 (R50 to R54). -/
def decMajor27 (w : Nat) : Option Instr :=
  if bits w 27 1 == 0 then some (.vcmp (fld w 28 4) (fld w 24 3) (fld w 22 2) (fld w 17 5) (fld w 12 5) (fld w 10 2) (fld w 7 3))
  else if bits w 24 4 == 8 then some (.vsel (fld w 28 4) (fld w 22 2) (fld w 17 5) (fld w 12 5) (fld w 7 5))
  else none

/-- Major 0x28 (R50 to R54). -/
def decMajor28 (w : Nat) : Option Instr :=
  some (.vcvt (fld w 28 4) (fld w 25 3) (fld w 21 4) (fld w 17 4) (fld w 12 5) (fld w 7 5))

/-- Major 0x29 (R50 to R54). -/
def decMajor29 (w : Nat) : Option Instr :=
  if bits w 17 6 == 0 && bits w 25 3 == 0 then some (.vdup (fld w 28 4) (fld w 23 2) (fld w 12 5) (fld w 7 5))
  else if bits w 22 1 == 0 && bits w 25 3 == 1 then some (.vget (fld w 28 4) (fld w 23 2) (fld w 17 5) (fld w 12 5) (fld w 7 5))
  else if bits w 22 1 == 0 && bits w 25 3 == 2 then some (.vins (fld w 28 4) (fld w 23 2) (fld w 17 5) (fld w 12 5) (fld w 7 5))
  else if bits w 17 6 == 0 && bits w 25 3 == 3 then some (.viota (fld w 28 4) (fld w 23 2) (fld w 12 5) (fld w 7 5))
  else if bits w 22 1 == 0 && bits w 25 3 == 4 then some (.vperm (fld w 28 4) (fld w 23 2) (fld w 17 5) (fld w 12 5) (fld w 7 5))
  else none

/-- Major 0x2A (R50 to R54). -/
def decMajor2A (w : Nat) : Option Instr :=
  if bits w 17 5 == 0 && bits w 26 2 == 0 then some (.vreds (fld w 28 4) (fld w 22 4) (fld w 12 5) (fld w 7 5))
  else if bits w 18 4 == 0 && bits w 26 2 == 1 then some (.vredm (fld w 28 4) (fld w 22 4) (fld w 17 1) (fld w 12 5) (fld w 7 5))
  else if bits w 26 2 == 2 then some (.vdot (fld w 28 4) (fld w 22 4) (fld w 17 5) (fld w 12 5) (fld w 7 5))
  else if bits w 17 5 == 0 && bits w 26 2 == 3 then some (.vscan (fld w 28 4) (fld w 22 4) (fld w 12 5) (fld w 7 5))
  else none

/-- Major 0x2B (R50 to R54). -/
def decMajor2B (w : Nat) : Option Instr :=
  some (.vsort (fld w 28 4) (fld w 27 1) (fld w 26 1) (fld w 22 4) (fld w 17 5) (fld w 12 5) (fld w 7 5))

/-- Major 0x2C (R50 to R54). -/
def decMajor2C (w : Nat) : Option Instr :=
  if bits w 20 2 == 0 && bits w 27 1 == 0 then some (.vmxq (fld w 28 4) (fld w 24 3) (fld w 22 2) (fld w 17 3) (fld w 12 5) (fld w 7 5))
  else if bits w 17 5 == 0 && bits w 27 1 == 1 then some (.vmxd (fld w 28 4) (fld w 24 3) (fld w 22 2) (fld w 12 5) (fld w 7 5))
  else none

/-- Major 0x2D (R50 to R54). -/
def decMajor2D (w : Nat) : Option Instr :=
  if bits w 24 4 == 0 then some (.vlut (fld w 28 4) (fld w 22 2) (fld w 17 5) (fld w 12 5) (fld w 7 5))
  else none

/-- Major 0x30 (R50 to R54). -/
def decMajor30 (w : Nat) : Option Instr :=
  if bits w 7 5 == 0 && bits w 17 1 == 0 && bits w 22 6 == 0 then some (.rinit (fld w 28 4) (fld w 18 4) (fld w 12 5))
  else if bits w 7 5 == 0 && bits w 17 1 == 0 && bits w 22 6 == 16 then some (.radvHead (fld w 28 4) (fld w 18 4) (fld w 12 5))
  else if bits w 7 5 == 0 && bits w 17 1 == 0 && bits w 22 6 == 24 then some (.radvTail (fld w 28 4) (fld w 18 4) (fld w 12 5))
  else if bits w 17 1 == 0 && bits w 22 6 == 32 then some (.rwaitHead (fld w 28 4) (fld w 18 4) (fld w 12 5) (fld w 7 5))
  else if bits w 17 1 == 0 && bits w 22 6 == 40 then some (.rwaitTail (fld w 28 4) (fld w 18 4) (fld w 12 5) (fld w 7 5))
  else if bits w 12 6 == 0 && bits w 22 6 == 48 then some (.rstat (fld w 28 4) (fld w 18 4) (fld w 7 5))
  else none

/-- Major 0x31 (R50 to R54). -/
def decMajor31 (w : Nat) : Option Instr :=
  if bits w 7 6 == 0 then some (.tmma (fld w 28 4) (fld w 25 3) (fld w 21 4) (fld w 17 4) (fld w 13 4))
  else none

/-- Major 0x32 (R50 to R54). -/
def decMajor32 (w : Nat) : Option Instr :=
  if bits w 7 6 == 0 then some (.tmmx (fld w 28 4) (fld w 25 3) (fld w 21 4) (fld w 17 4) (fld w 13 4))
  else none

/-- Major 0x33 (R50 to R54). -/
def decMajor33 (w : Nat) : Option Instr :=
  if bits w 7 11 == 0 && bits w 22 6 == 0 then some (.tzero (fld w 28 4) (fld w 18 4))
  else if bits w 7 7 == 0 && bits w 26 2 == 1 then some (.tloada (fld w 28 4) (fld w 22 4) (fld w 18 4) (fld w 14 4))
  else if bits w 7 4 == 0 && bits w 26 2 == 2 then some (.tstore (fld w 28 4) (fld w 22 4) (fld w 18 4) (fld w 14 4) (fld w 11 3))
  else if bits w 7 7 == 0 && bits w 26 2 == 3 then some (.ttrn (fld w 28 4) (fld w 22 4) (fld w 18 4) (fld w 14 4))
  else none

/-- Major 0x34 (R50 to R54). -/
def decMajor34 (w : Nat) : Option Instr :=
  if bits w 7 5 == 0 && bits w 17 5 == 0 && bits w 24 4 == 0 then some (.tscl (fld w 28 4) (fld w 22 2) (fld w 12 5))
  else if bits w 7 5 == 0 && bits w 17 5 == 0 && bits w 26 2 == 2 then some (.slab (fld w 28 4) (fld w 22 4) (fld w 12 5))
  else none

/-- Major 0x36 (R50 to R54). -/
def decMajor36 (w : Nat) : Option Instr :=
  if bits w 12 15 == 0 then some (.spawn (fld w 28 4) (fld w 27 1) (fld w 7 5))
  else if bits w 7 21 == 32768 then some (.quit (fld w 28 4))
  else if bits w 7 21 == 65536 then some (.commit (fld w 28 4))
  else if bits w 7 21 == 98304 then some (.yield (fld w 28 4))
  else if bits w 7 5 == 0 && bits w 17 11 == 128 then some (.prio (fld w 28 4) (fld w 12 5))
  else none

/-- Major 0x37 (R50 to R54). -/
def decMajor37 (w : Nat) : Option Instr :=
  if bits w 24 4 == 0 then some (.chopen (fld w 28 4) (fld w 23 1) (fld w 17 6) (fld w 12 5) (fld w 7 5))
  else if bits w 24 4 == 1 then some (.chbind (fld w 28 4) (fld w 23 1) (fld w 17 6) (fld w 12 5) (fld w 7 5))
  else if bits w 12 5 == 0 && bits w 24 4 == 2 then some (.chclose (fld w 28 4) (fld w 23 1) (fld w 17 6) (fld w 7 5))
  else if bits w 23 5 == 6 then some (.chstat (fld w 28 4) (fld w 17 6) (fld w 12 5) (fld w 7 5))
  else if bits w 12 5 == 0 && bits w 24 4 == 4 then some (.wrel (fld w 28 4) (fld w 23 1) (fld w 17 6) (fld w 7 5))
  else none

/-- Major 0x38 (R50 to R54). -/
def decMajor38 (w : Nat) : Option Instr :=
  if bits w 24 4 == 0 then some (.send (fld w 28 4) (fld w 23 1) (fld w 17 6) (fld w 12 5) (fld w 7 5))
  else if bits w 24 4 == 1 then some (.recv (fld w 28 4) (fld w 23 1) (fld w 17 6) (fld w 12 5) (fld w 7 5))
  else if bits w 24 4 == 2 then some (.sendv (fld w 28 4) (fld w 23 1) (fld w 17 6) (fld w 12 5) (fld w 7 5))
  else if bits w 24 4 == 3 then some (.recvv (fld w 28 4) (fld w 23 1) (fld w 17 6) (fld w 12 5) (fld w 7 5))
  else if bits w 24 4 == 4 then some (.sendt (fld w 28 4) (fld w 23 1) (fld w 17 6) (fld w 12 5) (fld w 7 5))
  else if bits w 24 4 == 5 then some (.recvt (fld w 28 4) (fld w 23 1) (fld w 17 6) (fld w 12 5) (fld w 7 5))
  else none

/-- Major 0x39 (R50 to R54). -/
def decMajor39 (w : Nat) : Option Instr :=
  if bits w 12 10 == 0 && bits w 25 3 == 0 then some (.alt (fld w 28 4) (fld w 22 3) (fld w 7 5))
  else none

/-- Major 0x3A (R50 to R54). -/
def decMajor3A (w : Nat) : Option Instr :=
  if bits w 12 5 == 0 && bits w 22 5 == 0 then some (.launch (fld w 28 4) (fld w 27 1) (fld w 17 5) (fld w 7 5))
  else if bits w 22 5 == 1 then some (.lwait (fld w 28 4) (fld w 27 1) (fld w 17 5) (fld w 12 5) (fld w 7 5))
  else if bits w 17 10 == 64 then some (.lcancel (fld w 28 4) (fld w 27 1) (fld w 12 5) (fld w 7 5))
  else if bits w 22 5 == 3 then some (.ldep (fld w 28 4) (fld w 27 1) (fld w 17 5) (fld w 12 5) (fld w 7 5))
  else if bits w 17 10 == 128 then some (.graphOpen (fld w 28 4) (fld w 27 1) (fld w 12 5) (fld w 7 5))
  else if bits w 17 10 == 129 then some (.graphClose (fld w 28 4) (fld w 27 1) (fld w 12 5) (fld w 7 5))
  else if bits w 17 10 == 160 then some (.jcancel (fld w 28 4) (fld w 27 1) (fld w 12 5) (fld w 7 5))
  else if bits w 22 5 == 6 then some (.nextt (fld w 28 4) (fld w 27 1) (fld w 17 5) (fld w 12 5) (fld w 7 5))
  else none

/-- Major 0x3B (R50 to R54). -/
def decMajor3B (w : Nat) : Option Instr :=
  if bits w 24 4 == 0 then some (.gsendScalar (fld w 28 4) (fld w 23 1) (fld w 17 6) (fld w 12 5) (fld w 7 5))
  else if bits w 24 4 == 1 then some (.gsendVector (fld w 28 4) (fld w 23 1) (fld w 17 6) (fld w 12 5) (fld w 7 5))
  else if bits w 24 4 == 2 then some (.grecvScalar (fld w 28 4) (fld w 23 1) (fld w 17 6) (fld w 12 5) (fld w 7 5))
  else if bits w 24 4 == 3 then some (.grecvVector (fld w 28 4) (fld w 23 1) (fld w 17 6) (fld w 12 5) (fld w 7 5))
  else if bits w 7 5 == 0 && bits w 23 5 == 8 then some (.gcfg (fld w 28 4) (fld w 17 6) (fld w 12 5))
  else if bits w 7 5 == 1 && bits w 23 5 == 8 then some (.gcfgPort (fld w 28 4) (fld w 17 6) (fld w 12 5))
  else if bits w 24 4 == 5 then some (.dsend (fld w 28 4) (fld w 23 1) (fld w 17 6) (fld w 12 5) (fld w 7 5))
  else if bits w 23 5 == 12 then some (.dstat (fld w 28 4) (fld w 17 6) (fld w 12 5) (fld w 7 5))
  else none

/-- Major 0x3C (R50 to R54). -/
def decMajor3C (w : Nat) : Option Instr :=
  if bits w 12 12 == 0 && bits w 25 3 == 0 then some (.copy (fld w 28 4) (fld w 24 1) (fld w 7 5))
  else if bits w 21 3 == 0 && bits w 25 3 == 1 then some (.copya (fld w 28 4) (fld w 24 1) (fld w 17 4) (fld w 12 5) (fld w 7 5))
  else if bits w 21 7 == 32 then some (.cstat (fld w 28 4) (fld w 17 4) (fld w 12 5) (fld w 7 5))
  else if bits w 21 3 == 0 && bits w 25 3 == 3 then some (.ctradd (fld w 28 4) (fld w 24 1) (fld w 17 4) (fld w 12 5) (fld w 7 5))
  else if bits w 21 2 == 0 && bits w 25 3 == 4 then some (.ctrset (fld w 28 4) (fld w 24 1) (fld w 23 1) (fld w 17 4) (fld w 12 5) (fld w 7 5))
  else if bits w 20 4 == 0 && bits w 25 3 == 5 then some (.tbexp (fld w 28 4) (fld w 24 1) (fld w 17 3) (fld w 12 5) (fld w 7 5))
  else if bits w 12 5 == 0 && bits w 20 4 == 0 && bits w 25 3 == 6 then some (.tbarr (fld w 28 4) (fld w 24 1) (fld w 17 3) (fld w 7 5))
  else none

/-- Major 0x3D (R50 to R54). -/
def decMajor3D (w : Nat) : Option Instr :=
  if bits w 7 5 == 0 && bits w 17 11 == 0 then some (.proof (fld w 28 4) (fld w 12 5))
  else if bits w 12 16 == 1024 then some (.pverd (fld w 28 4) (fld w 7 5))
  else none

/-- Major 0x3E (R50 to R54). -/
def decMajor3E (w : Nat) : Option Instr :=
  if bits w 22 6 == 0 then some (.hload (fld w 28 4) (fld w 17 5) (fld w 12 5) (fld w 7 5))
  else if bits w 22 6 == 1 then some (.hstore (fld w 28 4) (fld w 17 5) (fld w 12 5) (fld w 7 5))
  else if bits w 22 6 == 2 then some (.hpush (fld w 28 4) (fld w 17 5) (fld w 12 5) (fld w 7 5))
  else if bits w 12 16 == 3072 then some (.hdrain (fld w 28 4) (fld w 7 5))
  else if bits w 22 6 == 4 then some (.tlbp (fld w 28 4) (fld w 17 5) (fld w 12 5) (fld w 7 5))
  else none

/-- The 32-bit word `w` as a row of the opcode map, without the limits on its fields (R49). -/
def decWord (w : Nat) : Option Instr :=
  match bits w 1 6 with
  | 0x01 => decMajor01 w
  | 0x02 => decMajor02 w
  | 0x03 => decMajor03 w
  | 0x04 => decMajor04 w
  | 0x05 => decMajor05 w
  | 0x06 => decMajor06 w
  | 0x07 => decMajor07 w
  | 0x08 => decMajor08 w
  | 0x09 => decMajor09 w
  | 0x0A => decMajor0A w
  | 0x0B => decMajor0B w
  | 0x0C => decMajor0C w
  | 0x10 => decMajor10 w
  | 0x11 => decMajor11 w
  | 0x12 => decMajor12 w
  | 0x13 => decMajor13 w
  | 0x14 => decMajor14 w
  | 0x18 => decMajor18 w
  | 0x19 => decMajor19 w
  | 0x1A => decMajor1A w
  | 0x1B => decMajor1B w
  | 0x1C => decMajor1C w
  | 0x1D => decMajor1D w
  | 0x1E => decMajor1E w
  | 0x1F => decMajor1F w
  | 0x20 => decMajor20 w
  | 0x21 => decMajor21 w
  | 0x22 => decMajor22 w
  | 0x24 => decMajor24 w
  | 0x25 => decMajor25 w
  | 0x26 => decMajor26 w
  | 0x27 => decMajor27 w
  | 0x28 => decMajor28 w
  | 0x29 => decMajor29 w
  | 0x2A => decMajor2A w
  | 0x2B => decMajor2B w
  | 0x2C => decMajor2C w
  | 0x2D => decMajor2D w
  | 0x30 => decMajor30 w
  | 0x31 => decMajor31 w
  | 0x32 => decMajor32 w
  | 0x33 => decMajor33 w
  | 0x34 => decMajor34 w
  | 0x36 => decMajor36 w
  | 0x37 => decMajor37 w
  | 0x38 => decMajor38 w
  | 0x39 => decMajor39 w
  | 0x3A => decMajor3A w
  | 0x3B => decMajor3B w
  | 0x3C => decMajor3C w
  | 0x3D => decMajor3D w
  | 0x3E => decMajor3E w
  | _ => none

/-- The 16-bit word `w` as a compact form (R56). -/
def decCompact (w : Nat) : Option Instr :=
  match bits w 1 4 with
  | 0 => if bits w 5 11 == 1 then some (.cNop) else none
  | 1 => if bits w 13 3 == 0 then some (.cMov (fld w 9 4) (fld w 5 4)) else none
  | 2 => if bits w 13 3 == 0 then some (.cAdd (fld w 9 4) (fld w 5 4)) else none
  | 3 => some (.cAddi (fld w 9 7) (fld w 5 4))
  | 4 => if bits w 13 3 == 0 then some (.cSub (fld w 9 4) (fld w 5 4)) else none
  | 5 => if bits w 13 3 == 0 then some (.cAnd (fld w 9 4) (fld w 5 4)) else none
  | 6 => if bits w 13 3 == 0 then some (.cOr (fld w 9 4) (fld w 5 4)) else none
  | 7 => if bits w 13 3 == 0 then some (.cXor (fld w 9 4) (fld w 5 4)) else none
  | 8 => if bits w 15 1 == 0 then some (.cShli (fld w 9 6) (fld w 5 4)) else none
  | 9 => some (.cLi (fld w 9 7) (fld w 5 4))
  | 10 => some (.cLd (fld w 13 3) (fld w 9 4) (fld w 5 4))
  | 11 => some (.cSt (fld w 13 3) (fld w 9 4) (fld w 5 4))
  | 12 => some (.cBr (fld w 9 7) (fld w 8 1) (fld w 5 3))
  | 13 => some (.cJ (fld w 5 11))
  | 14 => if bits w 13 3 == 0 then some (.cRecv (fld w 9 4) (fld w 5 4)) else none
  | 15 => if bits w 13 3 == 0 then some (.cSend (fld w 9 4) (fld w 5 4)) else none
  | _ => none

/-- Accept a row only with its fields inside their limits. -/
def checked (i : Instr) (n : Nat) : Except DecodeError (Instr × Nat) :=
  if wellFormed i then .ok (i, n) else .error (.illFormed i)

/-- Decode the 32-bit word `w` (R37). -/
def decode32 (w : Nat) : Except DecodeError (Instr × Nat) :=
  match decWord w with
  | some i => checked i 4
  | none => .error (.reserved w)

/-- Decode the halfword `w` (R37). -/
def decode16 (w : Nat) : Except DecodeError (Instr × Nat) :=
  match decCompact w with
  | some i => checked i 2
  | none => .error (.reservedCompact w)

/-- Decode the instruction at the head of a list of bytes, with its length in bytes (R36): bit 0 of the first
halfword sets the length. -/
def decode : List Byte → Except DecodeError (Instr × Nat)
  | b0 :: b1 :: rest =>
    if b0.toNat % 2 == 0 then decode16 (b0.toNat + 256 * b1.toNat)
    else match rest with
      | b2 :: b3 :: _ => decode32 (b0.toNat + 256 * b1.toNat + 65536 * b2.toNat + 16777216 * b3.toNat)
      | _ => .error .truncated
  | _ => .error .truncated

/-- The low `n` bytes of a number, lowest first (R2). -/
def leBytes (w : Nat) : Nat → List Byte
  | 0 => []
  | n + 1 => BitVec.ofNat 8 w :: leBytes (w / 256) n

/-- The number that little-endian bytes hold (R2). -/
def ofLe : List Byte → Nat
  | [] => 0
  | b :: bs => b.toNat + 256 * ofLe bs

/-- The instruction that the decoder reads from an opcode-table word of `nbits` bits, little-endian halfwords
(R36), bits above `nbits` zero. -/
def decodeTableWord (nbits w : Nat) : Option Instr :=
  match decode (leBytes (w % 2 ^ nbits) 4) with
  | .ok (i, _) => some i
  | .error _ => none

/-- The sum of fields placed at their lowest bits (R2). -/
def packed : List (Nat × Nat) → Nat
  | [] => 0
  | (v, lo) :: fs => v * 2 ^ lo + packed fs

/-- The word of an encoded instruction with its width in bits (R43 to R56); none for an event. -/
def encodeWord : Instr → Option (Nat × Nat)
  | .add g b a d => some (32, 0x00000003 + packed [(g.toNat, 28), (b.toNat, 17), (a.toNat, 12), (d.toNat, 7)])
  | .sub g b a d => some (32, 0x00400003 + packed [(g.toNat, 28), (b.toNat, 17), (a.toNat, 12), (d.toNat, 7)])
  | .mul g b a d => some (32, 0x00800003 + packed [(g.toNat, 28), (b.toNat, 17), (a.toNat, 12), (d.toNat, 7)])
  | .mulh g u b a d => some (32, 0x00C00003 + packed [(g.toNat, 28), (u.toNat, 26), (b.toNat, 17), (a.toNat, 12), (d.toNat, 7)])
  | .div g u b a d => some (32, 0x01000003 + packed [(g.toNat, 28), (u.toNat, 26), (b.toNat, 17), (a.toNat, 12), (d.toNat, 7)])
  | .rem g u b a d => some (32, 0x01400003 + packed [(g.toNat, 28), (u.toNat, 26), (b.toNat, 17), (a.toNat, 12), (d.toNat, 7)])
  | .and g b a d => some (32, 0x01800003 + packed [(g.toNat, 28), (b.toNat, 17), (a.toNat, 12), (d.toNat, 7)])
  | .or g b a d => some (32, 0x01C00003 + packed [(g.toNat, 28), (b.toNat, 17), (a.toNat, 12), (d.toNat, 7)])
  | .xor g b a d => some (32, 0x02000003 + packed [(g.toNat, 28), (b.toNat, 17), (a.toNat, 12), (d.toNat, 7)])
  | .shl g b a d => some (32, 0x02400003 + packed [(g.toNat, 28), (b.toNat, 17), (a.toNat, 12), (d.toNat, 7)])
  | .shr g b a d => some (32, 0x02800003 + packed [(g.toNat, 28), (b.toNat, 17), (a.toNat, 12), (d.toNat, 7)])
  | .sha g b a d => some (32, 0x02C00003 + packed [(g.toNat, 28), (b.toNat, 17), (a.toNat, 12), (d.toNat, 7)])
  | .rotl g b a d => some (32, 0x03000003 + packed [(g.toNat, 28), (b.toNat, 17), (a.toNat, 12), (d.toNat, 7)])
  | .min g u b a d => some (32, 0x03400003 + packed [(g.toNat, 28), (u.toNat, 26), (b.toNat, 17), (a.toNat, 12), (d.toNat, 7)])
  | .max g u b a d => some (32, 0x03800003 + packed [(g.toNat, 28), (u.toNat, 26), (b.toNat, 17), (a.toNat, 12), (d.toNat, 7)])
  | .sel g b a d => some (32, 0x03C00003 + packed [(g.toNat, 28), (b.toNat, 17), (a.toNat, 12), (d.toNat, 7)])
  | .addi g e k a d => some (32, 0x00000005 + packed [(g.toNat, 28), (e.toNat, 27), (k.toNat, 17), (a.toNat, 12), (d.toNat, 7)])
  | .andi g e k a d => some (32, 0x00000007 + packed [(g.toNat, 28), (e.toNat, 27), (k.toNat, 17), (a.toNat, 12), (d.toNat, 7)])
  | .ori g e k a d => some (32, 0x00000009 + packed [(g.toNat, 28), (e.toNat, 27), (k.toNat, 17), (a.toNat, 12), (d.toNat, 7)])
  | .xori g e k a d => some (32, 0x0000000B + packed [(g.toNat, 28), (e.toNat, 27), (k.toNat, 17), (a.toNat, 12), (d.toNat, 7)])
  | .shli g sx a d => some (32, 0x0000000D + packed [(g.toNat, 28), (sx.toNat, 17), (a.toNat, 12), (d.toNat, 7)])
  | .shri g sx a d => some (32, 0x0200000D + packed [(g.toNat, 28), (sx.toNat, 17), (a.toNat, 12), (d.toNat, 7)])
  | .shai g sx a d => some (32, 0x0400000D + packed [(g.toNat, 28), (sx.toNat, 17), (a.toNat, 12), (d.toNat, 7)])
  | .rotli g sx a d => some (32, 0x0600000D + packed [(g.toNat, 28), (sx.toNat, 17), (a.toNat, 12), (d.toNat, 7)])
  | .clz g a d => some (32, 0x0000000F + packed [(g.toNat, 28), (a.toNat, 12), (d.toNat, 7)])
  | .ctz g a d => some (32, 0x0040000F + packed [(g.toNat, 28), (a.toNat, 12), (d.toNat, 7)])
  | .popc g a d => some (32, 0x0080000F + packed [(g.toNat, 28), (a.toNat, 12), (d.toNat, 7)])
  | .ext g u sx a d => some (32, 0x00C0000F + packed [(g.toNat, 28), (u.toNat, 19), (sx.toNat, 17), (a.toNat, 12), (d.toNat, 7)])
  | .bfx g b a d => some (32, 0x0100000F + packed [(g.toNat, 28), (b.toNat, 17), (a.toNat, 12), (d.toNat, 7)])
  | .bfi g b a d => some (32, 0x0140000F + packed [(g.toNat, 28), (b.toNat, 17), (a.toNat, 12), (d.toNat, 7)])
  | .mov g a d => some (32, 0x0180000F + packed [(g.toNat, 28), (a.toNat, 12), (d.toNat, 7)])
  | .movToY g a d => some (32, 0x0182000F + packed [(g.toNat, 28), (a.toNat, 12), (d.toNat, 7)])
  | .movFromY g a d => some (32, 0x0184000F + packed [(g.toNat, 28), (a.toNat, 12), (d.toNat, 7)])
  | .li g k d => some (32, 0x00000011 + packed [(g.toNat, 28), (k.toNat, 12), (d.toNat, 7)])
  | .lih g k d => some (32, 0x00000013 + packed [(g.toNat, 28), (k.toNat, 12), (d.toNat, 7)])
  | .cmp g u c b a p => some (32, 0x00000015 + packed [(g.toNat, 28), (u.toNat, 25), (c.toNat, 22), (b.toNat, 17), (a.toNat, 12), (p.toNat, 7)])
  | .cmpi g u c k a p => some (32, 0x00000017 + packed [(g.toNat, 28), (u.toNat, 27), (c.toNat, 24), (k.toNat, 17), (a.toNat, 12), (p.toNat, 7)])
  | .pand g b a d => some (32, 0x00000019 + packed [(g.toNat, 28), (b.toNat, 17), (a.toNat, 12), (d.toNat, 7)])
  | .por g b a d => some (32, 0x00400019 + packed [(g.toNat, 28), (b.toNat, 17), (a.toNat, 12), (d.toNat, 7)])
  | .pxor g b a d => some (32, 0x00800019 + packed [(g.toNat, 28), (b.toNat, 17), (a.toNat, 12), (d.toNat, 7)])
  | .pnot g a d => some (32, 0x00C00019 + packed [(g.toNat, 28), (a.toNat, 12), (d.toNat, 7)])
  | .pmovx g a d => some (32, 0x01000019 + packed [(g.toNat, 28), (a.toNat, 12), (d.toNat, 7)])
  | .pmovp g a d => some (32, 0x01400019 + packed [(g.toNat, 28), (a.toNat, 12), (d.toNat, 7)])
  | .br g bx k => some (32, 0x00000021 + packed [(g.toNat, 28), (bx.toNat, 23), (k.toNat, 7)])
  | .j g k => some (32, 0x00000023 + packed [(g.toNat, 28), (k.toNat, 7)])
  | .jal g k d => some (32, 0x00000025 + packed [(g.toNat, 28), (k.toNat, 12), (d.toNat, 7)])
  | .jr g a => some (32, 0x00000027 + packed [(g.toNat, 28), (a.toNat, 12)])
  | .jalr g a d => some (32, 0x00400027 + packed [(g.toNat, 28), (a.toNat, 12), (d.toNat, 7)])
  | .trap g k => some (32, 0x00000029 + packed [(g.toNat, 28), (k.toNat, 12)])
  | .bkpt g k => some (32, 0x00400029 + packed [(g.toNat, 28), (k.toNat, 12)])
  | .tret g sx => some (32, 0x00800029 + packed [(g.toNat, 28), (sx.toNat, 12)])
  | .exti g k c e => some (32, 0x00000031 + packed [(g.toNat, 28), (k.toNat, 11), (c.toNat, 10), (e.toNat, 7)])
  | .extx g a e => some (32, 0x08000031 + packed [(g.toNat, 28), (a.toNat, 12), (e.toNat, 7)])
  | .extg g k a e => some (32, 0x09000031 + packed [(g.toNat, 28), (k.toNat, 17), (a.toNat, 12), (e.toNat, 7)])
  | .extl g k a e => some (32, 0x0A000031 + packed [(g.toNat, 28), (k.toNat, 17), (a.toNat, 12), (e.toNat, 7)])
  | .exts g k a e => some (32, 0x0B000031 + packed [(g.toNat, 28), (k.toNat, 17), (a.toNat, 12), (e.toNat, 7)])
  | .srd g n x => some (32, 0x00000033 + packed [(g.toNat, 28), (n.toNat, 13), (x.toNat, 7)])
  | .swr g n x => some (32, 0x02000033 + packed [(g.toNat, 28), (n.toNat, 13), (x.toNat, 7)])
  | .evt g n x => some (32, 0x04000033 + packed [(g.toNat, 28), (n.toNat, 13), (x.toNat, 7)])
  | .iflush g => some (32, 0x06000033 + packed [(g.toNat, 28)])
  | .fencecFence g x => some (32, 0x08000033 + packed [(g.toNat, 28), (x.toNat, 7)])
  | .fencecAbandon g x => some (32, 0x08002033 + packed [(g.toNat, 28), (x.toNat, 7)])
  | .cmapw g x => some (32, 0x0A000033 + packed [(g.toNat, 28), (x.toNat, 7)])
  | .preemptSave g x => some (32, 0x0C000033 + packed [(g.toNat, 28), (x.toNat, 7)])
  | .preemptResume g x => some (32, 0x0C002033 + packed [(g.toNat, 28), (x.toNat, 7)])
  | .capstart g a => some (32, 0x00000035 + packed [(g.toNat, 28), (a.toNat, 12)])
  | .capstop g a d => some (32, 0x00400035 + packed [(g.toNat, 28), (a.toNat, 12), (d.toNat, 7)])
  | .trcmark g b a k => some (32, 0x00800035 + packed [(g.toNat, 28), (b.toNat, 17), (a.toNat, 12), (k.toNat, 7)])
  | .lsend g b a d => some (32, 0x00000037 + packed [(g.toNat, 28), (b.toNat, 17), (a.toNat, 12), (d.toNat, 7)])
  | .lrecv g b d => some (32, 0x00400037 + packed [(g.toNat, 28), (b.toNat, 17), (d.toNat, 7)])
  | .ld g u sx k a d => some (32, 0x00000039 + packed [(g.toNat, 28), (u.toNat, 27), (sx.toNat, 25), (k.toNat, 17), (a.toNat, 12), (d.toNat, 7)])
  | .st g sx o k a d => some (32, 0x0000003B + packed [(g.toNat, 28), (sx.toNat, 25), (o.toNat, 24), (k.toNat, 17), (a.toNat, 12), (d.toNat, 7)])
  | .ldv g k a d => some (32, 0x0000003D + packed [(g.toNat, 28), (k.toNat, 17), (a.toNat, 12), (d.toNat, 7)])
  | .stv g o k a d => some (32, 0x0800003D + packed [(g.toNat, 28), (o.toNat, 24), (k.toNat, 17), (a.toNat, 12), (d.toNat, 7)])
  | .ldvx g w b a d => some (32, 0x0000003F + packed [(g.toNat, 28), (w.toNat, 23), (b.toNat, 17), (a.toNat, 12), (d.toNat, 7)])
  | .stvx g w b a d => some (32, 0x0040003F + packed [(g.toNat, 28), (w.toNat, 23), (b.toNat, 17), (a.toNat, 12), (d.toNat, 7)])
  | .ldf g n c k a d => some (32, 0x00000041 + packed [(g.toNat, 28), (n.toNat, 24), (c.toNat, 23), (k.toNat, 17), (a.toNat, 12), (d.toNat, 7)])
  | .stf g n k a d => some (32, 0x02000041 + packed [(g.toNat, 28), (n.toNat, 24), (k.toNat, 17), (a.toNat, 12), (d.toNat, 7)])
  | .sete g k a => some (32, 0x04000041 + packed [(g.toNat, 28), (k.toNat, 17), (a.toNat, 12)])
  | .setf g k a => some (32, 0x06000041 + packed [(g.toNat, 28), (k.toNat, 17), (a.toNat, 12)])
  | .gstate g k a d => some (32, 0x08000041 + packed [(g.toNat, 28), (k.toNat, 17), (a.toNat, 12), (d.toNat, 7)])
  | .amoLoad g r w a d => some (32, 0x00000043 + packed [(g.toNat, 28), (r.toNat, 27), (w.toNat, 22), (a.toNat, 12), (d.toNat, 7)])
  | .amoStore g r w b a => some (32, 0x00800043 + packed [(g.toNat, 28), (r.toNat, 27), (w.toNat, 22), (b.toNat, 17), (a.toNat, 12)])
  | .amoSwap g r w b a d => some (32, 0x01000043 + packed [(g.toNat, 28), (r.toNat, 27), (w.toNat, 22), (b.toNat, 17), (a.toNat, 12), (d.toNat, 7)])
  | .cas g r w b a d => some (32, 0x01800043 + packed [(g.toNat, 28), (r.toNat, 27), (w.toNat, 22), (b.toNat, 17), (a.toNat, 12), (d.toNat, 7)])
  | .amoAdd g r w b a d => some (32, 0x02000043 + packed [(g.toNat, 28), (r.toNat, 27), (w.toNat, 22), (b.toNat, 17), (a.toNat, 12), (d.toNat, 7)])
  | .amoAnd g r w b a d => some (32, 0x02800043 + packed [(g.toNat, 28), (r.toNat, 27), (w.toNat, 22), (b.toNat, 17), (a.toNat, 12), (d.toNat, 7)])
  | .amoOr g r w b a d => some (32, 0x03000043 + packed [(g.toNat, 28), (r.toNat, 27), (w.toNat, 22), (b.toNat, 17), (a.toNat, 12), (d.toNat, 7)])
  | .amoXor g r w b a d => some (32, 0x03800043 + packed [(g.toNat, 28), (r.toNat, 27), (w.toNat, 22), (b.toNat, 17), (a.toNat, 12), (d.toNat, 7)])
  | .amoMinSigned g r w b a d => some (32, 0x04000043 + packed [(g.toNat, 28), (r.toNat, 27), (w.toNat, 22), (b.toNat, 17), (a.toNat, 12), (d.toNat, 7)])
  | .amoMaxSigned g r w b a d => some (32, 0x04800043 + packed [(g.toNat, 28), (r.toNat, 27), (w.toNat, 22), (b.toNat, 17), (a.toNat, 12), (d.toNat, 7)])
  | .amoMinUnsigned g r w b a d => some (32, 0x05000043 + packed [(g.toNat, 28), (r.toNat, 27), (w.toNat, 22), (b.toNat, 17), (a.toNat, 12), (d.toNat, 7)])
  | .amoMaxUnsigned g r w b a d => some (32, 0x05800043 + packed [(g.toNat, 28), (r.toNat, 27), (w.toNat, 22), (b.toNat, 17), (a.toNat, 12), (d.toNat, 7)])
  | .amoFadd g r w b a d => some (32, 0x06000043 + packed [(g.toNat, 28), (r.toNat, 27), (w.toNat, 22), (b.toNat, 17), (a.toNat, 12), (d.toNat, 7)])
  | .amoFmin g r w b a d => some (32, 0x06800043 + packed [(g.toNat, 28), (r.toNat, 27), (w.toNat, 22), (b.toNat, 17), (a.toNat, 12), (d.toNat, 7)])
  | .amoFmax g r w b a d => some (32, 0x07000043 + packed [(g.toNat, 28), (r.toNat, 27), (w.toNat, 22), (b.toNat, 17), (a.toNat, 12), (d.toNat, 7)])
  | .fenceRel g sx => some (32, 0x00400045 + packed [(g.toNat, 28), (sx.toNat, 24)])
  | .fenceAcq g sx => some (32, 0x00800045 + packed [(g.toNat, 28), (sx.toNat, 24)])
  | .fenceAr g sx => some (32, 0x00C00045 + packed [(g.toNat, 28), (sx.toNat, 24)])
  | .vadd g t b a d => some (32, 0x00000049 + packed [(g.toNat, 28), (t.toNat, 22), (b.toNat, 17), (a.toNat, 12), (d.toNat, 7)])
  | .vsub g t b a d => some (32, 0x01000049 + packed [(g.toNat, 28), (t.toNat, 22), (b.toNat, 17), (a.toNat, 12), (d.toNat, 7)])
  | .vmul g t b a d => some (32, 0x02000049 + packed [(g.toNat, 28), (t.toNat, 22), (b.toNat, 17), (a.toNat, 12), (d.toNat, 7)])
  | .vdiv g t b a d => some (32, 0x03000049 + packed [(g.toNat, 28), (t.toNat, 22), (b.toNat, 17), (a.toNat, 12), (d.toNat, 7)])
  | .vfma g t b a d => some (32, 0x04000049 + packed [(g.toNat, 28), (t.toNat, 22), (b.toNat, 17), (a.toNat, 12), (d.toNat, 7)])
  | .vfms g t b a d => some (32, 0x05000049 + packed [(g.toNat, 28), (t.toNat, 22), (b.toNat, 17), (a.toNat, 12), (d.toNat, 7)])
  | .vfnma g t b a d => some (32, 0x06000049 + packed [(g.toNat, 28), (t.toNat, 22), (b.toNat, 17), (a.toNat, 12), (d.toNat, 7)])
  | .vmin g t b a d => some (32, 0x07000049 + packed [(g.toNat, 28), (t.toNat, 22), (b.toNat, 17), (a.toNat, 12), (d.toNat, 7)])
  | .vmax g t b a d => some (32, 0x08000049 + packed [(g.toNat, 28), (t.toNat, 22), (b.toNat, 17), (a.toNat, 12), (d.toNat, 7)])
  | .vneg g t a d => some (32, 0x0000004B + packed [(g.toNat, 28), (t.toNat, 22), (a.toNat, 12), (d.toNat, 7)])
  | .vabs g t a d => some (32, 0x0100004B + packed [(g.toNat, 28), (t.toNat, 22), (a.toNat, 12), (d.toNat, 7)])
  | .vsqrt g t r a d => some (32, 0x0200004B + packed [(g.toNat, 28), (t.toNat, 22), (r.toNat, 17), (a.toNat, 12), (d.toNat, 7)])
  | .vrcpa g t a d => some (32, 0x0300004B + packed [(g.toNat, 28), (t.toNat, 22), (a.toNat, 12), (d.toNat, 7)])
  | .vrsqa g t a d => some (32, 0x0400004B + packed [(g.toNat, 28), (t.toNat, 22), (a.toNat, 12), (d.toNat, 7)])
  | .vexpa g t a d => some (32, 0x0500004B + packed [(g.toNat, 28), (t.toNat, 22), (a.toNat, 12), (d.toNat, 7)])
  | .vloga g t a d => some (32, 0x0600004B + packed [(g.toNat, 28), (t.toNat, 22), (a.toNat, 12), (d.toNat, 7)])
  | .vrint g t r a d => some (32, 0x0700004B + packed [(g.toNat, 28), (t.toNat, 22), (r.toNat, 17), (a.toNat, 12), (d.toNat, 7)])
  | .viadd g w b a d => some (32, 0x0000004D + packed [(g.toNat, 28), (w.toNat, 22), (b.toNat, 17), (a.toNat, 12), (d.toNat, 7)])
  | .visub g w b a d => some (32, 0x0100004D + packed [(g.toNat, 28), (w.toNat, 22), (b.toNat, 17), (a.toNat, 12), (d.toNat, 7)])
  | .vimul g w b a d => some (32, 0x0200004D + packed [(g.toNat, 28), (w.toNat, 22), (b.toNat, 17), (a.toNat, 12), (d.toNat, 7)])
  | .viminI g w b a d => some (32, 0x0300004D + packed [(g.toNat, 28), (w.toNat, 22), (b.toNat, 17), (a.toNat, 12), (d.toNat, 7)])
  | .viminN g w b a d => some (32, 0x0400004D + packed [(g.toNat, 28), (w.toNat, 22), (b.toNat, 17), (a.toNat, 12), (d.toNat, 7)])
  | .vimaxI g w b a d => some (32, 0x0500004D + packed [(g.toNat, 28), (w.toNat, 22), (b.toNat, 17), (a.toNat, 12), (d.toNat, 7)])
  | .vimaxN g w b a d => some (32, 0x0600004D + packed [(g.toNat, 28), (w.toNat, 22), (b.toNat, 17), (a.toNat, 12), (d.toNat, 7)])
  | .viaddsI g w b a d => some (32, 0x0700004D + packed [(g.toNat, 28), (w.toNat, 22), (b.toNat, 17), (a.toNat, 12), (d.toNat, 7)])
  | .viaddsN g w b a d => some (32, 0x0800004D + packed [(g.toNat, 28), (w.toNat, 22), (b.toNat, 17), (a.toNat, 12), (d.toNat, 7)])
  | .vand g w b a d => some (32, 0x0900004D + packed [(g.toNat, 28), (w.toNat, 22), (b.toNat, 17), (a.toNat, 12), (d.toNat, 7)])
  | .vor g w b a d => some (32, 0x0A00004D + packed [(g.toNat, 28), (w.toNat, 22), (b.toNat, 17), (a.toNat, 12), (d.toNat, 7)])
  | .vxor g w b a d => some (32, 0x0B00004D + packed [(g.toNat, 28), (w.toNat, 22), (b.toNat, 17), (a.toNat, 12), (d.toNat, 7)])
  | .vshl g w b a d => some (32, 0x0C00004D + packed [(g.toNat, 28), (w.toNat, 22), (b.toNat, 17), (a.toNat, 12), (d.toNat, 7)])
  | .vshrN g w b a d => some (32, 0x0D00004D + packed [(g.toNat, 28), (w.toNat, 22), (b.toNat, 17), (a.toNat, 12), (d.toNat, 7)])
  | .vshrI g w b a d => some (32, 0x0E00004D + packed [(g.toNat, 28), (w.toNat, 22), (b.toNat, 17), (a.toNat, 12), (d.toNat, 7)])
  | .vcmp g c w b a l p => some (32, 0x0000004F + packed [(g.toNat, 28), (c.toNat, 24), (w.toNat, 22), (b.toNat, 17), (a.toNat, 12), (l.toNat, 10), (p.toNat, 7)])
  | .vsel g w b a d => some (32, 0x0800004F + packed [(g.toNat, 28), (w.toNat, 22), (b.toNat, 17), (a.toNat, 12), (d.toNat, 7)])
  | .vcvt g r t sx a d => some (32, 0x00000051 + packed [(g.toNat, 28), (r.toNat, 25), (t.toNat, 21), (sx.toNat, 17), (a.toNat, 12), (d.toNat, 7)])
  | .vdup g w a d => some (32, 0x00000053 + packed [(g.toNat, 28), (w.toNat, 23), (a.toNat, 12), (d.toNat, 7)])
  | .vget g w j a d => some (32, 0x02000053 + packed [(g.toNat, 28), (w.toNat, 23), (j.toNat, 17), (a.toNat, 12), (d.toNat, 7)])
  | .vins g w j a d => some (32, 0x04000053 + packed [(g.toNat, 28), (w.toNat, 23), (j.toNat, 17), (a.toNat, 12), (d.toNat, 7)])
  | .viota g w a d => some (32, 0x06000053 + packed [(g.toNat, 28), (w.toNat, 23), (a.toNat, 12), (d.toNat, 7)])
  | .vperm g w b a d => some (32, 0x08000053 + packed [(g.toNat, 28), (w.toNat, 23), (b.toNat, 17), (a.toNat, 12), (d.toNat, 7)])
  | .vreds g t a d => some (32, 0x00000055 + packed [(g.toNat, 28), (t.toNat, 22), (a.toNat, 12), (d.toNat, 7)])
  | .vredm g t m a d => some (32, 0x04000055 + packed [(g.toNat, 28), (t.toNat, 22), (m.toNat, 17), (a.toNat, 12), (d.toNat, 7)])
  | .vdot g t b a d => some (32, 0x08000055 + packed [(g.toNat, 28), (t.toNat, 22), (b.toNat, 17), (a.toNat, 12), (d.toNat, 7)])
  | .vscan g t a d => some (32, 0x0C000055 + packed [(g.toNat, 28), (t.toNat, 22), (a.toNat, 12), (d.toNat, 7)])
  | .vsort g e k c b a d => some (32, 0x00000057 + packed [(g.toNat, 28), (e.toNat, 27), (k.toNat, 26), (c.toNat, 22), (b.toNat, 17), (a.toNat, 12), (d.toNat, 7)])
  | .vmxq g e t r a d => some (32, 0x00000059 + packed [(g.toNat, 28), (e.toNat, 24), (t.toNat, 22), (r.toNat, 17), (a.toNat, 12), (d.toNat, 7)])
  | .vmxd g e t a d => some (32, 0x08000059 + packed [(g.toNat, 28), (e.toNat, 24), (t.toNat, 22), (a.toNat, 12), (d.toNat, 7)])
  | .vlut g w b a d => some (32, 0x0000005B + packed [(g.toNat, 28), (w.toNat, 22), (b.toNat, 17), (a.toNat, 12), (d.toNat, 7)])
  | .rinit g q a => some (32, 0x00000061 + packed [(g.toNat, 28), (q.toNat, 18), (a.toNat, 12)])
  | .radvHead g q a => some (32, 0x04000061 + packed [(g.toNat, 28), (q.toNat, 18), (a.toNat, 12)])
  | .radvTail g q a => some (32, 0x06000061 + packed [(g.toNat, 28), (q.toNat, 18), (a.toNat, 12)])
  | .rwaitHead g q a d => some (32, 0x08000061 + packed [(g.toNat, 28), (q.toNat, 18), (a.toNat, 12), (d.toNat, 7)])
  | .rwaitTail g q a d => some (32, 0x0A000061 + packed [(g.toNat, 28), (q.toNat, 18), (a.toNat, 12), (d.toNat, 7)])
  | .rstat g q d => some (32, 0x0C000061 + packed [(g.toNat, 28), (q.toNat, 18), (d.toNat, 7)])
  | .tmma g t c b a => some (32, 0x00000063 + packed [(g.toNat, 28), (t.toNat, 25), (c.toNat, 21), (b.toNat, 17), (a.toNat, 13)])
  | .tmmx g t c b a => some (32, 0x00000065 + packed [(g.toNat, 28), (t.toNat, 25), (c.toNat, 21), (b.toNat, 17), (a.toNat, 13)])
  | .tzero g c => some (32, 0x00000067 + packed [(g.toNat, 28), (c.toNat, 18)])
  | .tloada g t c q => some (32, 0x04000067 + packed [(g.toNat, 28), (t.toNat, 22), (c.toNat, 18), (q.toNat, 14)])
  | .tstore g t c q e => some (32, 0x08000067 + packed [(g.toNat, 28), (t.toNat, 22), (c.toNat, 18), (q.toNat, 14), (e.toNat, 11)])
  | .ttrn g t sx q => some (32, 0x0C000067 + packed [(g.toNat, 28), (t.toNat, 22), (sx.toNat, 18), (q.toNat, 14)])
  | .tscl g z a => some (32, 0x00000069 + packed [(g.toNat, 28), (z.toNat, 22), (a.toNat, 12)])
  | .slab g q a => some (32, 0x08000069 + packed [(g.toNat, 28), (q.toNat, 22), (a.toNat, 12)])
  | .spawn g q d => some (32, 0x0000006D + packed [(g.toNat, 28), (q.toNat, 27), (d.toNat, 7)])
  | .quit g => some (32, 0x0040006D + packed [(g.toNat, 28)])
  | .commit g => some (32, 0x0080006D + packed [(g.toNat, 28)])
  | .yield g => some (32, 0x00C0006D + packed [(g.toNat, 28)])
  | .prio g a => some (32, 0x0100006D + packed [(g.toNat, 28), (a.toNat, 12)])
  | .chopen g q p a d => some (32, 0x0000006F + packed [(g.toNat, 28), (q.toNat, 23), (p.toNat, 17), (a.toNat, 12), (d.toNat, 7)])
  | .chbind g q p a d => some (32, 0x0100006F + packed [(g.toNat, 28), (q.toNat, 23), (p.toNat, 17), (a.toNat, 12), (d.toNat, 7)])
  | .chclose g q p d => some (32, 0x0200006F + packed [(g.toNat, 28), (q.toNat, 23), (p.toNat, 17), (d.toNat, 7)])
  | .chstat g p sx d => some (32, 0x0300006F + packed [(g.toNat, 28), (p.toNat, 17), (sx.toNat, 12), (d.toNat, 7)])
  | .wrel g q p d => some (32, 0x0400006F + packed [(g.toNat, 28), (q.toNat, 23), (p.toNat, 17), (d.toNat, 7)])
  | .send g q p a d => some (32, 0x00000071 + packed [(g.toNat, 28), (q.toNat, 23), (p.toNat, 17), (a.toNat, 12), (d.toNat, 7)])
  | .recv g q p a d => some (32, 0x01000071 + packed [(g.toNat, 28), (q.toNat, 23), (p.toNat, 17), (a.toNat, 12), (d.toNat, 7)])
  | .sendv g q p a d => some (32, 0x02000071 + packed [(g.toNat, 28), (q.toNat, 23), (p.toNat, 17), (a.toNat, 12), (d.toNat, 7)])
  | .recvv g q p a d => some (32, 0x03000071 + packed [(g.toNat, 28), (q.toNat, 23), (p.toNat, 17), (a.toNat, 12), (d.toNat, 7)])
  | .sendt g q p a d => some (32, 0x04000071 + packed [(g.toNat, 28), (q.toNat, 23), (p.toNat, 17), (a.toNat, 12), (d.toNat, 7)])
  | .recvt g q p a d => some (32, 0x05000071 + packed [(g.toNat, 28), (q.toNat, 23), (p.toNat, 17), (a.toNat, 12), (d.toNat, 7)])
  | .alt g n d => some (32, 0x00000073 + packed [(g.toNat, 28), (n.toNat, 22), (d.toNat, 7)])
  | .launch g q b d => some (32, 0x00000075 + packed [(g.toNat, 28), (q.toNat, 27), (b.toNat, 17), (d.toNat, 7)])
  | .lwait g q b a d => some (32, 0x00400075 + packed [(g.toNat, 28), (q.toNat, 27), (b.toNat, 17), (a.toNat, 12), (d.toNat, 7)])
  | .lcancel g q a d => some (32, 0x00800075 + packed [(g.toNat, 28), (q.toNat, 27), (a.toNat, 12), (d.toNat, 7)])
  | .ldep g q b a d => some (32, 0x00C00075 + packed [(g.toNat, 28), (q.toNat, 27), (b.toNat, 17), (a.toNat, 12), (d.toNat, 7)])
  | .graphOpen g q a d => some (32, 0x01000075 + packed [(g.toNat, 28), (q.toNat, 27), (a.toNat, 12), (d.toNat, 7)])
  | .graphClose g q a d => some (32, 0x01020075 + packed [(g.toNat, 28), (q.toNat, 27), (a.toNat, 12), (d.toNat, 7)])
  | .jcancel g q a d => some (32, 0x01400075 + packed [(g.toNat, 28), (q.toNat, 27), (a.toNat, 12), (d.toNat, 7)])
  | .nextt g q b a d => some (32, 0x01800075 + packed [(g.toNat, 28), (q.toNat, 27), (b.toNat, 17), (a.toNat, 12), (d.toNat, 7)])
  | .gsendScalar g q p a d => some (32, 0x00000077 + packed [(g.toNat, 28), (q.toNat, 23), (p.toNat, 17), (a.toNat, 12), (d.toNat, 7)])
  | .gsendVector g q p a d => some (32, 0x01000077 + packed [(g.toNat, 28), (q.toNat, 23), (p.toNat, 17), (a.toNat, 12), (d.toNat, 7)])
  | .grecvScalar g q p a d => some (32, 0x02000077 + packed [(g.toNat, 28), (q.toNat, 23), (p.toNat, 17), (a.toNat, 12), (d.toNat, 7)])
  | .grecvVector g q p a d => some (32, 0x03000077 + packed [(g.toNat, 28), (q.toNat, 23), (p.toNat, 17), (a.toNat, 12), (d.toNat, 7)])
  | .gcfg g p a => some (32, 0x04000077 + packed [(g.toNat, 28), (p.toNat, 17), (a.toNat, 12)])
  | .gcfgPort g p a => some (32, 0x040000F7 + packed [(g.toNat, 28), (p.toNat, 17), (a.toNat, 12)])
  | .dsend g q p a d => some (32, 0x05000077 + packed [(g.toNat, 28), (q.toNat, 23), (p.toNat, 17), (a.toNat, 12), (d.toNat, 7)])
  | .dstat g p a d => some (32, 0x06000077 + packed [(g.toNat, 28), (p.toNat, 17), (a.toNat, 12), (d.toNat, 7)])
  | .copy g q d => some (32, 0x00000079 + packed [(g.toNat, 28), (q.toNat, 24), (d.toNat, 7)])
  | .copya g q k a d => some (32, 0x02000079 + packed [(g.toNat, 28), (q.toNat, 24), (k.toNat, 17), (a.toNat, 12), (d.toNat, 7)])
  | .cstat g k sx d => some (32, 0x04000079 + packed [(g.toNat, 28), (k.toNat, 17), (sx.toNat, 12), (d.toNat, 7)])
  | .ctradd g q k a d => some (32, 0x06000079 + packed [(g.toNat, 28), (q.toNat, 24), (k.toNat, 17), (a.toNat, 12), (d.toNat, 7)])
  | .ctrset g q c k a d => some (32, 0x08000079 + packed [(g.toNat, 28), (q.toNat, 24), (c.toNat, 23), (k.toNat, 17), (a.toNat, 12), (d.toNat, 7)])
  | .tbexp g q k a d => some (32, 0x0A000079 + packed [(g.toNat, 28), (q.toNat, 24), (k.toNat, 17), (a.toNat, 12), (d.toNat, 7)])
  | .tbarr g q k d => some (32, 0x0C000079 + packed [(g.toNat, 28), (q.toNat, 24), (k.toNat, 17), (d.toNat, 7)])
  | .proof g a => some (32, 0x0000007B + packed [(g.toNat, 28), (a.toNat, 12)])
  | .pverd g d => some (32, 0x0040007B + packed [(g.toNat, 28), (d.toNat, 7)])
  | .hload g b a d => some (32, 0x0000007D + packed [(g.toNat, 28), (b.toNat, 17), (a.toNat, 12), (d.toNat, 7)])
  | .hstore g b a d => some (32, 0x0040007D + packed [(g.toNat, 28), (b.toNat, 17), (a.toNat, 12), (d.toNat, 7)])
  | .hpush g b a d => some (32, 0x0080007D + packed [(g.toNat, 28), (b.toNat, 17), (a.toNat, 12), (d.toNat, 7)])
  | .hdrain g d => some (32, 0x00C0007D + packed [(g.toNat, 28), (d.toNat, 7)])
  | .tlbp g b a d => some (32, 0x0100007D + packed [(g.toNat, 28), (b.toNat, 17), (a.toNat, 12), (d.toNat, 7)])
  | .cNop => some (16, 0x0020 + packed [])
  | .cMov a d => some (16, 0x0002 + packed [(a.toNat, 9), (d.toNat, 5)])
  | .cAdd a d => some (16, 0x0004 + packed [(a.toNat, 9), (d.toNat, 5)])
  | .cAddi k d => some (16, 0x0006 + packed [(k.toNat, 9), (d.toNat, 5)])
  | .cSub a d => some (16, 0x0008 + packed [(a.toNat, 9), (d.toNat, 5)])
  | .cAnd a d => some (16, 0x000A + packed [(a.toNat, 9), (d.toNat, 5)])
  | .cOr a d => some (16, 0x000C + packed [(a.toNat, 9), (d.toNat, 5)])
  | .cXor a d => some (16, 0x000E + packed [(a.toNat, 9), (d.toNat, 5)])
  | .cShli sx d => some (16, 0x0010 + packed [(sx.toNat, 9), (d.toNat, 5)])
  | .cLi k d => some (16, 0x0012 + packed [(k.toNat, 9), (d.toNat, 5)])
  | .cLd j a d => some (16, 0x0014 + packed [(j.toNat, 13), (a.toNat, 9), (d.toNat, 5)])
  | .cSt j a d => some (16, 0x0016 + packed [(j.toNat, 13), (a.toNat, 9), (d.toNat, 5)])
  | .cBr k n p => some (16, 0x0018 + packed [(k.toNat, 9), (n.toNat, 8), (p.toNat, 5)])
  | .cJ k => some (16, 0x001A + packed [(k.toNat, 5)])
  | .cRecv p d => some (16, 0x001C + packed [(p.toNat, 9), (d.toNat, 5)])
  | .cSend p a => some (16, 0x001E + packed [(p.toNat, 9), (a.toNat, 5)])
  | .illegalWord _ => none
  | .iflushDone => none
  | .granulePollReissue => none
  | .releaseWaitDone => none
  | .vectorUnitGrant => none
  | .vectorResult => none
  | .dividerGrant => none
  | .dividerDone => none
  | .tileAccept => none
  | .tileStart => none
  | .tileActivationGrant => none
  | .tileComplete => none
  | .yieldEnd => none
  | .spawnRecordAccept => none
  | .spawnAnswer => none
  | .slotAssign => none
  | .windowClearDone => none
  | .parkStart => none
  | .parkDone => none
  | .parkRestoreDone => none
  | .stageFiring => none
  | .altTimeout => none
  | .creditRequestArrive => none
  | .creditGrant => none
  | .channelAnswer => none
  | .messageArrive => none
  | .creditReturn => none
  | .bindQueryArrive => none
  | .tileTransferData => none
  | .deadlockProbeStart => none
  | .deadlockProbe => none
  | .launchRequestArrive => none
  | .launchAnswer => none
  | .launchRelease => none
  | .launchWake => none
  | .launchCounterDecrement => none
  | .cancelArrive => none
  | .combineContributionArrive => none
  | .combineSequence => none
  | .combineResultArrive => none
  | .combineCreditArrive => none
  | .dispatchClaimArrive => none
  | .dispatchClaimAnswer => none
  | .dispatchRowArrive => none
  | .copyAccept => none
  | .copyUnitSend => none
  | .copyUnitRead => none
  | .copyUnitWrite => none
  | .copyUnitAck => none
  | .galleyWrite => none
  | .draftSettled => none
  | .galleyPrepare => none
  | .galleyPrepareAnswer => none
  | .galleyPublish => none
  | .galleyPublishAck => none
  | .galleyDiscard => none
  | .galleyDiscardAck => none
  | .memcoreOpAccept => none
  | .hloadLineArrive => none
  | .hstoreLineDone => none
  | .memcoreOpComplete => none
  | .ringClaimArrive => none
  | .ringClaimGrant => none
  | .ringClaimAnswer => none
  | .ringPushData => none
  | .forwardCreditGrant => none
  | .forwardSend => none
  | .forwardDataArrive => none
  | .forwardAck => none
  | .forwardFailure => none
  | .amoAtHome => none
  | .nexttAtHome => none
  | .amoReply => none
  | .remoteAccessArrive => none
  | .remoteLoadReply => none
  | .storeAck => none
  | .hostWritebackDone => none
  | .lapseReject => none
  | .walkComplete => none
  | .walkRestart => none
  | .translationExpiry => none
  | .leaseRenewal => none
  | .leaseTick => none
  | .leaseResync => none
  | .watchNotify => none
  | .watchPoll => none
  | .faultRecordSend => none
  | .faultRecordRetry => none
  | .wakeRetry => none
  | .wakeKill => none
  | .wakeAbandon => none
  | .coreSave => none
  | .coreRestore => none
  | .coreWatchdog => none
  | .linkWatchdog => none
  | .fenceSalvage => none
  | .eccCorrectable => none
  | .eccUncorrectable => none
  | .dbgHalt => none
  | .dbgResume => none
  | .dbgStep => none
  | .dbgaccRead => none
  | .dbgaccWrite => none
  | .traceDrain => none
  | .traceRingWrite => none
  | .traceRdptrPoll => none
  | .captureStartPacket => none
  | .captureIntervalEnd => none
  | .captureStopPacket => none
  | .bridgeFlitRetry => none
  | .bridgePause => none
  | .bridgePaused => none
  | .bridgeRepair => none
  | .bridgeRetrain => none
  | .bridgeResume => none
  | .bridgeModoff => none
  | .bridgeServiceDone => none
  | .scaleupLinkFlit => none
  | .scaleupRetryRequest => none
  | .e2eAck => none
  | .e2eNak => none
  | .e2eAckTimer => none
  | .e2eResendTimeout => none
  | .reductionResult => none
  | .lendRequest => none
  | .aperture3Refusal => none
  | .scaleoutPacket => none
  | .scaleoutTimeout => none
  | .hostMemAccess => none
  | .cxlSnoop => none
  | .commandRingFetch => none
  | .cmdLaunch => none
  | .cmdRetire => none
  | .cmdCancel => none
  | .cmdJcancel => none
  | .cmdPsave => none
  | .cmdPresume => none
  | .cmdEvq => none
  | .cmdSummary => none
  | .cmdNop => none
  | .rdescEnable => none
  | .eventRecordWrite => none
  | .evqRdptrPoll => none
  | .lendEntryWrite => none
  | .lendDrainDone => none
  | .registerWrite => none
  | .rawDiscover => none
  | .rawReport => none
  | .rawImage => none
  | .rawStart => none
  | .rawData => none
  | .powerInputValid => none
  | .powerStep => none
  | .bootProgramStart => none
  | .leaveBootMode => none
  | .thermalHigh => none
  | .thermalShutdown => none
  | .attestationRequest => none
  | .thermalNormal => none
  | .creditRequestWithdrawn => none

/-- The bytes of an instruction in memory order, empty for an event (R36). -/
def encode (i : Instr) : List Byte :=
  match encodeWord i with
  | some (n, w) => leBytes w (n / 8)
  | none => []

end Sys2Proof
end

