-- ==== Sys2Proof/Machine/Mesh.lean ====
section
/-! DEFINITION. Sys2Proof/Machine/Mesh.lean: what a packet of the mesh, of a bridge or of a scale-up
flow carries (R396, R202, R209, R227, R242, R323, R359). The flit format is not architectural; these are the
contents that the rules name. -/

namespace Sys2Proof.Machine

/-- Who waits for an answer: the agent (see `State.cores`) and the process (`Proc.uid`). -/
structure Who where
  core : Nat
  uid  : Nat
  deriving DecidableEq, Repr

/-- How a process ended, as its launch agent is told (R230, R231, R250, R365). -/
structure EndReport where
  /-- 0 ended by QUIT, 1 FAULT, 2 cancelled, 3 lost, 4 child done (with its OUTCOME in `cause`), 5 placement done,
  6 discarded draft, 7 requeued draft, 8 a process that was counted and not accepted (R183), 9 a process that will run again
  (R376), 10 a process that could not be read on a fenced core (R390). -/
  kind     : Nat
  index    : Nat := 0
  vcore    : Nat := 0
  tcause   : Nat := 0
  tpc      : Word := 0
  tval     : Word := 0
  drops    : Nat := 0
  reroutes : Nat := 0
  spills   : Nat := 0
  /-- Draft accounting (R365): committed, cause code of a discard, GUSED. -/
  commit   : Bool := false
  cause    : Nat := 0
  gused    : Nat := 0
  /-- The process ran on another package than its launch's record (R188, R233). -/
  far      : Bool := false
  deriving DecidableEq, Repr

/-- A request that is performed at a home memory core (R290, R310): the physical address, the aperture and peer
of its leaf, the expiry it carries, the context and virtual address it stands for, and the SELF of its issuer, for a record of
its refusal or error (R314, R464); a request that draws no such record carries none. -/
structure HomeReq where
  pa   : Nat
  ap   : Nat
  peer : Nat
  exp  : Nat
  ctx  : Nat
  va   : Word
  self : Option Word
  deriving DecidableEq, Repr

/-- The two ways one side of a copy or a ring push is named: the issuing core and the object's number there. -/
structure Job where
  core : Nat
  id   : Nat
  deriving DecidableEq, Repr

/-- The tag of messages, requests and probes beside the sender's context (R220): its x7 index and the port's sequence number. -/
structure ChanTag where
  index : Nat
  seq   : Nat
  deriving DecidableEq, Repr

/-- Where a unit of a copy is read or written (R323, R324): bytes of an agent's scratchpad, global memory at its home, or a
claimed ring slot (see `ringPlace`) from a byte up. -/
inductive Spot where
  | spad (agent off : Nat)
  | mem (r : HomeReq)
  | slot (place off : Nat)
  deriving DecidableEq, Repr

/-- The contents of one packet. -/
inductive Body where
  /-- A spawn record on its way (R183): header, arguments, index, context, priority, the launch and its
  ancestors, issuer privileged. -/
  | spawnReq (hdr : Word) (args : List Word) (index ctx prio : Nat) (line : List Nat) (priv : Bool) (who : Who)
  | spawnAns (who : Who) (status : Nat)
  /-- A credit request (R202): receiving port's handle, sender's handle, TYPE, TLEN, word 0 of the message (0 when the
  network interface asks on its own account), the sender's SELF and its tag. -/
  | creditReq (target sender : Word) (type tlen : Nat) (data self : Word) (tag : ChanTag)
  | withdraw (target sender : Word)
  /-- An answer to a sending port (R203): the sender's handle, 0 grant, 1 failed request, 2 bind answer,
  3 acknowledgement of a message, 4 final acknowledgement of a tile, 6 a credit returned; the status; the destination
  offset of a granted tile; the peer's MODE, or, with a status, whether a dead letter is due; word 0 and SELF for the
  dead letter. -/
  | chanAns (sender target : Word) (kind status off : Nat) (mode : Bool) (data self : Word)
  | creditRet (target sender : Word) (n : Nat)
  | bindQuery (target sender : Word) (type tlen : Nat) (self : Word) (tag : ChanTag)
  /-- A message with its tag. -/
  | chanMsg (target sender : Word) (type : Nat) (words : List Word) (self : Word) (tag : ChanTag)
  /-- 64 bytes of a tile transfer at an offset of the receiver's scratchpad (R211). -/
  | tileData (target sender : Word) (off : Nat) (data : List Byte) (last : Bool) (self : Word)
      (tag : ChanTag)
  | probe (origin : Word) (path : List Word) (at_ : Word) (tag : ChanTag)
  /-- A launch request (R227): e0 to e7, context, the parent and its ancestors, issuer. -/
  | launchReq (e : List Word) (ctx : Nat) (line : List Nat) (priv : Bool) (graph : Option Nat) (who : Who)
  | launchAns (who : Who) (status : Nat) (id : Nat)
  /-- A question about a launch, graph or job of another package, and its answer: a status and, with OK, word 0 of its completion.
  Mode 0 asks for an LWAIT, and the answer comes once it is DONE (R233); 1 cancels it (R234); 2 asks only, when an ALT is decoded,
  whether it is stale, and the answer has 2^48 added to the identifier (R216); 3 asks for an LDEP, and one that is not DONE answers
  REFUSED (R235); 4 asks for an ALT guard, whatever its context, and the answer comes once it is DONE (R216). -/
  | launchAsk (id ctx mode : Nat) (who : Who)
  | launchTold (who : Who) (id : Nat) (status : Nat) (word : Word)
  /-- A launch (0), a graph (1) or a process (2) of another package is to be counted by the launch that it belongs to, and the answer
  (R227, R230, R236); `child` is the record that waits. -/
  | launchJoin (id kind child : Nat) (who : Who)
  | launchJoined (kind child status : Nat) (who : Who)
  /-- A launch has become DONE, so its children on other packages are freed (R232). -/
  | launchDone (id : Nat)
  | wakeLaunch (id : Nat) (j : Nat)
  | ended (id : Nat) (r : EndReport)
  | cancel (id : Nat)
  /-- Combine traffic (R242): entry, port of arrival at the receiver, sequence, words. -/
  | combine (g dir seq : Nat) (words : List Word)
  | combineRes (g seq : Nat) (words : List Word) (status : Nat)
  | combineCred (g dir : Nat)
  | claimRow (target sender : Word) (who : Who)
  | claimAns (who : Who) (kind slot free : Nat)
  | row (target sender : Word) (slot : Nat) (data : List Byte) (who : Who)
  /-- A copy unit (R323): to the source's holder with the copy's place in the order of acceptances, its process and a
draft's tag; to the destination's holder; back to the engine. -/
  | copyRead (job : Job) (off len order : Nat) (src dst : Spot) (uid : Nat) (tag : Option (Nat × Nat))
  | copyWrite (job : Job) (off : Nat) (data : List Byte) (dst : Spot)
  | copyAck (job : Job) (off len : Nat) (status : Nat)
  /-- A copy asks an agent of another package for its destination granules (R321): each with the number of bytes that the copy writes in
  it; and tells that agent that bytes of them will not be written, or that it lets go of all (R326, R328). -/
  | copyTake (job : Job) (gs : List (Nat × Nat))
  | copyGive (job : Job) (gs : List (Nat × Nat)) (all : Bool)
  /-- A draft's write to a galley (R350): tag (launch, index), bytes, and what waits for its acknowledgement:
  0 SACK (then `off` is the mark of the store), 1 copy unit, 2 HSTORE line. -/
  | galley (req : HomeReq) (tag : Nat × Nat) (data : List Byte) (who : Who) (kind : Nat) (job : Job) (off : Nat)
  | galleyPrep (tag : Nat × Nat) (who : Who)
  | galleyPrepAns (who : Who) (ok : Bool)
  | galleyPub (tag : Nat × Nat) (who : Who) (commit : Bool)
  | galleyPubAck (who : Who)
  | galleyDrop (tag : Nat × Nat) (who : Who)
  | galleyDropAck (who : Who)
  /-- A claim of a ring slot by an external producer (R275, R324): ring word, context, length, producer class. -/
  | ringClaim (ring : Word) (ctx len cls : Nat) (third : Bool) (job : Job) (memop : Bool)
  /-- A granted claim names a place (see `ringPlace`). -/
  | ringAns (job : Job) (memop : Bool) (status place : Nat)
  | ringData (place off : Nat) (data : List Byte) (last : Bool) (job : Job) (memop : Bool)
  /-- A forwarded slot (R179): the source's core and ring name, and the place granted. -/
  | fwdData (src : Job) (place : Nat) (data : List Byte)
  | fwdAck (src : Job)
  /-- An AMO, CAS or store at its home (R310): OP, 8-byte width, operands, draft tag for loads. In a posted store `c` marks its place
  in program order, and its acknowledgement brings the mark back (R312, R372). -/
  | amo (req : HomeReq) (op : Nat) (wide : Bool) (v c : Word) (who : Who) (posted : Bool) (tag : Option (Nat × Nat))
  | amoAns (who : Who) (old : Word)
  /-- An agent's own read of `n` bytes of a peer package, and its answer; `who.uid` names the read (R425). -/
  | farRead (req : HomeReq) (n : Nat) (who : Who)
  | farAns (who : Who) (data : List Byte)
  | nextt (req : HomeReq) (step tag : Nat) (who : Who)
  | nexttAns (who : Who) (status : Nat) (v : Word)
  /-- A remote scratchpad access (R266): offset, size, store data (none for a load) with its byte mask, issuer's class
  (its bit of PEERMASK, R265) and SELF. A load with a mask is the check of a copy's operand (R320): bit 1 asks for THIRD too. -/
  | access (ea : Word) (off size : Nat) (data : Option (List Byte)) (mask : Nat) (cls : Nat) (self : Word) (who : Who)
  /-- The data, or the status of a refusal (R266). -/
  | loadAns (who : Who) (data : Option (List Byte)) (status : Nat)
  /-- An acknowledgement of a posted write (R301): 0, or the status of its refusal; the mark of a store to global memory, or the
  value of a refused one; the issuer's SELF. -/
  | storeAck (who : Who) (refused : Nat) (ea : Word) (data : Word) (hostp : Bool) (self : Word)
  | watchNote (who : Who) (va : Word)
  | wake (rec : List Word)
  /-- A start-capture packet with IDX0, INTLEN and NINT, or a stop packet (R407). -/
  | capture (start : Bool) (idx len count : Nat)
  /-- A contribution of this package to switch reduction `rid`, on its way to the I/O die (R428, R429). -/
  | contribution (rid member seq : Nat) (words : List Word)
  /-- An access of the host to device memory (R433): the address, the bytes read, or the bytes written. -/
  | hostAccess (a n : Nat) (data : Option (List Byte))
  /-- One record of a core on the trace network (R404). -/
  | trace (rec : List Word)
  /-- A raw flit (R452): header, payload, and the process that sent a DATA flit. -/
  | raw (hdr : Word) (payload : VReg) (who : Who)
  | rawAns (who : Who) (status : Nat)
  /-- A refusal of a request through APERTURE 3 (R464), with the value that the request carried: 0 of a request whose slot waits,
  1 of a posted store with its mark, 2 of a NEXTT, 3 of an agent's own read. -/
  | refusal (who : Who) (status : Nat) (req : HomeReq) (data : Word) (kind mark : Nat)
  deriving DecidableEq, Repr

/-- A scale-up flow (R424): sending and receiving package and I/O die, virtual channel and class. -/
structure Flow where
  srcPkg : Nat
  srcIo  : Nat
  dstPkg : Nat
  dstIo  : Nat
  vc     : Nat
  cls    : Nat
  deriving DecidableEq, Repr

/-- The same connection seen from the other end, as its acks name it (R424). -/
def Flow.back (f : Flow) : Flow := { f with srcPkg := f.dstPkg, srcIo := f.dstIo, dstPkg := f.srcPkg, dstIo := f.srcIo }

/-- A packet in flight: sending and receiving agents, virtual channel (0 class C of CTRL, 1 REQ, 2 RSP, 3 MSG,
4 class S of CTRL, R396), the cycle it entered, its contents, and the flow that brought it from another package. -/
structure Packet where
  src   : Nat
  dst   : Nat
  vc    : Nat
  since : Nat
  fired : Bool := false
  body  : Body
  via   : Option Flow := none
  deriving DecidableEq, Repr

/-- What a packet of the scale-up fabric carries, by TYPE (R424, R429): 0 data, 1 an end-to-end ack, 2 a nak, 3 a contribution to a
reduction, 4 its result with a status and the contributor mask. -/
inductive FlowBody where
  | data (p : Packet)
  | ack
  | nak
  | contribution (member seq : Nat) (words : List Word)
  | result (seq : Nat) (words : List Word) (status : Nat) (mask : List Byte)
  deriving DecidableEq, Repr

def FlowBody.type : FlowBody → Nat
  | .data _ => 0
  | .ack => 1
  | .nak => 2
  | .contribution .. => 3
  | .result .. => 4

/-- A packet of the scale-up fabric (R424): its flow, FSEQ, RID, LEN in slots, and contents. -/
structure FlowPkt where
  flow : Flow
  fseq : Nat
  rid  : Nat
  len  : Nat
  body : FlowBody
  deriving DecidableEq, Repr

/-- The routing header in the first 16 bytes of a packet's first slot (R424). -/
def FlowPkt.header (x : FlowPkt) : BitVec 128 :=
  BitVec.ofNat 128 ((if x.flow.vc == 0 then x.flow.cls % 2 else 0) * 2 ^ 76 + x.rid % 2 ^ 16 * 2 ^ 60 + x.body.type * 2 ^ 56
    + x.len % 256 * 2 ^ 48 + x.fseq % 2 ^ 24 * 2 ^ 24 + x.flow.vc % 4 * 2 ^ 22 + x.flow.srcIo % 2 * 2 ^ 21 + x.flow.dstIo % 2 * 2 ^ 20
    + x.flow.srcPkg % 1024 * 2 ^ 10 + x.flow.dstPkg % 1024)

/-- A slot of a link flit that holds a flit (R423): its virtual channel, and the packet that begins there. The further slots of a
packet follow on its virtual channel. -/
structure LinkSlot where
  vc    : Nat
  first : Option FlowPkt
  deriving DecidableEq, Repr

/-- A link flit (R423): SEQ, ACK, credit returns, KIND (0 data, 1 idle, 2 retry request) and its valid slots, slot 0 first. -/
structure LinkFlit where
  seq     : Nat
  ack     : Nat
  credits : Vector Nat 4
  kind    : Nat
  slots   : List LinkSlot
  deriving DecidableEq, Repr

/-- The 64 bytes of a slot: a packet's first slot begins with its routing header; the rest is not stated (log entry 59). -/
def LinkSlot.image (x : LinkSlot) (i : Nat) : BitVec 512 :=
  match x.first with
  | some p => (Config.slotImage p.fseq i &&& ~~~(BitVec.ofNat 512 (2 ^ 128 - 1))) ||| p.header.zeroExtend 512
  | none => Config.slotImage x.vc i

/-- Header bits [95:0] of a link flit (R423). -/
def LinkFlit.low (x : LinkFlit) : BitVec 96 :=
  let sum := fun (l : List Nat) => l.foldl (· + ·) 0
  BitVec.ofNat 96 (x.seq % 4096 * 2 ^ 84 + x.ack % 4096 * 2 ^ 72
    + sum ((x.credits.toList.zip (List.range 4)).map fun e => e.1 % 64 * 2 ^ (48 + 6 * e.2))
    + sum ((List.range (min 4 x.slots.length)).map fun i => 2 ^ (44 + i))
    + sum ((x.slots.zip (List.range 4)).map fun e => e.1.vc % 4 * 2 ^ (36 + 2 * e.2)) + x.kind % 4 * 2 ^ 34)

/-- The 16-byte header of a link flit (R423). -/
def LinkFlit.header (x : LinkFlit) : BitVec 128 :=
  Config.linkCrc x.low ((x.slots.zip (List.range 4)).map fun e => e.1.image e.2) ++ x.low

/-- A packet of the course transport (R431): VERSION, TYPE, congestion echo, source and destination package, virtual channel,
sequence numbers, NFLITS, domains, the mesh packets that a data packet carries, and the peer's IP address and UDP port. -/
structure OutPkt where
  version : Nat := 1
  src    : Nat
  dst    : Nat
  vc     : Nat
  type   : Nat
  ece    : Bool
  psn    : Nat
  ackpsn : Nat
  nflits : Nat
  srcDom : Nat
  dstDom : Nat
  pkts   : List Packet
  ip     : BitVec 128 := 0
  udp    : Nat := 0
  deriving DecidableEq, Repr

/-- The 32-byte header of a UDP payload (R431). -/
def OutPkt.header (x : OutPkt) : List Word :=
  [BitVec.ofNat 64 (x.version % 16 * 2 ^ 60 + x.type % 16 * 2 ^ 56 + x.ece.toNat * 2 ^ 48 + x.src % 1024 * 2 ^ 38
      + x.dst % 1024 * 2 ^ 28 + x.vc % 4 * 2 ^ 26),
    BitVec.ofNat 64 (x.psn % 2 ^ 32 * 2 ^ 32 + x.ackpsn % 2 ^ 32), BitVec.ofNat 64 (x.nflits % 2 ^ 16 * 2 ^ 48),
    BitVec.ofNat 64 (x.srcDom % 2 ^ 32 * 2 ^ 32 + x.dstDom % 2 ^ 32)]

end Sys2Proof.Machine
end

