-- ==== Sys2Proof/Machine/State.lean ====
section
/-! DEFINITION. Sys2Proof/Machine/State.lean: the state of one Vaxia package as plain data: every register, table,
queue and memory that the spec names, the packets in flight, and the model's own bookkeeping (marked so). -/

namespace Sys2Proof.Machine

/-- Why a step stops with a fault. -/
inductive Fault where
  /-- A walker, the host, a lender or a control block names a physical address of aperture 0 outside the HBM (R268).
  Safe: the spec gives such an address no byte. -/
  | noSuchPhysical (pa : Nat)
  deriving DecidableEq, Repr

/-- Why a step is refused. -/
inductive Refusal where
  /-- An instruction without a meaning, raised by `exec` alone. Safe. -/
  | notModelled (mnemonic : String)
  deriving DecidableEq, Repr

/-- A map from numbers in rising order, for tables that are mostly empty. -/
abbrev KMap (α : Type) := List (Nat × α)

/-- A memory: the listed bytes in rising address order, none of them zero (see `Machine/Mem.lean`); an unlisted
address reads as zero. -/
abbrev Mem := List Host.Cell

/-- The trap a body of an instruction raises (R30, R32). -/
structure Trap where
  cause : Nat
  value : Word
  deriving DecidableEq, Repr

/-- States of a slot (R185). -/
inductive SlotState where
  | empty | starting | runnable | blocked | suspended | halted | parking
  deriving DecidableEq, Repr

/-- What a blocked slot waits for, with what the wait needs. -/
inductive WaitKind where
  /-- The scalar divider's grant, and its result (R88). -/
  | divQueue
  | divRun (till : Nat)
  | iflush (till : Nat)
  /-- A wait-table entry (R119), and polling without one (R121). -/
  | granule
  | poll (next : Nat)
  /-- The vector divider (0) or the sort network (1): waiting, and executing with the cycle of the result (R147). -/
  | vecQueue (unit : Nat)
  | vecRun (till : Nat)
  /-- Acceptance into the tile queue, and the accepted instruction (R162). -/
  | tileWait
  | tileRun
  /-- A release wait, at system scope or narrower (R302). -/
  | release (sys : Bool)
  /-- A walk (R285), or a wake after its fault: virtual address, need, and source code of R369. -/
  | walk (va : Word) (need : Nat) (source : Nat)
  /-- A local access to a remote core (R122), and a full store count (R301). -/
  | remoteLoad
  | sackFull
  /-- Room in the replay queue, or the draining of a page (R312). -/
  | replayRoom
  | replayPage (page : Nat)
  /-- An AMO.store.rel that has been sent, until its home acknowledges it (R292). -/
  | storeAck
  | amoReply
  | nexttReply
  /-- A fetch of a code unit of a peer package (R464): the tag and address under which it is kept, and whether the core has
  executed no IFLUSH since it was asked for (R111). -/
  | fetchFar (tag pa : Nat) (fresh : Bool)
  /-- A fetch that waits at its home (R359, R421): aperture and address. -/
  | fetchLine (ap pa : Nat)
  | ring
  /-- Channel waits by process port (R209, R210, R211, R204). -/
  | credit (port : Nat)
  | sendAck (port : Nat)
  | recv (port : Nat)
  | bind (port : Nat)
  | tileSend (port : Nat) (off : Nat)
  | tileRecv (port : Nat)
  /-- A granted transfer, and whether its data has entered the mesh (R196). -/
  | tileData (port : Nat) (begun : Bool)
  | alt
  /-- The question to another package whether the launch of a guard is stale (R216): the guard's e-register. -/
  | altAsk (reg : Nat)
  | spawnAns
  | launchAns
  | lwait (id : Nat)
  | gsend (g : Nat)
  | grecv (g : Nat)
  /-- A dispatch claim (R248): destination, 0 first claim, 1 rerouted, and the row or spill on its way. -/
  | claim (dest : Nat) (second : Bool)
  | row (dest : Nat) (second : Bool)
  | spill
  | memop
  | hdrain
  | copyQueue
  | copyOwn
  | tbarr
  | preempt
  | presume
  | lrecv
  | lsendAck
  | settle
  | stage
  deriving DecidableEq, Repr

/-- The instruction that a slot waits in, and what it waits for. -/
structure Waiting where
  instr : Instr
  kind  : WaitKind
  deriving DecidableEq, Repr

/-- A spawn record (R181) with its header copy (R25; none when it could not be read) and, for a proofed launch, the
exact header's address, TOL and GLIM (R343, R345). -/
structure Record where
  hdr      : Word
  args     : Vector Word 4
  exact    : Bool
  index    : BitVec 32
  ctx      : BitVec 12
  prio     : BitVec 2
  launch   : Option Nat
  since    : Nat
  header   : Option (Vector Word 8)
  exactHdr : Option Word
  tol      : Word
  glim     : Nat
  /-- The record of a requeued draft that keeps its re-run entry (R363). -/
  reserved : Bool
  /-- The ancestors of its launch, the parent first (R225, R233). -/
  above    : List Nat := []
  deriving DecidableEq, Repr

/-- States of a draft's galley (R357). -/
inductive GalleyState where
  | opened | settling | preparing | publishing | discarding
  deriving DecidableEq, Repr

/-- A draft's verdict and galley bookkeeping (R346, R357). -/
structure Draft where
  failed : Bool
  quota  : Bool
  stfull : Bool
  nproof : Nat
  gused  : Nat
  state  : GalleyState
  /-- Cause code of R358, 0 when none, and how a draft ends: 0 by resolution, 1 cancelled,
  2 requeued, 3 lost. -/
  cause  : Nat
  fate   : Nat
  homes  : List Nat
  acks   : Nat
  lapse  : Bool
  tcause : Nat
  tpc    : Word
  tval   : Word
  deriving DecidableEq, Repr

/-- A store in the replay queue (R312). -/
structure QStore where
  va     : Word
  data   : Word
  wide   : Bool
  cookie : Half
  /-- A RETRY has come for it (R372). -/
  go     : Bool
  /-- The address of its instruction (R367), and the cycle in which it was issued: its place in program order. -/
  pc     : Word
  born   : Nat
  deriving DecidableEq, Repr

/-- A capture set bound to a process (R409). -/
structure Capture where
  ev    : Vector (BitVec 8) 4
  cnt   : Vector Word 4
  /-- The events counted in cycle `pendAt`, which CAPSTOP leaves out when it issues in that cycle. -/
  pend  : Vector Word 4
  pendAt : Nat
  nsusp : Nat
  /-- The cycle of its CAPSTART. -/
  start : Nat
  deriving DecidableEq, Repr

/-- An answer that a wait has already received and that the reissued instruction returns, with the row of a DSEND as it was
read at issue (R248). -/
structure Answer where
  status : Nat
  value  : Word
  row    : List Byte := []
  deriving DecidableEq, Repr

/-- A process (R10, R15, R28): its registers, its identity and resources, and what it waits for. -/
structure Proc where
  x       : Vector Word 32
  v       : Vector VReg 32
  p       : Vector Half 8
  e       : Vector Word 8
  z       : Vector Word 4
  pc      : Word
  fstat   : Word
  rseed   : Half
  tpc     : Word
  tcause  : Word
  tval    : Word
  /-- TSTAT.INH (R19). -/
  inh     : Bool
  retired : Word
  /-- The model's own name for this process: no two processes of a run share one. -/
  uid     : Nat
  gen     : BitVec 8
  vcore   : BitVec 13
  prio    : BitVec 2
  cmt     : Bool
  /-- The record it started from (R376), whose header copy bounds it (R27). -/
  record  : Record
  header  : Vector Word 8
  hdrAddr : Word
  /-- x7 at process start (R28, R110). -/
  index   : Word
  wbase   : Nat
  wsize   : Nat
  share   : Bool
  /-- Core port of each process port (R199), ring-table descriptor of each ring (R149). -/
  ports   : List Nat
  rings   : List Nat
  wait    : Option Waiting
  answer  : Option Answer
  /-- The deadline of an ALT time-out (R195, R216). -/
  altEnd  : Option Nat
  /-- ALT guards, by their e-registers: kind 4 refused through APERTURE 3 (R464), and kinds 4 and 6 of which another package
  has reported that they are ready. -/
  altDead : List Nat
  altDone : List Nat
  /-- The kind 6 guards whose launch another package has said not to be stale, when the ALT was decoded (R216). -/
  altKnown : List Nat
  tbPhase : Option (Nat × Half)
  sack    : Nat
  hostp   : Nat
  replay  : List QStore
  /-- Replayed stores that have not been acknowledged: mark and page (R372). -/
  drain   : List (Nat × Nat)
  hfail   : Nat
  hstatus : Nat
  hop     : Nat
  cfail   : Nat
  cstatus : Nat
  draft   : Option Draft
  /-- Number of the current or last firing of a stage (R198). -/
  firing  : Nat
  capture : Option Capture
  /-- The exemption of R398, and the addresses of the instructions that hit a comparator and have not been continued at. -/
  bpSkip  : Bool
  bpHit   : List Word
  /-- The process is to end at its next instruction boundary: 1 cancelled, 2 killed, 3 by an uncorrectable error (R234, R371, R395). -/
  dying   : Nat
  diePc   : Word
  dieVa   : Word
  /-- A context save is waiting for its boundary (R375). -/
  saving  : Bool
  deriving DecidableEq, Repr

/-- A hardware thread slot (R185, R187). -/
structure Slot where
  state  : SlotState
  proc   : Option Proc
  ready  : Nat
  /-- The earliest cycle of its next issue: its last issue plus 4 (R187). -/
  spaced : Nat
  /-- End of a YIELD's 16 cycles (R191). -/
  yielding : Option Nat
  /-- SINCE of R186, in cycles of the whole machine. -/
  since  : Nat
  /-- End of window clearing, parking or restoring (R24, R195). -/
  busy   : Nat
  /-- While PARKING: the context is being restored, not saved (R195); SUSPENDED rather than BLOCKED when its saving began. -/
  back   : Bool
  susp   : Bool
  deriving DecidableEq, Repr

/-- A park record (R195). -/
structure Parked where
  proc  : Proc
  since : Nat
  /-- SUSPENDED rather than BLOCKED when it was parked. -/
  susp  : Bool
  ready : Bool
  deriving DecidableEq, Repr

/-- What a waiting access of the scratchpad will do (R113 to R116), with its operands as they were at issue: a scalar load with its
extension; a vector load, as local offsets each with the byte of the register that it fills; a store, as offsets with their bytes;
and the operations on the entry's granule. -/
inductive Access where
  | loadX (r : BitVec 5) (u : BitVec 1) (sx : BitVec 2) (off : Nat)
  | loadV (r : BitVec 5) (bytes : List (Nat × Nat))
  | store (bytes : List (Nat × Byte))
  | ldf (r : BitVec 5) (nowait clr : Bool)
  | stf (data : Word) (nowait : Bool)
  | sete
  | setf
  deriving DecidableEq, Repr

/-- An entry of the granule wait table (R119): its place in the table, and what is performed when it is served; an entry without an
access is served by issuing its instruction again. -/
structure WaitEntry where
  kind    : Nat
  clr     : Bool
  uid     : Nat
  granule : Nat
  since   : Nat
  place   : Nat
  access  : Option Access
  deriving DecidableEq, Repr

/-- A ring descriptor (R150): V is 1 in every descriptor of the table, SLOT is the slot of `owner`. -/
structure Ring where
  owner  : Nat
  ring   : Nat
  defd   : Bool
  ext    : Bool
  sink   : Nat
  dir    : Nat
  ferr   : Bool
  tag    : Nat
  base   : Nat
  ssize  : Nat
  count  : Nat
  head   : Nat
  tail   : Nat
  fhead  : Nat
  filled : Nat
  claimed : Nat
  unfwd  : Nat
  busy   : Nat
  /-- The claimed slots oldest first, each with its data complete or not (R151). -/
  claims : List (Nat × Bool)
  /-- A forwarding credit held: the place granted (see `ringPlace`) and whether the copy has been sent (R179). -/
  credit : Option (Nat × Bool)
  /-- The owner of this ring's sink has ended while slots waited for it (R180). -/
  lost   : Bool
  /-- Waiting claims of external producers in arrival order: length, producer, and whether it is an HPUSH (R275). -/
  queue  : List (Nat × Job × Bool)
  deriving DecidableEq, Repr

/-- A message held at a port (R202). -/
structure Msg where
  sender : Word
  words  : List Word
  self   : Word
  deriving DecidableEq, Repr

/-- A queued credit request (R202). -/
structure Req where
  sender : Word
  data   : Word
  self   : Word
  deriving DecidableEq, Repr

/-- A dispatch sender or sink (R245). -/
structure Dispatch where
  sink     : Bool
  policy   : Nat
  dests    : List Word
  spbase   : Word
  scap     : Nat
  sent     : List Nat
  free     : List Nat
  reroutes : Nat
  drops    : Nat
  spills   : Nat
  cap      : Nat
  base     : Nat
  granted  : Nat
  passed   : Nat
  written  : List Nat
  deriving DecidableEq, Repr

/-- A core port (R199 to R201). -/
structure Port where
  owner   : Nat
  state   : Nat
  type    : Nat
  buffered : Bool
  depth   : Nat
  tlen    : Nat
  peer    : Word
  peerBuf : Bool
  prev    : Nat
  credits : Nat
  tileOff : Option Nat
  /-- Buffers granted as credits and not yet filled, by holder (R202). -/
  owed    : List Word
  held    : List Msg
  queue   : List Req
  /-- A request for a credit of this port is on its way or queued at its peer. -/
  asked   : Bool
  /-- A request that the network interface made on its own account has failed (R198, R215). -/
  refused : Bool
  seq     : Nat
  disp    : Option Dispatch
  deriving DecidableEq, Repr

/-- A translation held in a TLB (R287): context, page, its size level, leaf, DREC and expiry. -/
structure Tlb where
  ctx   : Nat
  va    : Nat
  level : Nat
  leaf  : Word
  drec  : Bool
  exp   : BitVec 48
  deriving DecidableEq, Repr

/-- A walk of a cluster (R285, R287): the agent it was begun for, the context and the 64 KiB page, and, once a walker has taken it, the
clock sample and the cycle of its start. -/
structure Walk where
  core : Nat
  ctx  : Nat
  page : Nat
  run  : Option (BitVec 48 × Nat)
  deriving DecidableEq, Repr

/-- An outstanding fault of an agent (R369): its record, whom it concerns and how far its record has come:
0 to be sent, 1 held, 2 delivered. -/
structure Outstanding where
  cookie : Half
  uid    : Nat
  source : Nat
  obj    : Nat
  msg    : List Word
  stage  : Nat
  next   : Nat
  deriving DecidableEq, Repr

/-- A fix-up entry of a copy (R326). -/
structure Fixup where
  kind   : Nat
  off    : Nat
  len    : Nat
  cookie : Half
  go     : Bool
  deriving DecidableEq, Repr

/-- A copy descriptor, e0 to e5 as the copy was issued (R317). -/
abbrev Desc := Vector Word 6

/-- A copy in the engine's queue (R316, R317). -/
structure Copy where
  id      : Nat
  uid     : Nat
  ctx     : Nat
  self    : Word
  d       : Desc
  wbase   : Nat
  wsize   : Nat
  /-- Counter and target while armed (R330). -/
  armed   : Option (Nat × Half)
  running : Bool
  /-- Next byte offset in copy order, units in flight (offset and length), bytes settled. -/
  next    : Nat
  flight  : List (Nat × Nat)
  status  : Nat
  stopped : Bool
  /-- Offsets of the units in flight that have been written. -/
  wrote   : List Nat
  /-- The agent whose granules the copy owns (see `Core.taken`). -/
  dest    : Nat
  fixups  : List Fixup
  phase   : Half
  /-- Ring claim: 0 none needed, 1 to send, 2 sent, 3 granted, 4 failed, 5 filled; the slot granted. 6 is a copy that is not yet
  accepted: it has asked another package for its granules. -/
  claim   : Nat
  slot    : Nat
  tag     : Option (Nat × Nat)
  /-- Acceptance order, for reads of granules owned by others (R322). -/
  order   : Nat
  /-- The address of its instruction. -/
  pc      : Word
  /-- The class 0 translations that the copy walked last, one for each page (R294). -/
  once    : List Tlb
  deriving DecidableEq, Repr

/-- A transaction barrier (R332). -/
structure Barrier where
  phase  : Half
  bal    : Vector (BitVec 48) 2
  expa   : Vector (BitVec 12) 2
  arr    : Vector (BitVec 12) 2
  posted : Vector Bool 2
  orph   : Half
  owner  : Option (BitVec 12)
  deriving DecidableEq, Repr

/-- An instruction in the tile queue (R162, R163). -/
structure TileOp where
  uid    : Nat
  instr  : Instr
  z      : Vector Word 4
  /-- Claimed slot of the destination ring. -/
  slot   : Nat
  /-- Cycle in which it may start, and in which it completes once started. -/
  start  : Nat
  till   : Option Nat
  /-- Held for an activation (R461): the cycle of its request. -/
  held   : Option Nat
  deriving DecidableEq, Repr

/-- A memory-core operation (R272). -/
structure MemOp where
  id     : Nat
  uid    : Nat
  ctx    : Nat
  self   : Word
  /-- 0 HLOAD, 1 HSTORE, 2 HPUSH (R276). -/
  op     : Nat
  globl  : Word
  loc    : Nat
  len    : Nat
  ring   : Word
  /-- Line offsets still to do, and the status of the first failure. -/
  todo   : List Nat
  status : Nat
  /-- HPUSH: 0 claim to send, 1 sent, 2 granted, 3 streamed; the slot. -/
  stage  : Nat
  slot   : Nat
  wbase  : Nat
  wsize  : Nat
  cookie : Option Half
  tag    : Option (Nat × Nat)
  owned  : List Nat
  order  : Nat
  pc     : Word
  /-- The class 0 translations that the operation walked last, one for each page (R294). -/
  once   : List Tlb
  deriving DecidableEq, Repr

/-- A sequence of a combine group (R242). -/
structure Sequence where
  seq    : Nat
  /-- Local contributions: process and words, in order of arrival; child contributions by direction. -/
  loc    : List (Nat × Nat × List Word)
  kids   : List (Nat × List Word)
  sent   : Bool
  result : Option (List Word × Nat)
  taken  : List Nat
  deriving DecidableEq, Repr

/-- A combine table entry (R240). -/
structure Combine where
  valid : Bool
  ctx   : Nat
  base  : Nat
  /-- Word 1 of R240. -/
  word  : Word
  seqs  : List Sequence
  /-- Credits held from the parent. -/
  creds : Nat
  deriving DecidableEq, Repr

/-- A save of one context on one core (R377, R380, R384): the context and base, the requester, the processes with
their rings, and the rest. -/
structure Saved where
  ctx     : Nat
  base    : Nat
  procs   : List (Proc × Bool × List (Nat × Ring))
  /-- Granules of the saved windows that copies own (see `Core.taken`). -/
  taken   : List (Job × Nat × List Nat)
  /-- The same for copies of other packages (see `Core.foreign`); a granule that they have finished stands with 0 bytes. -/
  foreign : List (Job × Nat × KMap Nat)
  records : List Record
  ctrs    : List (Nat × Half)
  tbs     : List (Nat × Barrier)
  copies  : List Copy
  windows : List (Nat × List Byte × List Nat)
  deriving DecidableEq, Repr

/-- A save or restore under way on one core. -/
structure SaveJob where
  ctx    : Nat
  base   : Nat
  save   : Bool
  /-- The address of the core's part of the save area, and the context under which it is translated: none for the host, whose
  address is physical (R384, R438). -/
  region : Nat
  octx   : Option Nat
  /-- Who waits for it: a process, or a command ring of the host interface unit. -/
  who    : Who
  deriving DecidableEq, Repr

/-- The capture of link counts by a router (R407). -/
structure LinkCapture where
  idx    : Nat
  len    : Nat
  count  : Nat
  done   : Nat
  start  : Nat
  deriving DecidableEq, Repr

/-- The scratchpad-owning agents: compute cores, memory cores and service cores (R21, R222, R263). -/
structure Core where
  slots    : Vector Slot 16
  last     : Nat
  /-- One more than the cycles of the last issue and of the last retirement; 0 for none yet. -/
  lastTick : Nat
  issued   : Nat
  genCtr   : BitVec 8
  spad     : Mem
  full     : List Nat
  queue    : List Record
  rerun    : List Record
  /-- Drafts that hold a reserved re-run entry (R345). -/
  reserved : List Nat
  parked   : List Parked
  rings    : KMap Ring
  /-- The granule wait table in age order, and its free places, the one free longest first (R119). -/
  waits    : List WaitEntry
  waitFree : List Nat
  ports    : KMap Port
  y        : Vector Word 8
  yOwner   : Vector (Option (BitVec 12)) 8
  yOld     : Vector (Word × Option (BitVec 12) × Nat) 8
  /-- Cycle of core reset: CYCLE is the time since (R20). -/
  resetAt  : Nat
  parkwait : Half
  wdcycles : Half
  dlwindow : Half
  wtovf    : Half
  /-- PARKWAIT, WDCYCLES and DLWINDOW before the write of the cycle `limitAt` − 1: they hold until that cycle ends (R108). -/
  limitOld : Half × Half × Half
  limitAt  : Nat
  /-- Divider and vector units: the process served, none when idle; waiting processes in issue order. -/
  divider  : Option Nat
  divq     : List Nat
  vdiv     : Option Nat
  vdivq    : List Nat
  sorter   : Option Nat
  sortq    : List Nat
  tileq    : List TileOp
  tilew    : List Nat
  /-- End of the last tile execution, the last wake, and whether the unit is active (R460). -/
  tileEnd  : Nat
  tileWake : Option Nat
  copies   : List Copy
  /-- Granules of this agent owned by accepted copies (R118, R321): the copy, its place in the order of acceptances, and those
  not yet filled. -/
  taken    : List (Job × Nat × List Nat)
  /-- Granules of this agent owned by copies of other packages (R118, R321): the copy, its place in the order of acceptances, and the
  bytes that it has still to write in each. -/
  foreign  : List (Job × Nat × KMap Nat)
  copyTurn : Nat
  copyAt   : Nat
  nextJob  : Nat
  ctr      : Vector Half 16
  ctrOwner : Vector (Option (BitVec 12)) 16
  tb       : Vector Barrier 8
  memops   : List MemOp
  /-- Code units fetched and possibly stale (R38): aperture and peer, physical address and value. -/
  icache   : List (Nat × Nat × Half)
  itlb     : List Tlb
  dtlb     : List Tlb
  /-- Results of walks of class 0, each for one request (R290): three times the process's `uid`, and 1 more for a fetch, 2 more for
  the halfword of a TRET.skip (R33). -/
  once     : List (Nat × Tlb)
  /-- The agent's own reads and writes of memory of peer packages: asked, and once answered the bytes, or none when refused (R425,
  R464). -/
  farReads : KMap (Option (Option (List Byte)))
  peermask : BitVec 16
  faults   : List Outstanding
  cookies  : Nat
  saved    : List Saved
  jobs     : List SaveJob
  dbgctl   : BitVec 14
  bpc      : Vector Word 4
  dbgdata  : Word
  /-- The slots that a STEP has let issue one instruction (R400). -/
  stepping : List Nat
  trcctl   : Word
  trace    : List (List Word)
  lossT    : Nat
  lossD    : Nat
  boot     : Bool
  bootMem  : Mem
  rawq     : List (Word × VReg)
  lwcycles : Half
  combine  : KMap Combine
  capture  : Option LinkCapture
  flits    : KMap Nat
  stalls   : KMap Nat
  eccCount : Nat
  lapses   : Nat
  walks    : Nat
  replays  : Nat
  bubbles  : Nat
  tileBusy : Nat
  wdCount  : Nat
  wdFired  : Bool
  /-- Deadlock probes (R218): contexts with the cycle of the last round, and cycles already reported, each with its origin, the
  beginning of the origin's wait and its path. -/
  probes   : KMap Nat
  reported : List (Word × Nat × List Word)
  deriving DecidableEq, Repr

/-- A record of a launch agent's pool (R225, R229, R231, R365). -/
structure LaunchRec where
  graph    : Bool
  /-- 1 PENDING, 2 WAKING, 3 RUNNING, 4 CANCELLING, 5 DONE (R229, R440). -/
  state    : Nat
  seq      : BitVec 23
  depth    : Nat
  ctx      : Nat
  /-- Its ancestors, the parent first (R225, R233). -/
  above    : List Nat
  member   : Option Nat
  opener   : Nat
  born     : Nat
  e        : Vector Word 8
  hdrPrio  : BitVec 2
  exactHdr : Option Word
  tol      : Word
  glim     : Nat
  held     : Bool
  closed   : Bool
  deps     : List Nat
  counter  : Nat
  cancelled : Bool
  outcome  : Nat
  nok      : Nat
  nfault   : Nat
  nlost    : Nat
  ncancel  : Nat
  first    : Option (Nat × Nat × Nat × Word × Word)
  reroutes : Nat
  drops    : Nat
  children : Nat
  spills   : Nat
  /-- NCOMMIT, NDISCARD, NRESID, NNOPROOF, NQUOTA, NSTFULL, NBARRED, NDFAULT, NLAPSE, NREQUEUE (R365). -/
  drafts   : Vector Nat 10
  gcommit  : Nat
  gdiscard : Nat
  fd       : Option (Nat × Nat)
  bad      : Bool
  /-- Another package holds, or has held, processes or children of it (R233, R234). -/
  far      : Bool
  /-- Allocated, while the launch agent of its parent on another package has not counted it yet (R227): who waits for the answer. -/
  joining  : Option Who
  /-- Processes and records on fenced cores that could not be read (R390). -/
  unread   : Nat
  deriving DecidableEq, Repr

/-- A restart record of a fenced vcore, and whether CMAPW has remapped the vcore, so that the record waits for an entry of its spawn
queue alone (R390, R392). -/
structure Restart where
  vcore : Nat
  item  : Record
  go    : Bool
  deriving DecidableEq, Repr

/-- A watch on a doubleword, or a monitor of the host interface unit (R295, R435): the watching process, the virtual address,
the aperture and physical address, the leaf and its expiry. -/
structure Watch where
  who  : Who
  va   : Word
  ap   : Nat
  pa   : Nat
  leaf : Word
  exp  : BitVec 48
  deriving DecidableEq, Repr

/-- A galley entry (R350): tag, 64-byte segment, bytes present with their values, expiry. -/
structure Galley where
  tag  : Nat × Nat
  seg  : Nat
  data : List (Nat × Byte)
  exp  : BitVec 48
  deriving DecidableEq, Repr

/-- What a home memory core holds for its lines (R269, R295, R350). -/
structure Home where
  galley  : List Galley
  locked  : List (Nat × (Nat × Nat))
  watches : List Watch
  /-- The 64-byte lines that the host may hold (R433). -/
  host    : List Nat
  deriving DecidableEq, Repr

/-- A compute die (R223, R224, R289, R405, R461). -/
structure Die where
  map      : KMap (BitVec 16)
  pool     : KMap LaunchRec
  seqs     : Nat
  clock    : BitVec 48
  skewed   : Bool
  restarts : List Restart
  /-- Fenced vcores whose salvage is under way (R390). -/
  salvages : List Nat
  /-- Generation counters read by salvage (R393). -/
  gens     : KMap (BitVec 8)
  trbase   : Nat
  /-- The trace unit (R405): ERR, the RDPTR last read, and the cycle from which it is read again. -/
  ringErr  : Bool
  ringRd   : Nat
  ringNext : Nat
  /-- Activations of the last 128 cycles and whether the die is hot (R461, R462). -/
  grants   : List Nat
  hot      : Bool
  powered  : Bool
  /-- The boot program has been started (R450). -/
  reported : Bool
  deriving DecidableEq, Repr

/-- A UCIe module of a bridge (R420). -/
structure Module where
  up     : Bool
  half   : Bool
  retry  : Nat
  bad    : Nat
  spares : Nat
  width  : Nat
  /-- Failures in a row of one flit's retries (R419). -/
  row    : Nat
  deriving DecidableEq, Repr

/-- A bridge (R420, R421): STATE, ERR, the module under service and its modules. -/
structure Bridge where
  state : Nat
  err   : Bool
  mod   : Nat
  mods  : Vector Module 10
  deriving DecidableEq, Repr

/-- A lend-table entry (R426). -/
structure Lend where
  w0    : Word
  w1    : Word
  /-- Admitted requests not yet performed. -/
  inUse : Nat
  deriving DecidableEq, Repr

/-- A scale-up flow's sending and receiving side (R424). -/
structure FlowState where
  flow    : Flow
  next    : Nat
  unacked : List FlowPkt
  waiting : List Packet
  resends : Nat
  lastAck : Nat
  expect  : Nat
  got     : List (Nat × Packet)
  /-- The receive buffer: at most 16 packets in order that the mesh has not yet taken; `got` holds those that wait for an earlier one
  or for room there. -/
  kept    : List Packet
  /-- The FSEQ last naked. -/
  naked   : Option Nat
  /-- Packets received in order since the last ack, and when an ack is due. -/
  owed    : Nat
  ackAt   : Option Nat
  deriving DecidableEq, Repr

/-- A scale-up port's link state (R423). -/
structure Link where
  seq    : Nat
  expect : Nat
  retries : Nat
  resends : Nat
  buffer : List (Nat × LinkFlit)
  /-- Slots sent and not yet returned as credits, and slots received whose credits are still to be returned, by virtual channel. -/
  used   : Vector Nat 4
  owed   : Vector Nat 4
  /-- A data flit has come since the last flit was sent, so that an ACK is due. -/
  due    : Bool
  /-- Packets with the slots that they have still to send, and by virtual channel packets with the slots still to come. -/
  waiting : List (FlowPkt × Nat)
  coming  : KMap (FlowPkt × Nat)
  deriving DecidableEq, Repr

/-- A scale-out direction (R432). -/
structure OutFlow where
  peer    : Nat
  vc      : Nat
  psn     : Nat
  expect  : Nat
  window  : Nat
  grown   : Nat
  unacked : List OutPkt
  waiting : List Packet
  expiries : Nat
  timeout : Nat
  since   : Nat
  deriving DecidableEq, Repr

/-- A command ring (R436, R437) with the entry in execution. -/
structure CmdRing where
  w0   : Word
  w1   : Word
  head : Nat
  cur  : Option (Vector Word 8)
  /-- PSAVE or PRESUME under way, or a CANCEL of a launch of another package: its identifier, and the status answered. -/
  busy : Bool
  asked : Option Nat
  told : Option Nat
  deriving DecidableEq, Repr

/-- An event queue (R439). -/
structure EventQueue where
  en     : Bool
  ap     : Nat
  base   : Nat
  vector : Nat
  size   : Nat
  wrptr  : Nat
  /-- RDPTR as it was last read. -/
  rd     : Nat
  loss   : Nat
  /-- The cycle from which RDPTR is read again, while full. -/
  poll   : Option Nat
  irqAt  : Nat
  deriving DecidableEq, Repr

/-- A reduction entry (R428). -/
structure Reduction where
  w0 : Word
  w1 : Word
  w2 : Word
  deriving DecidableEq, Repr

/-- An entry of the package route table (R422). -/
structure Route where
  w0 : Word
  w1 : Word
  w2 : Word
  w3 : Word
  deriving DecidableEq, Repr

/-- What leaves the package: to the host, to peers, to the management core, and out of the module. -/
inductive Output where
  | msix (vector : Nat)
  | record (words : List Word)
  /-- A link flit leaves a scale-up port (R423). -/
  | link (port : Nat) (f : LinkFlit)
  | course (p : OutPkt)
  /-- What the management agent has read from register `n` of unit `u` (see `execRegisterWrite`). -/
  | regRead (n u : Nat) (w : Word)
  | attest (digests : List (BitVec 256)) (signature : List Byte)
  /-- An access of the host has been performed: what it read, or the address and length that it wrote (R433). -/
  | hostRead (a : Nat) (data : List Byte)
  | hostWritten (a n : Nat)
  /-- The host's copy of the 64-byte line at an address is invalidated (R433). -/
  | backInvalidate (a : Nat)
  | powerOff
  deriving DecidableEq, Repr

/-- Where an event happens and what it brings: the arguments of the event rows (see each meaning's docstring). -/
structure Ev where
  c     : Nat := 0
  k     : Nat := 0
  n     : Nat := 0
  m     : Nat := 0
  w     : Word := 0
  w2    : Word := 0
  flag  : Bool := false
  words : List Word := []
  bytes : List Byte := []
  image : List Byte := []
  flit  : Option LinkFlit := none
  out   : Option OutPkt := none
  flow  : Flow := { srcPkg := 0, srcIo := 0, dstPkg := 0, dstIo := 0, vc := 0, cls := 0 }
  deriving DecidableEq, Repr

/-- The whole package. -/
structure State where
  /-- Core cycles since power was applied (model's own). -/
  now      : Nat
  /-- Counter of free choices (model's own; log entries 1 and 2). -/
  tick     : Nat
  nextUid  : Nat
  /-- The agent and slot whose instruction is executing (model's own). -/
  cur      : Nat × Nat
  /-- The arguments of the event that is executing (model's own). -/
  ev       : Ev
  /-- What the outside does next, in order of arrival (model's own; log entry 5). -/
  inbox    : List (Instr × Ev)
  outbox   : List Output
  cores    : KMap Core
  homes    : KMap Home
  l2       : KMap (List Tlb)
  /-- The walks of each cluster in the order of their requests, at most 16 of them under way (R287). -/
  walkers  : KMap (List Walk)
  dies     : Vector Die 4
  /-- The lease-clock reference and the cycle of its last tick (R289). -/
  clock    : BitVec 48
  clockAt  : Nat
  /-- The lease-clock copy of each I/O die, and whether it is under a skew fault (R289, R291). -/
  ioClocks : Vector (BitVec 48 × Bool) 2
  hbm      : Mem
  hostMem  : Mem
  cxlMem   : Mem
  net      : List Packet
  /-- Records on their way to event queues: the agent that posts each, its context and its words (R439). -/
  events   : List (Nat × Nat × List Word)
  evqs     : KMap EventQueue
  lostEvents : Nat
  /-- The command rings RDESC0 to RDESC15 (R436). -/
  rings    : Vector CmdRing 16
  monitors : List Watch
  /-- Stores accepted by the host interface unit and not yet in host memory (R311, R434). -/
  hostWrites : List (Who × Nat × Nat × List Byte)
  bridges  : Vector Bridge 8
  links    : Vector Link 64
  flows    : List FlowState
  outflows : List OutFlow
  routes   : KMap Route
  lends    : KMap Lend
  reductions : KMap Reduction
  pkgid    : BitVec 10
  ctxbase  : Nat
  summaries : Nat
  /-- Contexts with a job under way or ended: bit 0, a launch ended with another OUTCOME than 0; bit 1, the job was cancelled
  (R233, R237). -/
  jobs     : KMap Nat
  /-- Launches of other packages whose cancel has come here, until they are DONE (R234). -/
  farCancels : List Nat
  /-- The next power-on step (R447; see `execPowerStep`), 0 before the input is valid, and the cycle in which it became valid. -/
  power    : Nat
  powerAt  : Nat
  /-- The HBM stacks that are trained (R447), and the digests that the management plane reported (R442). -/
  hbmStacks : List Nat
  digests  : List (BitVec 256)
  deriving DecidableEq, Repr

/-- A slot with no process. -/
def Slot.reset : Slot :=
  { state := .empty, proc := none, ready := 0, spaced := 0, yielding := none, since := 0, busy := 0, back := false,
    susp := false }

/-- A barrier at core reset (R332). -/
def Barrier.reset : Barrier :=
  { phase := 0, bal := Vector.replicate 2 0, expa := Vector.replicate 2 0, arr := Vector.replicate 2 0,
    posted := Vector.replicate 2 false, orph := 0, owner := none }

/-- Core-reset state (R15, R20, R23, R96, R184, R187, R265, R329, R332, R386, R397, R402, R449): every granule empty
and zero, `last` 15, the register resets of the tables. -/
def Core.reset : Core :=
  { slots := Vector.replicate 16 Slot.reset, last := 15, lastTick := 0, issued := 0, genCtr := 0, spad := [],
    full := [], queue := [], rerun := [], reserved := [], parked := [], rings := [], waits := [], waitFree := List.range 32, ports := [],
    y := Vector.replicate 8 0, yOwner := Vector.replicate 8 none, yOld := Vector.replicate 8 (0, none, 0),
    resetAt := 0, parkwait := 4096, wdcycles := 16777216, dlwindow := 1048576, wtovf := 0,
    limitOld := (0, 0, 0), limitAt := 0,
    divider := none, divq := [], vdiv := none, vdivq := [], sorter := none, sortq := [],
    tileq := [], tilew := [], tileEnd := 0, tileWake := none,
    copies := [], taken := [], foreign := [], copyTurn := 0, copyAt := 0, nextJob := 0,
    ctr := Vector.replicate 16 0, ctrOwner := Vector.replicate 16 none, tb := Vector.replicate 8 Barrier.reset,
    memops := [], icache := [], itlb := [], dtlb := [], once := [], farReads := [], peermask := 0x6C, faults := [], cookies := 0,
    saved := [], jobs := [], dbgctl := 0, bpc := Vector.replicate 4 0, dbgdata := 0, stepping := [],
    trcctl := 0, trace := [], lossT := 0, lossD := 0, boot := true, bootMem := [], rawq := [],
    lwcycles := 16777216, combine := [], capture := none, flits := [], stalls := [], eccCount := 0, lapses := 0,
    walks := 0, replays := 0, bubbles := 0, tileBusy := 0, wdCount := 0, wdFired := false, probes := [],
    reported := [] }

/-- A memory core with nothing held for its lines. -/
def Home.reset : Home := { galley := [], locked := [], watches := [], host := [] }

/-- A die before it is powered. -/
def Die.reset : Die :=
  { map := [], pool := [], seqs := 0, clock := 0, skewed := false, restarts := [], salvages := [], gens := [], trbase := 0,
    ringErr := false, ringRd := 0, ringNext := 0, grants := [], hot := false, powered := false, reported := false }

/-- A bridge before training (R420); training at power-up raises every UP bit. -/
def Bridge.reset : Bridge :=
  { state := 0, err := false, mod := 0,
    mods := Vector.replicate 10
      { up := false, half := false, retry := 0, bad := 0, spares := 0, width := 0, row := 0 } }

/-- A link that has carried nothing yet. -/
def Link.reset : Link :=
  { seq := 0, expect := 0, retries := 0, resends := 0, buffer := [], used := Vector.replicate 4 0, owed := Vector.replicate 4 0,
    due := false, waiting := [], coming := [] }

/-- The module before its power input is valid (R447): nothing is placed, nothing runs; every register holds the value
that its table gives or that log entries 3, 9, 10 to 12 name. -/
def State.reset : State :=
  { now := 0, tick := 0, nextUid := 0, cur := (0, 0), ev := {}, inbox := [], outbox := [], cores := [], homes := [],
    l2 := [], walkers := [], dies := Vector.replicate 4 Die.reset, clock := 0, clockAt := 0,
    ioClocks := Vector.replicate 2 (0, false), hbm := [], hostMem := [], cxlMem := [],
    net := [], events := [], evqs := [], lostEvents := 0,
    rings := Vector.replicate 16 { w0 := 0, w1 := 0, head := 0, cur := none, busy := false, asked := none, told := none },
    monitors := [], hostWrites := [], bridges := Vector.replicate 8 Bridge.reset,
    links := Vector.replicate 64 Link.reset,
    flows := [], outflows := [], routes := [], lends := [], reductions := [], pkgid := 0, ctxbase := 0,
    summaries := 0, jobs := [], farCancels := [], power := 0, powerAt := 0, hbmStacks := [], digests := [] }

end Sys2Proof.Machine
end

