-- ==== Sys2Proof/Machine/Mem.lean ====
section
/-! DEFINITION. Sys2Proof/Machine/Mem.lean: maps by number and byte memories in one canonical form (rising addresses,
no zero byte listed), with little-endian accesses built from single bytes (R2). -/

namespace Sys2Proof.Machine

/-- The entry of a map at a number. -/
def kget {α : Type} : KMap α → Nat → Option α
  | [], _ => none
  | (j, v) :: m, i => if j == i then some v else kget m i

/-- A map with one entry written, kept in rising order. -/
def kset {α : Type} : KMap α → Nat → α → KMap α
  | [], i, v => [(i, v)]
  | (j, w) :: m, i, v =>
    if i < j then (i, v) :: (j, w) :: m
    else if j == i then (i, v) :: m
    else (j, w) :: kset m i v

/-- A map without an entry. -/
def kdel {α : Type} (m : KMap α) (i : Nat) : KMap α := m.filter fun e => e.1 != i

/-- The byte at an address; an unlisted address reads as zero (R23; log entry 3). -/
def Mem.read (m : Mem) (a : Nat) : Byte := (kget m a).getD 0

/-- A memory with one byte written; writing zero unlists the address. -/
def Mem.write (m : Mem) (a : Nat) (b : Byte) : Mem :=
  if b == 0 then kdel m a else kset m a b

/-- The canonical form: addresses strictly rise and no listed byte is zero. -/
def Mem.wf : Mem → Bool
  | [] => true
  | [(_, b)] => b != 0
  | (a, b) :: (a', b') :: m => b != 0 && decide (a < a') && Mem.wf ((a', b') :: m)

/-- `n` bytes from an address up. -/
def Mem.bytes (m : Mem) (a : Nat) : Nat → List Byte
  | 0 => []
  | n + 1 => m.read a :: Mem.bytes m (a + 1) n

/-- A memory with consecutive bytes written. -/
def Mem.put (m : Mem) (a : Nat) : List Byte → Mem
  | [] => m
  | b :: bs => Mem.put (m.write a b) (a + 1) bs

/-- A memory with those consecutive bytes written whose mask bit is set, bit 0 first (R114). -/
def Mem.putMasked (m : Mem) (a : Nat) (mask : Nat) : List Byte → Mem
  | [] => m
  | b :: bs => Mem.putMasked (if mask % 2 == 1 then m.write a b else m) (a + 1) (mask / 2) bs

/-- The little-endian number in `n` bytes. -/
def Mem.nat (m : Mem) (a n : Nat) : Nat := ofLe (m.bytes a n)

/-- The little-endian 64-bit word at an address. -/
def Mem.word (m : Mem) (a : Nat) : Word := BitVec.ofNat 64 (m.nat a 8)

/-- A memory with the low `n` bytes of a number written little-endian. -/
def Mem.putNat (m : Mem) (a n w : Nat) : Mem := m.put a (leBytes w n)

/-- The bytes of 64-bit words, lowest first. -/
def wordBytes (ws : List Word) : List Byte := ws.flatMap fun w => leBytes w.toNat 8

/-- 64-bit words from bytes, lowest first. -/
def bytesWords (bs : List Byte) : Nat → List Word
  | 0 => []
  | n + 1 => BitVec.ofNat 64 (ofLe (bs.take 8)) :: bytesWords (bs.drop 8) n

end Sys2Proof.Machine
end

