-- ==== Sys2Proof/Machine/Ops.lean ====
section
/-! DEFINITION. Sys2Proof/Machine/Ops.lean: the named operations on cores, slots and processes, the naming of agents
(R221, R222), packets, records, taking an exception and returning from one (R31, R33), and how an instruction is
issued, checked and retired (R29, R30, R40). -/

namespace Sys2Proof.Machine

/-- One step's outcome. -/
abbrev Out := Host.Outcome State Fault Refusal

/-! ### Cores, slots and processes -/

/-- The agent numbered `c`. -/
def State.core (s : State) (c : Nat) : Core := (kget s.cores c).getD Core.reset

def State.setCore (s : State) (c : Nat) (co : Core) : State := { s with cores := kset s.cores c co }

def State.modCore (s : State) (c : Nat) (f : Core → Core) : State := s.setCore c (f (s.core c))

def Core.slot (co : Core) (k : Nat) : Slot := co.slots[k]?.getD Slot.reset

def Core.setSlot (co : Core) (k : Nat) (sl : Slot) : Core := { co with slots := co.slots.setIfInBounds k sl }

def State.slot (s : State) (c k : Nat) : Slot := (s.core c).slot k

def State.setSlot (s : State) (c k : Nat) (sl : Slot) : State := s.modCore c fun co => co.setSlot k sl

def State.proc (s : State) (c k : Nat) : Option Proc := (s.slot c k).proc

/-- The state with process `p` in slot `k` of core `c`. -/
def State.setProc (s : State) (c k : Nat) (p : Proc) : State := s.setSlot c k { s.slot c k with proc := some p }

/-- The sixteen slot numbers. -/
def slotNumbers : List Nat := [0, 1, 2, 3, 4, 5, 6, 7, 8, 9, 10, 11, 12, 13, 14, 15]

/-- Every process that a core holds in a slot, with its slot. -/
def Core.procs (co : Core) : List (Nat × Proc) :=
  slotNumbers.filterMap fun k => (co.slot k).proc.map fun p => (k, p)

/-- The slot in which process `uid` lives. -/
def Core.slotOf (co : Core) (uid : Nat) : Option Nat :=
  (co.procs.find? fun e => e.2.uid == uid).map (·.1)

/-- The slot in which process `uid` is blocked: not one that is being parked. -/
def Core.blockedSlot (co : Core) (uid : Nat) : Option Nat :=
  (co.slotOf uid).filter fun k => (co.slot k).state == .blocked

/-- Process `uid` wherever the core keeps it: slot, park record or saved context. -/
def Core.find (co : Core) (uid : Nat) : Option Proc :=
  (((co.procs.map (·.2)) ++ (co.parked.map (·.proc)) ++ (co.saved.flatMap fun v => v.procs.map (·.1))).find?
    fun p => p.uid == uid)

/-- Is process `uid` in a saved context (R377)? -/
def Core.isSaved (co : Core) (uid : Nat) : Bool := co.saved.any fun v => v.procs.any fun e => e.1.uid == uid

/-- Change process `uid` wherever the core keeps it. -/
def Core.modUid (co : Core) (uid : Nat) (f : Proc → Proc) : Core :=
  let g := fun p : Proc => if p.uid == uid then f p else p
  { co with slots := co.slots.map fun sl => { sl with proc := sl.proc.map g },
            parked := co.parked.map fun r => { r with proc := g r.proc },
            saved := co.saved.map fun v => { v with procs := v.procs.map fun e => (g e.1, e.2) } }

/-! ### Registers -/

/-- x[r]; x0 reads zero (R10). -/
def Proc.xr (p : Proc) (r : BitVec 5) : Word := if r == 0 then 0 else p.x[r.toNat]

/-- Write x[r]; a write to x0 is discarded (R10). -/
def Proc.setX (p : Proc) (r : BitVec 5) (w : Word) : Proc :=
  if r == 0 then p else { p with x := p.x.set r.toNat w }

def Proc.vr (p : Proc) (r : BitVec 5) : VReg := p.v[r.toNat]

def Proc.setV (p : Proc) (r : BitVec 5) (w : VReg) : Proc := { p with v := p.v.set r.toNat w }

/-- p[r]; p0 reads all ones (R10). -/
def Proc.pr (p : Proc) (r : BitVec 3) : Half := if r == 0 then 0xFFFFFFFF else p.p[r.toNat]

/-- Write p[r]; a write to p0 is discarded (R10). -/
def Proc.setP (p : Proc) (r : BitVec 3) (w : Half) : Proc :=
  if r == 0 then p else { p with p := p.p.set r.toNat w }

def Proc.er (p : Proc) (r : BitVec 3) : Word := p.e[r.toNat]

def Proc.setE (p : Proc) (r : BitVec 3) (w : Word) : Proc := { p with e := p.e.set r.toNat w }

/-- The guard value for one predicate bit: Pred(G[2:0])[bit] XOR G[3] (R39, R41). -/
def Proc.guardBit (p : Proc) (g : BitVec 4) (bit : Nat) : Bool :=
  (p.pr (g.extractLsb' 0 3)).getLsbD bit ^^ g.getLsbD 3

/-! ### Header fields (R25) -/

def Proc.word (p : Proc) (i lo n : Nat) : Nat := bits (p.header[i]?.getD 0).toNat lo n
def Proc.xregs (p : Proc) : Nat := p.word 1 16 6
def Proc.vregs (p : Proc) : Nat := p.word 1 24 6
def Proc.nrings (p : Proc) : Nat := p.word 1 32 5
def Proc.accs (p : Proc) : Nat := p.word 1 40 5
def Proc.nports (p : Proc) : Nat := p.word 1 48 7
def Proc.groups (p : Proc) : Nat := p.word 1 56 7
def Proc.isDraft (p : Proc) : Bool := p.word 2 2 1 == 1
def Proc.isStage (p : Proc) : Bool := p.word 2 1 1 == 1
def Proc.idem (p : Proc) : Bool := p.word 2 0 1 == 1
/-- Privileged context flag (R8). -/
def Proc.priv (p : Proc) : Bool := p.word 2 3 1 == 1
/-- HANDLER of R25: a signed byte offset, 0 for none. -/
def Proc.handler (p : Proc) : BitVec 32 := BitVec.ofNat 32 (p.word 0 32 32)
def Proc.ctx (p : Proc) : BitVec 12 := p.record.ctx
def Proc.launch (p : Proc) : Option Nat := p.record.launch
/-- The launch of a process and its ancestors (R225). -/
def Proc.line (p : Proc) : List Nat := p.record.launch.toList ++ p.record.above

/-! ### Names of agents (R221, R222) -/

/-- Compute die of a vcore below 3,968 (R221). -/
def dieOf (v : Nat) : Nat := 2 * (if v / 64 ≥ 31 then 1 else 0) + (if v % 64 ≥ 32 then 1 else 0)

/-- Core-map entry of a vcore in its die: (die, index) (R222, R223). -/
def mapPlace (v : Nat) : Option (Nat × Nat) :=
  if v < 3968 then some (dieOf v, v / 64 % 31 * 32 + v % 32)
  else if 4096 ≤ v ∧ v < 4352 then some ((v - 4096) / 64, 992 + (v - 4096) % 64)
  else if 4352 ≤ v ∧ v < 4360 then some ((v - 4352) / 2, 1056 + (v - 4352) % 2)
  else none

/-- The virtual core of entry `i` of die `d`. -/
def placeVcore (d i : Nat) : Nat :=
  if i < 992 then (31 * (d / 2) + i / 32) * 64 + 32 * (d % 2) + i % 32
  else if i < 1056 then 4096 + 64 * d + (i - 992)
  else 4352 + 2 * d + (i - 1056)

def State.die (s : State) (d : Nat) : Die := s.dies[d]?.getD Die.reset

def State.modDie (s : State) (d : Nat) (f : Die → Die) : State :=
  { s with dies := s.dies.setIfInBounds d (f (s.die d)) }

/-- The core-map entry of a vcore, 0 when it names no agent (R223). -/
def State.mapEntry (s : State) (v : Nat) : BitVec 16 :=
  match mapPlace v with
  | some (d, i) => (kget (s.die d).map i).getD 0
  | none => 0

/-- The agent that a vcore names, when its entry is valid: a compute core by its physical position, a memory or
service core by its own number. -/
def State.agent (s : State) (v : Nat) : Option Nat :=
  let e := s.mapEntry v
  if e.getLsbD 15 then
    if v < 3968 then some (dieOf v * 1024 + bits e.toNat 0 10) else some v
  else none

/-- The agent that traffic to a vcore reaches: none, and DEAD, when it is unmapped or fenced (R223, R389). -/
def State.live (s : State) (v : Nat) : Option Nat :=
  if (s.mapEntry v).getLsbD 14 then none else s.agent v

/-- The vcore that names an agent, when some entry does. DESIGN CHOICE (log entry 46): a record of a core or router that no entry names
carries vcore 0. -/
def State.vcoreOf (s : State) (c : Nat) : Nat :=
  if c < 4096 then
    match (s.die (c / 1024)).map.find? fun e =>
      decide (e.1 < 992) && e.2.getLsbD 15 && bits e.2.toNat 0 10 == c % 1024 with
    | some e => placeVcore (c / 1024) e.1
    | none => 0
  else c

/-- Is the agent fenced (R389)? -/
def State.fenced (s : State) (c : Nat) : Bool :=
  if c < 4096 then
    ((s.die (c / 1024)).map.any fun e =>
      decide (e.1 < 992) && e.2.getLsbD 15 && e.2.getLsbD 14 && bits e.2.toNat 0 10 == c % 1024)
  else decide (c < 4360) && (s.mapEntry c).getLsbD 14

/-- The die that holds an agent. -/
def agentDie (c : Nat) : Nat :=
  if c < 4096 then c / 1024 else if c < 4352 then (c - 4096) / 64 else (c - 4352) / 2

def isMemCore (c : Nat) : Bool := decide (4096 ≤ c ∧ c < 4352)
def launchAgent (d : Nat) : Nat := 4353 + 2 * d
def pagerOf (d : Nat) : Nat := 4352 + 2 * d
/-- The host interface unit. -/
def hostUnit : Nat := 8000
/-- The routers and network interfaces, as the source of refusals that come from no agent. -/
def netUnit : Nat := 8001
/-- The I/O dies, as the place to which contributions to switch reductions go and from which their results come (R428). -/
def ioUnit : Nat := 8002
/-- An agent of another package. -/
def peerAgent (pkg v : Nat) : Nat := 65536 * (pkg + 1) + v

/-- Scratchpad bytes of a core: 192 KiB, or the 256 KiB staging SRAM of a memory core (R21, R263). -/
def spadSize (c : Nat) : Nat := if isMemCore c then 0x40000 else 0x30000
/-- Start of the system region (R21, R263). -/
def sysBase (c : Nat) : Nat := if isMemCore c then 0x3A000 else 0x2A000

/-- CYCLE of a core (R20). -/
def State.cycle (s : State) (co : Core) : Nat := s.now - co.resetAt

/-- SELF (R19). -/
def State.selfWord (s : State) (k : Nat) (p : Proc) : Word :=
  BitVec.ofNat 64 (k * 2 ^ 43 + p.gen.toNat * 2 ^ 35 + p.ctx.toNat * 2 ^ 23 + s.pkgid.toNat * 2 ^ 13 + p.vcore.toNat)

/-- The absolute local-space address of an offset of a vcore (R261). -/
def State.localAddr (s : State) (v off : Nat) : Word :=
  BitVec.ofNat 64 (2 ^ 63 + s.pkgid.toNat * 2 ^ 52 + v / 64 * 2 ^ 45 + v % 64 * 2 ^ 38 + off)

/-- WINBASE of a process (R15). -/
def State.winBase (s : State) (p : Proc) : Word := s.localAddr p.vcore.toNat p.wbase

/-- The handle of a core port (R199). -/
def State.handle (s : State) (p : Proc) (port type : Nat) : Word :=
  BitVec.ofNat 64 (p.ctx.toNat * 2 ^ 52 + s.pkgid.toNat * 2 ^ 42 + p.vcore.toNat * 2 ^ 29 + port * 2 ^ 23
    + p.gen.toNat * 2 ^ 15 + type * 2 + 1)

def hCtx (h : Word) : Nat := bits h.toNat 52 12
def hPkg (h : Word) : Nat := bits h.toNat 42 10
def hVcore (h : Word) : Nat := bits h.toNat 29 13
def hPort (h : Word) : Nat := bits h.toNat 23 6
def hGen (h : Word) : Nat := bits h.toNat 15 8
def hType (h : Word) : Nat := bits h.toNat 1 2
/-- Two handles that name one port, whatever their TYPE. -/
def hSame (a b : Word) : Bool := a.toNat / 8 == b.toNat / 8

/-- The agent to which traffic for a package and vcore is sent; none when it is refused with DEAD here. -/
def State.dest (s : State) (pkg v : Nat) : Option Nat :=
  if pkg == s.pkgid.toNat then s.live v
  else
    let r := (kget s.routes pkg).getD { w0 := 0, w1 := 0, w2 := 0, w3 := 0 }
    if r.w0.getLsbD 61 || bits r.w0.toNat 62 2 < 2 then none else some (peerAgent pkg v)

def State.handleDest (s : State) (h : Word) : Option Nat := s.dest (hPkg h) (hVcore h)

/-- Route KIND of a package (R422); before the tables are written only this package is known (R459). -/
def State.routeKind (s : State) (pkg : Nat) : Nat :=
  if pkg == s.pkgid.toNat then 1
  else match kget s.routes pkg with
    | some r => if r.w0.getLsbD 61 then 0 else bits r.w0.toNat 62 2
    | none => 0

/-- Is a package in the scale-up domain (R183, R422)? -/
def State.inDomain (s : State) (pkg : Nat) : Bool :=
  pkg == s.pkgid.toNat ||
    (match kget s.routes pkg with | some r => bits r.w0.toNat 62 2 == 2 | none => false)

/-! ### Free choices (log entries 1 and 2) -/

/-- A free bit and the state with the next one. -/
def State.freeBit (s : State) : Bool × State := (Config.freeBit s.tick, { s with tick := s.tick + 1 })

/-- A free choice below `n`. -/
def State.choose (s : State) (n : Nat) : Nat × State :=
  if n ≤ 1 then (0, s) else (Config.pick s.tick % n, { s with tick := s.tick + 1 })

/-! ### Records and outputs -/

/-- Agent `c` posts a record for the event queue of a context (R110, R439). -/
def State.post (s : State) (c ctx : Nat) (words : List Word) : State := { s with events := s.events ++ [(c, ctx, words)] }

def State.out (s : State) (o : Output) : State := { s with outbox := s.outbox ++ [o] }

/-- Word 0 of a record with KIND and STATUS (R217, R267). -/
def kindWord (kind status : Nat) : Word := BitVec.ofNat 64 (kind * 2 ^ 56 + status * 2 ^ 48)

/-- A record laid out as R267, posted from the die of the process that SELF names. -/
def State.refusal (s : State) (ctx kind status : Nat) (self addr data : Word) : State :=
  s.post (launchAgent (dieOf (bits self.toNat 0 13))) ctx [kindWord kind status, self, addr, data]

/-- Append a trace record when TRCCTL lets its kind and context pass; a full buffer counts a loss (R402 to R404). -/
def Core.traceRec (co : Core) (kind : Nat) (ctx : Option Nat) (words : List Word) : Core :=
  if co.trcctl.getLsbD (kind - 0x30) &&
      (!co.trcctl.getLsbD 51 || ctx.isNone || ctx == some (bits co.trcctl.toNat 52 12)) then
    if co.trace.length < 64 then { co with trace := co.trace ++ [words] }
    else { co with lossT := min (co.lossT + 1) (2 ^ 32 - 1) }
  else co

/-- A trace record of kinds 0x30 to 0x35 about a process (R403). -/
def State.traceProc (s : State) (c k : Nat) (p : Proc) (kind code : Nat) (w2 w3 : Word) : State :=
  s.modCore c fun co => co.traceRec kind (some p.ctx.toNat)
    [BitVec.ofNat 64 (kind * 2 ^ 56 + k * 2 ^ 52 + p.gen.toNat * 2 ^ 44 + p.ctx.toNat * 2 ^ 32 + code * 2 ^ 24
        + p.vcore.toNat), BitVec.ofNat 64 (s.cycle co), w2, w3]

/-- A trace record of kind 0x36, which names no process (R403). -/
def State.traceHalt (s : State) (c code : Nat) : State :=
  s.modCore c fun co => co.traceRec 0x36 none
    [BitVec.ofNat 64 (0x36 * 2 ^ 56 + code * 2 ^ 24 + s.vcoreOf c), BitVec.ofNat 64 (s.cycle co), 0, 0]

/-! ### Packets -/

/-- The answer that a packet draws when its destination is fenced, unmapped or unreachable (R203, R266, R389). -/
def Body.dead : Body → Option Body
  | .spawnReq _ _ _ _ _ _ _ who => some (.spawnAns who 1)
  | .creditReq t h _ _ data self _ => some (.chanAns h t 1 1 0 true data self)
  | .bindQuery t h _ _ self _ => some (.chanAns h t 2 1 0 true 0 self)
  | .chanMsg t h _ ws self _ => some (.chanAns h t 3 1 0 true (ws.headD 0) self)
  | .tileData t h _ _ _ self _ => some (.chanAns h t 4 1 0 true 0 self)
  | .claimRow _ _ who => some (.claimAns who 2 1 0)
  | .row _ _ _ _ who => some (.claimAns who 3 1 0)
  | .access _ _ _ none _ _ _ who => some (.loadAns who none 1)
  | .access ea _ _ (some d) _ _ self who => some (.storeAck who 1 ea (BitVec.ofNat 64 (ofLe (d.take 8))) false self)
  | .copyRead j off len _ _ _ _ _ => some (.copyAck j off len 1)
  | .copyWrite j off d _ => some (.copyAck j off d.length 33)
  | .copyTake j _ => some (.copyAck j 0 0 33)
  | .ringClaim _ _ _ _ _ j m => some (.ringAns j m 1 0)
  | .amo r _ _ v c who posted _ => some (.refusal who 1 r v (if posted then 1 else 0) c.toNat)
  | .nextt r _ _ who => some (.refusal who 1 r 0 2 0)
  | .farRead r _ who => some (.refusal who 1 r 0 3 0)
  | .launchAsk id _ mode who =>
    some (if mode == 2 then .launchTold who (id + 2 ^ 48) 2 0 else .launchTold who id (if mode == 4 then 1 else 2) 0)
  | .launchJoin _ kind child who => some (.launchJoined kind child 1 who)
  | .launchReq _ _ _ _ _ who => some (.launchAns who 2 0)
  | _ => none

/-- Put a packet into the mesh; a fenced sender's packets are discarded (R389). -/
def State.send (s : State) (src dst vc : Nat) (b : Body) : State :=
  if s.fenced src then s
  else { s with net := s.net ++ [{ src := src, dst := dst, vc := vc, since := s.now, body := b }] }

/-- Put a packet into the mesh, or its refusal when there is no destination (R389, R422). -/
def State.sendTo (s : State) (src : Nat) (dst : Option Nat) (vc : Nat) (b : Body) : State :=
  match dst with
  | some d => s.send src d vc b
  | none => match b.dead with
    | some a => s.send netUnit src 2 a
    | none => s

/-- Bytes of a request at its holder, for the ordering of overlapping accesses (R299): holder-local or physical
address, length, and the 64 KiB virtual page through which a global access goes (R300). -/
def Body.span : Body → Option (Nat × Nat × Nat)
  | .access _ off size _ _ _ _ _ => some (off, size, 0)
  | .amo r _ wide _ _ _ _ _ => some (r.pa, if wide then 8 else 4, r.va.toNat / 65536 + 1)
  | .galley r _ d _ _ _ _ => some (r.pa, d.length, r.va.toNat / 65536 + 1)
  | .hostAccess a n _ => some (a, n, 0)
  | .nextt r _ _ _ => some (r.pa / 65536 * 65536, 65536, r.va.toNat / 65536 + 1)
  | _ => none

/-- Is it a NEXTT, whose table may lie at several homes (R252)? -/
def Body.isNextt : Body → Bool
  | .nextt .. => true
  | _ => false

/-- Must packet `b` wait for the earlier packet `a`? Control and message traffic of one source and destination keeps
its order; requests keep it only where they overlap (R210, R275, R299, R456); responses keep none. -/
def Packet.before (a b : Packet) : Bool :=
  a.src == b.src && (a.dst == b.dst || b.body.isNextt) && a.vc == b.vc &&
  (if a.vc == 1 then
    (match a.body.span, b.body.span with
     | some (x, n, g), some (y, m, h) => decide (x < y + m) && decide (y < x + n) && g == h
     | _, _ => false)
   else a.vc != 2)

/-- The bridges between an agent and the host interface unit on I/O die 0, which serves compute dies 0 and 1 (R415). -/
def hostBridges (c : Nat) : List Nat :=
  match agentDie c with
  | 0 => [4]
  | 1 => [5]
  | 2 => [2, 4]
  | _ => [3, 5]

/-- The management agent of a die, which sends from the corner of the die (R407, R463). -/
def mgmtAgent (d : Nat) : Nat := 8200 + d

/-- The bridges that a packet crosses (R415, R416, R418): those of the shared edges between compute dies, the I/O bridge of its die
for a packet of another package, and those to I/O die 0 for the host interface unit. -/
def bridgesOf (src dst : Nat) : List Nat :=
  let src := if 8200 ≤ src && decide (src < 8204) then 1024 * (src - 8200) else src
  if (65536 ≤ src || src == ioUnit) && decide (dst < 4360) then [4 + agentDie dst]
  else if dst == ioUnit && decide (src < 4360) then [4 + agentDie src]
  else if src == hostUnit && decide (dst < 4360) then hostBridges dst
  else if dst == hostUnit && decide (src < 4360) then hostBridges src
  else if 4360 ≤ src || decide (4360 ≤ dst) then []
  else match agentDie src, agentDie dst with
    | 0, 1 | 1, 0 => [0]
    | 2, 3 | 3, 2 => [1]
    | 0, 2 | 2, 0 => [2]
    | 1, 3 | 3, 1 => [3]
    | 0, 3 => [0, 3]
    | 3, 0 => [1, 2]
    | 1, 2 => [0, 2]
    | 2, 1 => [1, 3]
    | _, _ => []

/-- Does a bridge carry flits (R419, R421)? -/
def Bridge.carries (b : Bridge) : Bool := b.state == 0 && b.mods.any fun m => m.up

/-- Does a packet wait at a bridge that carries nothing (R421)? -/
def State.held (s : State) (p : Packet) : Bool :=
  (bridgesOf p.src p.dst).any fun b => !((s.bridges[b]?).getD Bridge.reset).carries

/-- Is the way between an agent and the host interface unit open (R415, R421)? -/
def State.hostOpen (s : State) (c : Nat) : Bool :=
  (hostBridges c).all fun b => ((s.bridges[b]?).getD Bridge.reset).carries

/-- Packet `n`, when no earlier packet and no bridge holds it back. -/
def State.packet (s : State) (n : Nat) : Option Packet :=
  match s.net[n]? with
  | some b => if s.held b || (s.net.take n).any (fun a => a.before b) then none else some b
  | none => none

def State.drop (s : State) (n : Nat) : State := { s with net := s.net.eraseIdx n }

/-- A packet for a fenced agent is refused with DEAD (R389). -/
def State.refuse (s : State) (p : Packet) : State :=
  match p.body.dead with
  | some a => s.send netUnit p.src 2 a
  | none => s

/-- Take packet `n` if it has come: a fenced destination refuses it, any other destination does `f` with it. `f`
answers none when it cannot take the packet now. -/
def State.onPacket (s : State) (n : Nat) (f : State → Packet → Option State) : State :=
  match s.packet n with
  | none => s
  | some p =>
    if s.fenced p.dst then (s.drop n).refuse p
    else (f (s.drop n) p).getD s

/-- `onPacket` for an `f` that reads physical memory and may find that an address does not exist. -/
def State.onPacketOut (s : State) (n : Nat) (f : State → Packet → Option Out) : Out :=
  match s.packet n with
  | none => .next s
  | some p =>
    if s.fenced p.dst then .next ((s.drop n).refuse p)
    else (f (s.drop n) p).getD (.next s)

/-- `onPacketOut` for an `f` that takes the packet out itself when it is done with it. -/
def State.onPacketKept (s : State) (n : Nat) (f : State → Packet → Option Out) : Out :=
  match s.packet n with
  | none => .next s
  | some p =>
    if s.fenced p.dst then .next ((s.drop n).refuse p)
    else (f s p).getD (.next s)

/-! ### Slots becoming runnable -/

/-- HALTED of a core (R397). -/
def Core.halted (co : Core) : Bool := co.dbgctl.getLsbD 1

/-- A slot whose wait has ended rejoins the rotation in the next cycle, or is HALTED on a halted core (R187, R388). A
process that is being parked becomes a ready one (R194). -/
def Slot.wake (sl : Slot) (halted : Bool) (now : Nat) : Slot :=
  if sl.state == .parking then { sl with proc := sl.proc.map (fun p => { p with wait := none }) }
  else
    { sl with state := if halted then .halted else .runnable, ready := now + 1, since := 0,
              proc := sl.proc.map fun p => { p with wait := none } }

/-- The process issues its waiting instruction again: in its slot at once, in its park record when it returns
(R194, R195). -/
def State.reissue (s : State) (c uid : Nat) : State :=
  s.modCore c fun co =>
    match co.slotOf uid with
    | some k => co.setSlot k ((co.slot k).wake co.halted s.now)
    | none => { co with parked := co.parked.map fun r =>
        if r.proc.uid == uid then { r with ready := true, proc := { r.proc with wait := none } } else r }

/-- Block slot `k` of core `c` in instruction `i` (R185). -/
def State.block (s : State) (c k : Nat) (i : Instr) (w : WaitKind) : State :=
  s.modCore c fun co => co.setSlot k
    { co.slot k with state := .blocked, since := s.now,
                     proc := (co.slot k).proc.map fun p => { p with wait := some { instr := i, kind := w } } }

/-- Is it a wait of an instruction that completes before its process is saved (R375)? -/
def WaitKind.finishes : WaitKind → Bool
  | .divRun _ | .iflush _ | .vecRun _ | .tileRun | .release _ | .remoteLoad | .amoReply | .nexttReply | .fetchFar _ _ _ | .fetchLine _ _
  | .sendAck _ | .bind _ | .tileSend _ _ | .tileData _ true | .spawnAns | .launchAns | .claim _ _ | .row _ _ | .spill
  | .preempt | .lsendAck | .settle => true
  | _ => false

/-- Is a wait not parkable (R196)? Beside the waits that a save must let finish, that for a credit whose request has entered the
mesh: its process is not parked, but a save drops it (log entry 45). -/
def WaitKind.noPark : WaitKind → Bool
  | .credit _ => true
  | w => w.finishes

/-- A process between instructions, or in a wait that is dropped without effect (R375). -/
def Proc.atBoundary (p : Proc) : Bool :=
  match p.wait with
  | some w => !w.kind.finishes
  | none => true

/-- Is the process's wait, if any, parkable, as far as its kind tells (R196)? -/
def Proc.mayPark (p : Proc) : Bool :=
  match p.wait with
  | some w => !w.kind.noPark
  | none => true

/-- May a process that is cancelled or killed end where it is (R189, R234, R371)? Beside an instruction boundary, a release wait is
abandoned, since its instruction has not acted yet, and so is a draft's QUIT that has not begun to publish (R358, R363). -/
def Proc.stoppable (p : Proc) : Bool :=
  match p.wait with
  | some w => !w.kind.finishes || (match w.kind with
    | .release _ => true
    | .settle => (match p.draft with
      | some d => d.state == .settling || d.state == .preparing
      | none => false)
    | _ => false)
  | none => true

/-! ### Length and status of an instruction -/

/-- Length in bytes of an encoded instruction (R36). -/
def instrLen (i : Instr) : Word :=
  match encodeWord i with
  | some (n, _) => BitVec.ofNat 64 (n / 8)
  | none => 0

/-- The TVAL of an ILLEGAL or PRIV trap: the instruction word (R32). -/
def instrWord (i : Instr) : Word :=
  match i, encodeWord i with
  | .illegalWord w, _ => BitVec.ofNat 64 w
  | _, some (_, w) => BitVec.ofNat 64 w
  | _, none => 0

/-- Is it a vector instruction (majors 0x24 to 0x2D)? -/
def isVector (i : Instr) : Bool :=
  match encodeWord i with
  | some (32, w) => decide (0x24 ≤ bits w 1 6 ∧ bits w 1 6 ≤ 0x2D)
  | _ => false

/-- The status register and number of an instruction: is .q set, the register it names, and the TVAL[15:8] of its
CHANNEL trap (R7, R32, R208, R212, R238, R253, R334). -/
def statusOf : Instr → Bool × BitVec 5 × Nat
  | .spawn _ q d => (q == 1, d, 0xFF)
  | .chopen _ q p _ d | .chbind _ q p _ d | .chclose _ q p d | .wrel _ q p d
  | .send _ q p _ d | .sendv _ q p _ d | .sendt _ q p _ d | .recvt _ q p _ d
  | .gsendScalar _ q p _ d | .gsendVector _ q p _ d | .dsend _ q p _ d => (q == 1, d, p.toNat)
  | .recv _ q p a _ | .recvv _ q p a _ | .grecvScalar _ q p a _ | .grecvVector _ q p a _ => (q == 1, a, p.toNat)
  | .gcfg _ p _ | .gcfgPort _ p _ => (false, 0, p.toNat)
  | .launch _ q b _ | .lwait _ q b _ _ => (q == 1, b, 0xFF)
  | .lcancel _ q _ d | .ldep _ q _ _ d | .graphClose _ q _ d | .jcancel _ q _ d => (q == 1, d, 0xFF)
  | .graphOpen _ q a _ | .nextt _ q _ a _ => (q == 1, a, 0xFF)
  | .copy _ q d | .copya _ q _ _ d => (q == 1, d, 0xFF)
  | .ctradd _ q k _ d | .ctrset _ q _ k _ d => (q == 1, d, k.toNat)
  | .tbexp _ q k _ d | .tbarr _ q k d => (q == 1, d, k.toNat)
  | .cRecv p _ | .cSend p _ => (false, 0, p.toNat)
  | _ => (false, 0, 0xFF)

/-- The counts up to the end of the cycle before `now` (R409). -/
def Capture.before (cp : Capture) (now : Nat) : Vector Word 4 :=
  if cp.pendAt == now then cp.cnt else Vector.ofFn fun i : Fin 4 => cp.cnt[i] + cp.pend[i]

/-- Add to the capture counters that count event `ev`, which happens in cycle `now`; the cycle of the CAPSTART is not counted
(R409). -/
def Proc.count (p : Proc) (now ev n : Nat) : Proc :=
  match p.capture with
  | none => p
  | some cp =>
    if now ≤ cp.start then p
    else
      let old := if cp.pendAt == now then cp.pend else Vector.replicate 4 0
      { p with capture := some { cp with
          cnt := cp.before now, pendAt := now,
          pend := Vector.ofFn fun i : Fin 4 => if cp.ev[i].toNat == ev then old[i] + BitVec.ofNat 64 n else old[i] } }

/-- Count an event for process `uid` (R409). -/
def State.countFor (s : State) (c uid ev n : Nat) : State := s.modCore c fun co => co.modUid uid fun p => p.count s.now ev n

/-- The counting part of a retirement in cycle `now` (R20, R40, R409). -/
def Proc.counted (p : Proc) (now : Nat) (i : Instr) : Proc :=
  let p := if isVector i then p.count now 8 1 else p
  match i with
  | .capstart _ _ => p
  | .capstop _ _ _ => p
  | _ => p.count now 2 1

/-- Is the exemption of R398 kept past an instruction? TRET has just set it for its target. -/
def Proc.keepSkip (p : Proc) : Instr → Bool
  | .tret _ _ => p.bpSkip
  | _ => false

/-- Retirement: pc moves on, RETIRED counts, no wait or exemption is left (R20, R398). -/
def Proc.retire (p : Proc) (now : Nat) (i : Instr) (pc : Word) : Proc :=
  { (p.counted now i) with
    pc := pc, retired := p.retired + 1, wait := none, answer := none, bpSkip := p.keepSkip i,
    tbPhase := none, altEnd := none, altDead := [], altDone := [], altKnown := [] }

/-! ### The limits of R20 -/

/-- The limits in force in cycle `now`: PARKWAIT, WDCYCLES and DLWINDOW (R20, R108). -/
def Core.limits (co : Core) (now : Nat) : Half × Half × Half :=
  if co.limitAt == now + 1 then co.limitOld else (co.parkwait, co.wdcycles, co.dlwindow)

/-- The limits in force before a write in cycle `now` (R108). -/
def Core.keepLimits (co : Core) (now : Nat) : Core := { co with limitOld := co.limits now, limitAt := now + 1 }

def Core.parkLimit (co : Core) (now : Nat) : Nat := (co.limits now).1.toNat
def Core.watchLimit (co : Core) (now : Nat) : Nat := (co.limits now).2.1.toNat
def Core.probeLimit (co : Core) (now : Nat) : Nat := (co.limits now).2.2.toNat

/-! ### Granules (R23, R116 to R120) -/

/-- A list of numbers in rising order with one number in it. -/
def insertNat (n : Nat) : List Nat → List Nat
  | [] => [n]
  | m :: ms => if n < m then n :: m :: ms else if n == m then m :: ms else m :: insertNat n ms

def Core.isFull (co : Core) (g : Nat) : Bool := co.full.contains g

def Core.setFull (co : Core) (g : Nat) : Core := { co with full := insertNat g co.full }

def Core.setEmpty (co : Core) (g : Nat) : Core := { co with full := co.full.filter fun h => h != g }

/-- Is a granule owned by an accepted copy or HLOAD and not yet filled (R118, R273)? -/
def Core.owned (co : Core) (g : Nat) : Bool :=
  co.taken.any (fun t => t.2.2.contains g) || co.foreign.any (fun t => t.2.2.any fun e => e.1 == g) || co.memops.any (fun m => m.owned.contains g)

/-- Is a waiting entry satisfied (R120)? A granule that a copy's acceptance has emptied serves no STF while the engine owns it
(R118; log entry 37). -/
def Core.satisfied (co : Core) (w : WaitEntry) : Bool :=
  if w.kind == 0 then !co.owned w.granule && co.isFull w.granule
  else if w.kind == 1 then !co.owned w.granule && !co.isFull w.granule
  else !co.owned w.granule

/-- Wait-table entries are released; their places are the last to be taken again (R119). -/
def Core.dropWaits (co : Core) (gone : WaitEntry → Bool) : Core :=
  { co with waits := co.waits.filter (fun w => !gone w), waitFree := co.waitFree ++ (co.waits.filter gone).map (·.place) }

/-- The entries of a process are released (R119, R120). -/
def Core.dropWaitsOf (co : Core) (uid : Nat) : Core := co.dropWaits fun w => w.uid == uid

/-- The signed value of the low `w` bits. -/
def sInt (w n : Nat) : Int := if n % 2 ^ w < 2 ^ (w - 1) then (n % 2 ^ w : Nat) else (n % 2 ^ w : Nat) - (2 ^ w : Nat)

/-- The low 2^S bytes of a word, extended (R93, R113). -/
def extW (u : BitVec 1) (sx : BitVec 2) (a : Word) : Word :=
  let w := 8 * 2 ^ sx.toNat
  if u == 1 then BitVec.ofNat 64 (a.toNat % 2 ^ w) else BitVec.ofInt 64 (sInt w a.toNat)

/-- A vector register with one byte written. -/
def setVByte (v : VReg) (i : Nat) (b : Byte) : VReg :=
  (v &&& ~~~((0xFF : VReg) <<< (8 * i))) ||| (b.zeroExtend 256 <<< (8 * i))

/-- The granules that a waiting access touches, in the order of its bytes. -/
def Access.granules (g : Nat) : Access → List Nat
  | .loadX _ _ sx off => [off / 16, (off + 2 ^ sx.toNat - 1) / 16]
  | .loadV _ bs => bs.map fun b => b.1 / 16
  | .store bs => bs.map fun b => b.1 / 16
  | _ => [g]

/-- Perform an access of process `p` whose granules are all its to touch; granule `g` is that of its entry (R113 to R116). -/
def Core.perform (co : Core) (g : Nat) (p : Proc) : Access → Core × Proc
  | .loadX r u sx off => (co, p.setX r (extW u sx (BitVec.ofNat 64 (co.spad.nat off (2 ^ sx.toNat)))))
  | .loadV r bs => (co, p.setV r (bs.foldl (fun v b => setVByte v b.2 (co.spad.read b.1)) (p.vr r)))
  | .store bs => ({ co with spad := bs.foldl (fun m b => m.write b.1 b.2) co.spad }, p)
  | .ldf r _ clr => (if clr then co.setEmpty g else co, p.setX r (co.spad.word (16 * g)))
  | .stf w _ => (({ co with spad := co.spad.putNat (16 * g) 8 w.toNat }).setFull g, p)
  | .sete => (co.setEmpty g, p)
  | .setf => (co.setFull g, p)

/-- The entry that a process keeps when its operation must wait on: an STF of a granule that has been filled, or an access that
touches another granule of an engine (R116, R118). -/
def Core.stillWaits (co : Core) (w : WaitEntry) (a : Access) : Option WaitEntry :=
  match (a.granules w.granule).find? co.owned with
  | some g => some { w with granule := g, kind := 2 }
  | none => match a with
    | .stf _ false => if co.isFull w.granule then some { w with kind := 1 } else none
    | .ldf _ false _ => if co.isFull w.granule then none else some { w with kind := 0 }
    | _ => none

/-- Serve a satisfied entry: a parked process is made ready and keeps its entry until it has issued again; any other process has
its access performed here, or issues its instruction again when it waits outside this chapter (R118, R120). The answer says
whether the entry was released. -/
def Core.serve (co : Core) (w : WaitEntry) (now : Nat) : Core × Bool :=
  match co.slotOf w.uid with
  | none => ({ co with parked := co.parked.map fun r =>
      if r.proc.uid == w.uid then { r with ready := true, proc := { r.proc with wait := none } } else r }, false)
  | some k =>
    let sl := co.slot k
    match sl.proc.bind fun p => p.wait.map fun wt => (p, wt) with
    | none => (co, false)
    | some (p, wt) =>
      if sl.state == .parking then (co.setSlot k (sl.wake co.halted now), false)
      else match w.access with
        | none => ((co.dropWaitsOf w.uid).setSlot k (sl.wake co.halted now), true)
        | some a => match co.stillWaits w a with
          | some w' => ({ co with waits := co.waits.map fun v => if v.uid == w.uid then w' else v }, false)
          | none =>
            let (co', q) := ({ co.dropWaitsOf w.uid with issued := now + 1 }).perform w.granule p a
            (co'.setSlot k { (sl.wake co.halted now) with proc := some (q.retire now wt.instr (p.pc + instrLen wt.instr)) }, true)

/-- One pass of HandOff over the entries of a granule, oldest first (R120). -/
def Core.handPass (now g : Nat) : List WaitEntry → Core → Core × Bool
  | [], co => (co, false)
  | w :: ws, co =>
    if w.granule == g && co.satisfied w then
      let (co, done) := co.serve w now
      let (co, more) := Core.handPass now g ws co
      (co, done || more)
    else Core.handPass now g ws co

/-- HandOff: passes over the entries until one makes no progress (R120); each that does releases an entry. -/
def Core.handOff (now g : Nat) : Nat → Core → Core
  | 0, co => co
  | fuel + 1, co =>
    let (co, more) := Core.handPass now g co.waits co
    if more then Core.handOff now g fuel co else co

/-- Every change of a granule's bit hands it to the waiters (R120). -/
def State.handOff (s : State) (c g : Nat) : State := s.modCore c fun co => co.handOff s.now g 33

/-- Set granules full with their contents unchanged, each with HandOff (R326, R331). -/
def State.fillGranules (s : State) (c : Nat) : List Nat → State
  | [] => s
  | g :: gs => ((s.modCore c fun co => co.setFull g).handOff c g).fillGranules c gs

/-! ### Launch agents -/

def idDie (id : Nat) : Nat := bits id 34 2
def idPkg (id : Nat) : Nat := bits id 36 10
def idIndex (id : Nat) : Nat := bits id 0 11
def idSeq (id : Nat) : Nat := bits id 11 23
def idKind (id : Nat) : Nat := bits id 46 2

/-- The pool record that a launch or graph identifier names, when it is not stale (R224). -/
def State.launchRec (s : State) (id : Nat) : Option LaunchRec :=
  if idPkg id == s.pkgid.toNat && decide (id < 2 ^ 48) then
    match kget (s.die (idDie id)).pool (idIndex id) with
    | some r => if r.seq.toNat == idSeq id && idKind id == bit r.graph then some r else none
    | none => none
  else none

def State.setLaunch (s : State) (id : Nat) (r : LaunchRec) : State :=
  s.modDie (idDie id) fun d => { d with pool := kset d.pool (idIndex id) r }

def State.modLaunch (s : State) (id : Nat) (f : LaunchRec → LaunchRec) : State :=
  match s.launchRec id with
  | some r => s.setLaunch id (f r)
  | none => s

/-- Tell a launch agent of an end (R188, R230); a process of no launch is reported to nobody (R466). -/
def State.report (s : State) (c : Nat) (launch : Option Nat) (r : EndReport) : State :=
  match launch with
  | none => s
  | some id => s.sendTo c (s.dest (idPkg id) (launchAgent (idDie id))) 0 (.ended id r)

/-- A graph left open when its opener ends is closed (R236). -/
def Die.closeGraphs (uid : Nat) (d : Die) : Die :=
  { d with pool := d.pool.map fun e =>
      (e.1, if e.2.graph && e.2.opener == uid then { e.2 with closed := true } else e.2) }

/-! ### Ports (R199 to R206) -/

def Core.port (co : Core) (q : Nat) : Option Port := kget co.ports q

def State.port (s : State) (c q : Nat) : Option Port := (s.core c).port q

def State.setPort (s : State) (c q : Nat) (po : Port) : State :=
  s.modCore c fun co => { co with ports := kset co.ports q po }

/-- A port at process start and after CHCLOSE (R201). -/
def Port.closed (owner : Nat) : Port :=
  { owner := owner, state := 0, type := 0, buffered := false, depth := 0, tlen := 0, peer := 0, peerBuf := false,
    prev := 0, credits := 0, tileOff := none, owed := [], held := [], queue := [], asked := false, refused := false, seq := 0,
    disp := none }

/-- The process of a core port. -/
def Core.owner (co : Core) (q : Nat) : Option Proc := (co.port q).bind fun po => co.find po.owner

/-- Send an answer to the port that a handle names (R202, R203); a fault record comes from no port (R369). -/
def State.answerPort (s : State) (c : Nat) (sender target : Word) (kind status off : Nat) (mode : Bool)
    (data self : Word) : State :=
  if !sender.getLsbD 0 then s
  else match s.handleDest sender with
  | some d => s.send c d (if kind == 3 || kind == 4 then 2 else 0) (.chanAns sender target kind status off mode data self)
  | none => s

/-- Return what a port holds of its peer: credits, and a request that is queued or on its way (R189, R202). -/
def State.dropCredits (s : State) (c : Nat) (h : Word) (q : Nat) (po : Port) : State :=
  let s := if po.credits != 0 then
      s.sendTo c (s.handleDest po.peer) 0 (.creditRet po.peer h po.credits) else s
  let s := if po.asked then s.sendTo c (s.handleDest po.peer) 0 (.withdraw po.peer h) else s
  s.setPort c q { po with credits := 0, tileOff := none, asked := false, refused := false }

/-- Close(port) (R205): buffered messages are discarded and their buffers return to the senders, a rendezvous message
not taken draws `status`, queued requests are answered CLOSED, and held credits return. -/
def State.closePort (s : State) (c : Nat) (p : Proc) (q : Nat) (status : Nat) : State :=
  match s.port c q with
  | none => s
  | some po =>
    if po.state == 0 then s
    else
      let h := s.handle p q po.type
      let s := if po.disp.isSome then s else
        let s := po.held.foldl (fun s m =>
          if po.buffered then s.answerPort c m.sender h 6 0 0 true 0 m.self
          else s.answerPort c m.sender h 3 status 0 false 0 m.self) s
        let s := po.queue.foldl (fun s r => s.answerPort c r.sender h 1 4 0 false r.data r.self) s
        s.dropCredits c h q po
      s.setPort c q { Port.closed po.owner with seq := po.seq }

/-- DROPS, REROUTES and SPILLS of a process's sender ports (R250). -/
def Core.dispatchTotals (co : Core) (p : Proc) : Nat × Nat × Nat :=
  p.ports.foldl (fun t q => match (co.port q).bind (·.disp) with
    | some d => if d.sink then t else (t.1 + d.drops, t.2.1 + d.reroutes, t.2.2 + d.spills)
    | none => t) (0, 0, 0)

/-! ### Rings (R150, R151, R465) -/

def Core.ring (co : Core) (j : Nat) : Option Ring := kget co.rings j

def State.ring (s : State) (c j : Nat) : Option Ring := (s.core c).ring j

def State.setRing (s : State) (c j : Nat) (r : Ring) : State :=
  s.modCore c fun co => { co with rings := kset co.rings j r }

def Ring.free (r : Ring) : Nat := r.count - r.busy

/-- n places on, modulo COUNT. -/
def Ring.wrap (r : Ring) (i : Nat) : Nat := if r.count == 0 then 0 else i % r.count

/-- Claim the tail slot (R151). -/
def Ring.claim (r : Ring) : Ring × Nat :=
  ({ r with tail := r.wrap (r.tail + 1), claimed := r.claimed + 1, busy := r.busy + 1,
            claims := r.claims ++ [(r.tail, false)] }, r.tail)

/-- Claimed slots at the head of the claim order whose data is complete become filled (R151, R465); in a ring with FERR they count as
forwarded at once (R180). -/
def Ring.settle : Nat → Ring → Ring
  | 0, r => r
  | n + 1, r =>
    match r.claims with
    | (_, true) :: rest =>
      Ring.settle n { r with claims := rest, claimed := r.claimed - 1, filled := r.filled + 1,
                             unfwd := if r.dir != 0 && !r.ferr then r.unfwd + 1 else r.unfwd,
                             fhead := if r.dir != 0 && r.ferr then r.wrap (r.fhead + 1) else r.fhead }
    | _ => r

/-- The data of a claimed slot is complete, or will never be (R151, R465). -/
def Ring.complete (r : Ring) (slot : Nat) : Ring :=
  Ring.settle (r.claims.length + 1)
    { r with claims := r.claims.map fun e => if e.1 == slot then (e.1, true) else e }

/-- Pop the head slot: it is free at once unless it still awaits forwarding (R151, R154). -/
def Ring.pop (r : Ring) : Ring :=
  let owed := decide (r.filled ≤ r.unfwd)
  { r with head := r.wrap (r.head + 1), filled := r.filled - 1,
           busy := if owed then r.busy else r.busy - 1 }

/-- The slot at FHEAD has been forwarded: it is free if it was popped before (R151, R179). -/
def Ring.forwarded (r : Ring) : Ring :=
  { r with fhead := r.wrap (r.fhead + 1), unfwd := r.unfwd - 1,
           busy := if r.filled < r.unfwd then r.busy - 1 else r.busy }

/-- FERR: every unforwarded slot, present or future, counts as forwarded (R180). -/
def Ring.fail (r : Ring) : Ring :=
  { r with ferr := true, fhead := r.wrap (r.fhead + r.unfwd), busy := r.busy - (r.unfwd - min r.unfwd r.filled),
           unfwd := 0, credit := none }

/-- The model's own name of a ring: its owner and its number there. -/
def Ring.name (r : Ring) : Nat := r.owner * 16 + r.ring % 16

/-- A slot of a ring anywhere in the package. -/
def ringPlace (name slot : Nat) : Nat := name * 64 + slot

/-- The descriptor of the ring with a name. -/
def Core.ringNamed (co : Core) (name : Nat) : Option (Nat × Ring) := co.rings.find? fun e => e.2.name == name

/-- The core, descriptor and slot of a place, while its ring exists. -/
def State.ringAt (s : State) (place : Nat) : Option (Nat × Nat × Ring × Nat) :=
  s.cores.findSome? fun e => (e.2.ringNamed (place / 64)).map fun r => (e.1, r.1, r.2, place % 64)

/-- The core of the ring of a place. -/
def State.placeCore (s : State) (place : Nat) : Option Nat :=
  match s.ringAt place with
  | some (c, _, _, _) => some c
  | none => (s.cores.find? fun e => e.2.saved.any fun v => v.procs.any fun q => q.2.2.any fun r => r.2.name == place / 64).map (·.1)

/-- Change the rings that a core keeps with its saved contexts (R377). -/
def Core.modSavedRings (co : Core) (f : Proc → Ring → Ring) : Core :=
  { co with saved := co.saved.map fun v =>
      { v with procs := v.procs.map fun e => (e.1, e.2.1, e.2.2.map fun q : Nat × Ring => (q.1, f e.1 q.2)) } }

/-- The core that keeps the ring of a place with a saved context: what comes for it waits there until the resume (R377). -/
def State.savedPlace (s : State) (place : Nat) : Option Nat :=
  (s.cores.find? fun e => e.2.saved.any fun v => v.procs.any fun q => q.2.2.any fun r => r.2.name == place / 64).map (·.1)

/-- A claimed slot that its producer will never complete is settled (R465). -/
def State.settlePlace (s : State) (place : Nat) : State :=
  match s.ringAt place with
  | some (c, j, r, slot) => s.setRing c j (r.complete slot)
  | none => match s.savedPlace place with
    | some c => s.modCore c fun co => co.modSavedRings fun _ r =>
        if r.name == place / 64 then r.complete (place % 64) else r
    | none => s

/-- A forwarding credit is cancelled: the slot it claimed at a live sink is settled (R180, R465). -/
def State.cancelCredit (s : State) (r : Ring) : State :=
  match r.credit with
  | some (place, false) => s.settlePlace place
  | _ => s

/-- Withdraw the claims of a producer that have not been granted: queued ones and those on their way (R277, R328). A
grant on its way is settled when it arrives (RING_CLAIM_ANSWER). -/
def State.withdrawClaim (s : State) (job : Job) (memop : Bool) : State :=
  { s with
    cores := s.cores.map fun e =>
      let cut := fun r : Ring => { r with queue := r.queue.filter fun q => !(q.2.1 == job && q.2.2 == memop) }
      (e.1, ({ e.2 with rings := e.2.rings.map fun r => (r.1, cut r.2) } : Core).modSavedRings fun _ r => cut r),
    net := s.net.filter fun p => match p.body with
      | .ringClaim _ _ _ _ _ j m => !(j == job && m == memop)
      | _ => true }

/-- The neighbour that forwards into a sink, or that a source forwards to, `d` east or south (R178, R179): the vcore at
distance one in the given direction. -/
def forwardNeighbour (v dir : Nat) (back : Bool) : Nat :=
  let n := if dir == 1 then 1 else 64
  if back then v - n else v + n

/-- The ring of a core with a context, TAG, ring number and forwarding role (R179). -/
def Core.ringMatching (co : Core) (ctx tag ring : Nat) (role : Ring → Bool) : Option (Nat × Ring) :=
  co.rings.find? fun e => e.2.defd && role e.2 && e.2.tag == tag && e.2.ring == ring &&
    (match co.find e.2.owner with | some p => p.ctx.toNat == ctx | none => false)

/-- A sink that goes away is lost to its source (R180). -/
def State.loseSink (s : State) (c ctx : Nat) (r : Ring) : State :=
  if !r.defd || r.sink == 0 then s
  else match s.agent (forwardNeighbour (s.vcoreOf c) r.sink true) with
    | none => s
    | some d =>
      match (s.core d).ringMatching ctx r.tag r.ring fun q => q.dir == r.sink with
      | some (j, q) => if q.ferr then s else s.setRing d j { q with lost := true }
      | none => s.modCore d fun co => co.modSavedRings fun p q =>
          if q.defd && q.dir == r.sink && q.tag == r.tag && q.ring == r.ring && p.ctx.toNat == ctx && !q.ferr then
            { q with lost := true }
          else q

/-- What the loss of a ring means to others: its sink goes, its forwarding credit is cancelled and its waiting claims are
answered DEAD (R180, R275). -/
def State.letGoRing (s : State) (c ctx : Nat) (r : Ring) : State :=
  let s := s.loseSink c ctx r
  let s := s.cancelCredit r
  r.queue.foldl (fun (s : State) (e : Nat × Job × Bool) => s.send c e.2.1.core 0 (.ringAns e.2.1 e.2.2 1 0)) s

/-- Does a ring hold a forwarding credit of a sink? -/
def Ring.credited (q r : Ring) : Bool :=
  match q.credit with
  | some (place, _) => place / 64 == r.name && r.claims.any fun cl => cl.1 == place % 64
  | none => false

/-- A granted forwarding credit of this sink that has not been returned, held by a ring of a core or of a saved context (R153, R178). -/
def State.sinkCredit (s : State) (r : Ring) : Bool :=
  s.cores.any fun e => e.2.rings.any (fun q => q.2.credited r)
    || e.2.saved.any fun v => v.procs.any fun p => p.2.2.any fun q => q.2.credited r

/-- The descriptors of ended processes return to the table once no forwarding credit of theirs is outstanding (R149). -/
def State.sweepRings (s : State) : State :=
  { s with cores := s.cores.map fun e =>
      (e.1, { e.2 with rings := e.2.rings.filter fun q =>
        q.2.defd || (e.2.find q.2.owner).isSome || q.2.credit.isSome || s.sinkCredit q.2 }) }

/-- The rings of a process that ends: credits are cancelled, waiting claims are answered DEAD, and the descriptors stand undefined
until they return to the table (R149, R180, R275). -/
def State.releaseRings (s : State) (c ctx : Nat) : List Nat → State
  | [] => s
  | j :: js =>
    let s := match s.ring c j with
      | some r =>
        let s := s.letGoRing c ctx r
        (match s.ring c j with
         | some r =>
           s.setRing c j { r with defd := false, queue := [], credit := r.credit.filter fun e : Nat × Bool => e.2 }
         | none => s)
      | none => s
    s.releaseRings c ctx js

/-! ### Copies of a process that ends (R328, R331) -/

/-- A copy that ends with a failure counts in its process's summary (R327, R336). -/
def Proc.copyFailed (p : Proc) (status : Nat) : Proc :=
  { p with cfail := min (p.cfail + 1) 255, cstatus := if p.cfail == 0 then status else p.cstatus }

/-- The granules that a copy still owns become full with their contents unchanged (R326, R328, R331). -/
def State.fillTaken (s : State) (c : Nat) (cp : Copy) : State :=
  if 65536 ≤ cp.dest then s.send c cp.dest 1 (.copyGive { core := c, id := cp.id } [] true)
  else
  let mine := fun t : Job × Nat × List Nat => t.1 == { core := c, id := cp.id }
  let gs := ((s.core cp.dest).taken.filter mine).flatMap (·.2.2)
  (s.modCore cp.dest fun co => { co with taken := co.taken.filter fun t => !mine t }).fillGranules cp.dest gs

/-- Cancel an armed copy: nothing is performed, its granules become full, it counts CANCELLED (R331). -/
def State.cancelArmed (s : State) (c : Nat) (cp : Copy) : State :=
  let s := s.modCore c fun co =>
    ({ co with copies := co.copies.filter fun d => d.id != cp.id }).modUid cp.uid fun p => p.copyFailed 8
  s.fillTaken c cp

/-- The claim of a copy that will not be completed is withdrawn or its slot settled (R328, R465). -/
def State.dropClaim (s : State) (c : Nat) (cp : Copy) : State :=
  if cp.claim == 2 then s.withdrawClaim { core := c, id := cp.id } false
  else if cp.claim == 3 then s.settlePlace cp.slot else s

/-- Stop a running copy: no further unit is sent (R328). Without units in flight it ends here. -/
def State.stopCopy (s : State) (c : Nat) (cp : Copy) : State :=
  if cp.flight.isEmpty then
    let s := s.dropClaim c cp
    let s := s.modCore c fun co => { co with copies := co.copies.filter fun d => d.id != cp.id }
    s.fillTaken c cp
  else s.modCore c fun co => { co with copies := co.copies.map fun d =>
      if d.id == cp.id then { d with stopped := true, fixups := [] } else d }

/-- The copies of process `uid` when it ends: armed copies are cancelled; running ones go on, or stop (R328). -/
def State.endCopies (s : State) (c uid : Nat) (stop : Bool) : State :=
  ((s.core c).copies.filter fun cp => cp.uid == uid).foldl (fun s cp =>
    if cp.armed.isSome then s.cancelArmed c cp else if stop then s.stopCopy c cp else s) s

/-! ### The end of a process (R188, R189, R367) -/

/-- Every wait that a process holds is abandoned (R189), its outstanding faults but those of copies and operations
are forgotten (R371), and its watches end (R295). -/
def State.abandon (s : State) (c uid : Nat) : State :=
  let s := s.modCore c fun co =>
    let free := fun u : Option Nat => if u == some uid then none else u
    { (co.dropWaitsOf uid) with
              divq := co.divq.erase uid, vdivq := co.vdivq.erase uid,
              divider := free co.divider, vdiv := free co.vdiv, sorter := free co.sorter,
              sortq := co.sortq.erase uid, tilew := co.tilew.erase uid, once := co.once.filter (fun e => e.1 / 3 != uid),
              faults := co.faults.filter fun f => f.uid != uid || f.source == 3 || (f.source == 4 && f.obj != 0) }
  { s with homes := s.homes.map fun h => (h.1, { h.2 with watches := h.2.watches.filter fun w => w.who.uid != uid }),
           monitors := s.monitors.filter fun m => m.who.uid != uid }

/-- Take a process out of its slot or park record. -/
def State.vacate (s : State) (c uid : Nat) : State :=
  s.modCore c fun co =>
    let co := match co.slotOf uid with
      | some k => co.setSlot k { Slot.reset with spaced := (co.slot k).spaced }
      | none => co
    { co with parked := co.parked.filter fun r => r.proc.uid != uid }

/-- The slot that a process is shown in; one that has none, being parked, shows 0 (R119, R150, R403; log entry 38). -/
def Core.slotFor (co : Core) (uid : Nat) : Nat := (co.slotOf uid).getD 0

/-- Is a grant to a producer on its way (R275)? -/
def State.granting (s : State) (job : Job) (memop : Bool) : Bool :=
  s.net.any fun pk => match pk.body with
    | .ringAns j m 0 _ => j == job && m == memop
    | _ => false

/-- Cancellation withdraws every HPUSH claim of a process that has not been granted; one that has runs to completion (R277). -/
def State.withdrawPushes (s : State) (c uid : Nat) : State :=
  let gone := fun m : MemOp => m.uid == uid && m.op == 2 && decide (m.stage < 2) && !s.granting { core := c, id := m.id } true
  let s := ((s.core c).memops.filter gone).foldl (fun s m => s.withdrawClaim { core := c, id := m.id } true) s
  s.modCore c fun co => { co with memops := co.memops.filter fun m => !gone m }

/-- End a process that is no draft, or a resolved one: `r.kind` is 0 for QUIT, 1 for FAULT, 2 for cancellation, 3 for a
lost process, 6 and 7 for drafts that are not counted, 9 for a process that will run again (R188, R234, R361, R376). -/
def State.endProc (s : State) (c : Nat) (p : Proc) (r : EndReport) : State :=
  let tot := (s.core c).dispatchTotals p
  let r := { r with index := bits p.index.toNat 0 32, vcore := p.vcore.toNat, drops := tot.1, reroutes := tot.2.1,
                    spills := tot.2.2, far := p.launch.any fun id => idPkg id != s.pkgid.toNat }
  let s := s.endCopies c p.uid (r.kind ≥ 2)
  let s := p.ports.foldl (fun s q => s.closePort c p q 1) s
  let s := s.modCore c fun co => { co with ports := p.ports.foldl kdel co.ports }
  let s := s.releaseRings c p.ctx.toNat p.rings
  let s := s.abandon c p.uid
  let s := if r.kind ≥ 2 then s.withdrawPushes c p.uid else s
  let s := s.traceProc c ((s.core c).slotFor p.uid) p 0x32
    (if r.kind == 6 || r.kind == 7 then 4 else if 8 ≤ r.kind then 5 else r.kind) (if r.kind == 1 then r.tpc else 0) p.retired
  let s := { s with dies := s.dies.map (Die.closeGraphs p.uid) }
  let s := (s.vacate c p.uid).sweepRings
  s.report c p.launch r

/-- A draft that is to be discarded keeps its slot or park record, unparkably, until it has settled (R355, R357, R358,
R361). -/
def State.discardDraft (s : State) (c : Nat) (p : Proc) (d : Draft) (cause fate : Nat) (tpc tval : Word) : State :=
  let s := s.endCopies c p.uid true
  let s := s.modCore c fun co =>
    let free := fun u : Option Nat => if u == some p.uid then none else u
    { (co.dropWaitsOf p.uid) with
              divq := co.divq.erase p.uid, divider := free co.divider, vdiv := free co.vdiv, sorter := free co.sorter,
              vdivq := co.vdivq.erase p.uid, sortq := co.sortq.erase p.uid, tilew := co.tilew.erase p.uid,
              faults := co.faults.filter fun f => f.uid != p.uid || f.source == 3 || (f.source == 4 && f.obj != 0) }
  let d := { d with cause := if d.cause == 0 then cause else d.cause, fate := max d.fate fate, state := .discarding, acks := 0,
                    tpc := tpc, tval := tval }
  let cur := ((s.core c).find p.uid).getD p
  let q := { p with draft := some d, replay := [], sack := cur.sack, cfail := cur.cfail, cstatus := cur.cstatus,
                    wait := some { instr := .quit 0, kind := .settle } }
  match (s.core c).slotOf p.uid with
  | some k => s.setSlot c k { s.slot c k with state := .blocked, since := s.now, proc := some q }
  | none => s.modCore c fun co => { co with parked := co.parked.map fun r =>
      if r.proc.uid == p.uid then { r with proc := q, ready := false, susp := false } else r }

/-- EndProcess with status FAULT (R31, R367). A draft is discarded with cause FAULT instead (R358). -/
def State.fault (s : State) (c : Nat) (p : Proc) (tcause : Nat) (tval tpc : Word) : State :=
  match p.draft with
  | some d => s.discardDraft c p { d with tcause := tcause } 6 0 tpc tval
  | none => s.endProc c p { kind := 1, tcause := tcause, tval := tval, tpc := tpc }

/-- A barred operation ends the draft at once (R355). -/
def State.barred (s : State) (c : Nat) (p : Proc) (tpc : Word) : State :=
  match p.draft with
  | some d => s.discardDraft c p d 5 0 tpc 0
  | none => s

/-- TrapEntry (R31): within a handler, or without one, the process ends with FAULT; otherwise TPC, TCAUSE and TVAL
take the pc, the cause and the value, INH is set, and pc goes to the handler. -/
def State.trapEntry (s : State) (c k : Nat) (p : Proc) (cause : Nat) (value : Word) : State :=
  if p.inh || p.handler == 0 then s.fault c p cause value p.pc
  else
    let s := s.traceProc c k p 0x33 cause p.pc value
    s.setProc c k { p with tpc := p.pc, tcause := BitVec.ofNat 64 cause, tval := value, inh := true,
                           pc := p.hdrAddr + p.handler.signExtend 64, wait := none, answer := none, bpSkip := false,
                           tbPhase := none, altEnd := none, altDead := [], altDone := [], altKnown := [] }

/-- Stop issue on a core: RUNNABLE slots become HALTED and HALT and HALTED read 1 (R388, R400). -/
def Core.halt (co : Core) : Core :=
  { co with dbgctl := co.dbgctl ||| 3,
            slots := co.slots.map fun sl => if sl.state == .runnable then { sl with state := .halted } else sl }

/-! ### How an instruction takes effect -/

/-- What the body of an instruction does under a true guard. -/
inductive Act where
  /-- A trap other than ILLEGAL, PRIV and RESOURCE; nothing else has changed. -/
  | trap (cause : Nat) (value : Word)
  /-- The effect is in the state; the instruction retires. -/
  | go (s : State)
  /-- The effect is in the state; the instruction retires and control moves to the target. -/
  | jump (s : State) (target : Word)
  /-- The slot leaves the rotation and waits. -/
  | hold (s : State) (w : WaitKind)
  /-- A barred operation of a draft (R354). -/
  | barred
  /-- The state is final: the process has ended, or its slot has been placed. -/
  | done (s : State)

/-- The status of an instruction (R7): a nonzero status without .q raises CHANNEL; with .q it is written. -/
def statusAct (i : Instr) (st : Nat) (s : State) (c k : Nat) : Act :=
  let (q, r, num) := statusOf i
  if q then
    match s.proc c k with
    | some p => .go (s.setProc c k (p.setX r (BitVec.ofNat 64 st)))
    | none => .go s
  else if st == 0 then .go s
  else .trap 7 (BitVec.ofNat 64 (num * 256 + st))

/-- Retire the instruction in slot `k` with the next pc; the core notes the cycle (R385), and an entry of the wait table that a
return from a park record has left is released (R120). -/
def State.retireTo (s : State) (c k : Nat) (p : Proc) (i : Instr) (pc : Word) : State :=
  (s.setProc c k (p.retire s.now i pc)).modCore c fun co => { co.dropWaitsOf p.uid with issued := s.now + 1 }

/-- Retire the instruction in slot `k`. -/
def State.retireAt (s : State) (c k : Nat) (i : Instr) : State :=
  match s.proc c k with
  | some p => s.retireTo c k p i (p.pc + instrLen i)
  | none => s

/-- Control moves to a target (R102): local space raises NOPATH, an odd target ALIGN. -/
def transfer (s : State) (t : Word) : Act :=
  if t.getLsbD 63 then .trap 5 t else if t.getLsbD 0 then .trap 3 t else .jump s t

/-- The last part of TrapReturn (R33): control moves to the target and INH is cleared. A process that so continues at an
instruction that hit a comparator issues it once without matching (R398). -/
def State.trapReturn (s : State) (c k : Nat) (p : Proc) (target : Word) : Act :=
  transfer (s.setProc c k { p with
    inh := false, bpSkip := p.bpHit.contains target, bpHit := (p.bpHit.erase target).erase p.tpc }) target

/-- Give an act its effect; `p` is the process as the instruction found it. -/
def Act.apply (a : Act) (s : State) (c k : Nat) (p : Proc) (i : Instr) : State :=
  match a with
  | .trap cause v => s.trapEntry c k p cause v
  | .go s' => s'.retireAt c k i
  | .jump s' t => match s'.proc c k with
    | some q => s'.retireTo c k q i t
    | none => s'
  | .hold s' w => s'.block c k i w
  | .barred => s.barred c p p.pc
  | .done s' => s'

/-- The lowest comparator that hits an instruction at the process's pc (R398). -/
def Core.comparator (co : Core) (p : Proc) : Option Nat :=
  if p.bpSkip then none
  else [0, 1, 2, 3].find? fun n =>
    let b := co.bpc[n]?.getD 0
    b.getLsbD 63 && bits b.toNat 51 12 == p.ctx.toNat && bits b.toNat 0 51 == bits p.pc.toNat 1 51

/-- A comparator hit: BREAK, or a halt at the instruction (R398). -/
def State.breakAt (s : State) (c k n : Nat) (p : Proc) : State :=
  let p := { p with bpHit := p.pc :: p.bpHit.erase p.pc }
  let s := s.setProc c k p
  if (s.core c).dbgctl.getLsbD (4 + n) then (s.modCore c Core.halt).traceHalt c 0
  else s.trapEntry c k p 0x20 (BitVec.ofNat 64 (n * 512 + 256))

/-- A resource that an operand names (R27, R32): kind 0 x, 1 v, 2 ring, 3 accumulator, 4 port, 5 group. -/
abbrev Use := Nat × Nat

/-- The bound of a resource kind in the header (R25). -/
def Proc.bound (p : Proc) : Nat → Nat
  | 0 => p.xregs
  | 1 => p.vregs
  | 2 => p.nrings
  | 3 => p.accs
  | 4 => p.nports
  | _ => p.groups

/-- The operands that name resources beyond the header's bounds; x0 is always available (R27). -/
def Proc.offending (p : Proc) (us : List Use) : List Use :=
  us.filter fun u => decide (p.bound u.1 ≤ u.2) && !(u.1 == 0 && u.2 == 0)

/-- An x register operand, and a v register operand. -/
def ux (r : BitVec 5) : Use := (0, r.toNat)
def uv (r : BitVec 5) : Use := (1, r.toNat)

/-- How an instruction is checked at decode and when its guard is evaluated (R30, R40): may it run on this agent, does it
need privilege, which resources does it name, and is its guard true. -/
structure Check where
  legal : Bool := true
  priv  : Bool := false
  uses  : List Use := []
  guard : Bool := true

/-- An instruction of the executing slot: ILLEGAL, PRIV and RESOURCE are decided whatever the guard; a false guard only
retires; then the body decides, and a comparator hit, which asks no guard of a compact form and which is a BREAK no later than that of
a BKPT, comes last (R30, R40, R398). When several operands exceed their bounds, which one TVAL names is free (log entry 2). -/
def instr (i : Instr) (s : State) (check : Nat → Proc → Check) (body : State → Nat → Nat → Proc → Act) : Out :=
  let c := s.cur.1
  let k := s.cur.2
  match s.proc c k with
  | none => .next s
  | some p =>
    let ck := check c p
    if !ck.legal then .next (s.trapEntry c k p 1 (instrWord i))
    else if ck.priv && !p.priv then .next (s.trapEntry c k p 6 (instrWord i))
    else match p.offending ck.uses with
      | u :: us =>
        let (n, s) := s.choose (us.length + 1)
        let u := ((u :: us)[n]?).getD u
        .next (s.trapEntry c k p 2 (BitVec.ofNat 64 (u.1 * 256 + u.2)))
      | [] =>
        if !ck.guard then
          match (s.core c).comparator p with
          | some n => if instrLen i == 2 then .next (s.breakAt c k n p) else .next (s.retireAt c k i)
          | none => .next (s.retireAt c k i)
        else
          let a := body s c k p
          match a, (s.core c).comparator p with
          | .trap cause _, some n => if cause == 0x20 then .next (s.breakAt c k n p) else .next (a.apply s c k p i)
          | .trap _ _, none => .next (a.apply s c k p i)
          | .barred, _ => .next (a.apply s c k p i)
          | _, some n => .next (s.breakAt c k n p)
          | _, none => .next (a.apply s c k p i)

/-- An instruction that only changes its own process's registers. -/
def regInstr (i : Instr) (s : State) (uses : List Use) (guard : Proc → Bool) (f : Proc → Proc) : Out :=
  instr i s (fun _ p => { uses := uses, guard := guard p }) fun s c k p => .go (s.setProc c k (f p))

/-- End a process that was cancelled or killed, or met an uncorrectable error, while it could not stop (R234, R371, R395): the first two
stop its copies (R328). A draft is discarded, unless it is publishing (R363). -/
def State.stopProc (s : State) (c : Nat) (p : Proc) : State :=
  if p.dying == 0 then s
  else match p.draft with
    | some d => if d.state == .publishing || d.state == .discarding then s
        else if p.dying == 1 then s.discardDraft c p d 0 1 p.pc 0
        else s.discardDraft c p { d with tcause := 0 } 6 0 p.diePc p.dieVa
    | none =>
      if p.dying == 1 then s.endProc c p { kind := 2 }
      else (if p.dying == 2 then s.endCopies c p.uid true else s).endProc c p
        { kind := 1, tcause := 0, tval := p.dieVa, tpc := p.diePc }

/-- End process `uid`'s wait with an act of its waiting instruction; then it stops if it was cancelled or killed
meanwhile (R234). -/
def State.resume (s : State) (c uid : Nat) (f : State → Nat → Proc → Instr → Act) : State :=
  match (s.core c).slotOf uid with
  | none => s
  | some k =>
    match s.proc c k with
    | none => s
    | some p =>
      match p.wait with
      | none => s
      | some w =>
        let s := (f s k p w.instr).apply s c k p w.instr
        match s.proc c k with
        | none => s
        | some q =>
          if q.uid != uid || q.wait.isSome then s
          else
            let s := s.modCore c fun co => co.setSlot k ((co.slot k).wake co.halted s.now)
            s.stopProc c q

/-- The wait of process `uid` ends with a status (R7). -/
def State.resumeStatus (s : State) (c uid st : Nat) : State :=
  s.resume c uid fun s k _ i => statusAct i st s c k

/-- The wait of process `uid` ends with a status wherever the process is: a parked process returns it when it has issued again
(R195). -/
def State.answerStatus (s : State) (c uid st : Nat) : State :=
  if ((s.core c).blockedSlot uid).isSome then s.resumeStatus c uid st
  else (s.modCore c fun co => co.modUid uid fun p => { p with answer := some { status := st, value := 0 } }).reissue c uid

/-- The kind of wait of process `uid`. -/
def State.waitOf (s : State) (c uid : Nat) : Option WaitKind :=
  ((s.core c).find uid).bind fun p => p.wait.map (·.kind)

end Sys2Proof.Machine
end

