-- ==== Sys2Proof/Machine/Flags.lean ====
section
/-! DEFINITION. Sys2Proof/Machine/Flags.lean: the flags of FSTAT, their merging into a process (R16, R78), and the
stochastic-rounding generator (R18, R74). -/

namespace Sys2Proof.Machine

/-- The flags of FSTAT by their bits (R16). -/
def flagNV : Word := 1
def flagDZ : Word := 2
def flagOF : Word := 4
def flagUF : Word := 8
def flagNX : Word := 16
def flagMXOVF : Word := 32
def flagMXUNF : Word := 64

/-- FSTAT.FTZ. -/
def Proc.ftz (p : Proc) : Bool := p.fstat.getLsbD 16

/-- What rounding reads and changes of a process: the flags raised, the generator, and FTZ. -/
structure Fp where
  flags : Word
  seed  : Half
  ftz   : Bool
  deriving DecidableEq, Repr

/-- Raise flags. -/
def Fp.raise (x : Fp) (f : Word) : Fp := { x with flags := x.flags ||| f }

/-- Raise a flag on a condition. -/
def Fp.raiseIf (x : Fp) (b : Bool) (f : Word) : Fp := if b then x.raise f else x

/-- The rounding state of a process, with no flag raised yet. -/
def Proc.fp (p : Proc) : Fp := { flags := 0, seed := p.rseed, ftz := p.ftz }

/-- Rounding that belongs to no process and raises nothing (R86). -/
def Fp.none : Fp := { flags := 0, seed := 1, ftz := false }

/-- Merge the flags raised and the generator's state into the process (R16, R74). -/
def Proc.merge (p : Proc) (x : Fp) : Proc := { p with fstat := p.fstat ||| (x.flags &&& 0x7F), rseed := x.seed }

/-- One step of the Galois register over x^32 + x^22 + x^2 + x + 1 (R74). -/
def seedStep (r : Half) : Half := if r.getLsbD 0 then (r >>> 1) ^^^ 0x80200003 else r >>> 1

/-- `n` steps of the generator. -/
def seedSteps : Nat → Half → Half
  | 0, r => r
  | n + 1, r => seedSteps n (seedStep r)

/-- NextRandom16 (R74): the draw is the low half of the state after sixteen steps. -/
def Fp.draw (x : Fp) : Nat × Fp :=
  let r := seedSteps 16 x.seed
  (r.toNat % 65536, { x with seed := r })

/-- RSEED as written by software or by a process start: zero stores one (R18). -/
def seedOf (w : Half) : Half := if w == 0 then 1 else w

/-- A value written to FSTAT: ones clear flags, and FTZ takes its bit (R4, R16). -/
def fstatWrite (old w : Word) : Word := (old &&& 0x7F &&& ~~~w) ||| (w &&& 0x10000)

end Sys2Proof.Machine
end

