-- ==== Sys2Proof/Machine/Float.lean ====
section
/-! DEFINITION. Sys2Proof/Machine/Float.lean: the number formats (R66, R67, R70), their exact values, Round (R72), the
exact operations on values (R77, R81, R131, R132), the fixed sums (R82, R83, R84), conversions (R79, R80) and MX
blocks (R71, R87). -/

namespace Sys2Proof.Machine

/-! ### Integers (R66) -/

/-- The `w`-bit pattern of an integer, modulo 2^w. -/
def wrapInt (w : Nat) (v : Int) : Nat := (v % (2 ^ w : Nat)).toNat

def satS (v : Int) (w : Nat) : Int := min (max v (-(2 ^ (w - 1) : Nat))) ((2 ^ (w - 1) : Nat) - 1)
def satU (v : Int) (w : Nat) : Int := min (max v 0) ((2 ^ w : Nat) - 1)

/-! ### Formats (R67, R68) -/

/-- A floating-point format: exponent and fraction widths, bias; specials 0 infinities and NaNs at the all-ones
exponent, 1 only the two NaNs of E4M3, 2 none; whether overflow saturates; whether FTZ acts on it; and how many zero
bits lie below the fraction (the Trim formats of R132). -/
structure Fmt where
  e    : Nat
  f    : Nat
  bias : Nat
  spec : Nat
  sat  : Bool
  bf   : Bool
  drop : Nat
  deriving DecidableEq, Repr

def f64 : Fmt := { e := 11, f := 52, bias := 1023, spec := 0, sat := false, bf := false, drop := 0 }
def f32 : Fmt := { e := 8, f := 23, bias := 127, spec := 0, sat := false, bf := false, drop := 0 }
def f16 : Fmt := { e := 5, f := 10, bias := 15, spec := 0, sat := false, bf := false, drop := 0 }
def bf16 : Fmt := { e := 8, f := 7, bias := 127, spec := 0, sat := false, bf := true, drop := 0 }
def e4m3 : Fmt := { e := 4, f := 3, bias := 7, spec := 1, sat := true, bf := false, drop := 0 }
def e5m2 : Fmt := { e := 5, f := 2, bias := 15, spec := 0, sat := false, bf := false, drop := 0 }
def e3m2 : Fmt := { e := 3, f := 2, bias := 3, spec := 2, sat := true, bf := false, drop := 0 }
def e2m3 : Fmt := { e := 2, f := 3, bias := 1, spec := 2, sat := true, bf := false, drop := 0 }
def e2m1 : Fmt := { e := 2, f := 1, bias := 1, spec := 2, sat := true, bf := false, drop := 0 }

/-- A format as an MX element: overflow saturates (R72). -/
def Fmt.asMx (t : Fmt) : Fmt := { t with sat := true }

/-- Width in bits. -/
def Fmt.width (t : Fmt) : Nat := 1 + t.e + t.f + t.drop

/-- FT codes (R48). -/
def ftFmt (t : Nat) : Fmt := if t == 0 then f64 else if t == 1 then f32 else if t == 2 then bf16 else f16

/-- EL codes (R48). -/
def elFmt (e : Nat) : Fmt :=
  if e == 0 then e4m3 else if e == 1 then e5m2 else if e == 2 then e3m2 else if e == 3 then e2m3 else e2m1

/-- EMax of an element format (R87). -/
def elMax (e : Nat) : Int := if e == 0 then 8 else if e == 1 then 15 else if e == 2 then 4 else 2

/-- Lane width of a W code, and of a TC code (R48). -/
def wBits (w : Nat) : Nat := 8 * 2 ^ w
def tcBits (t : Nat) : Nat :=
  if t < 8 then wBits (t % 4) else if t == 8 then 64 else if t == 9 then 32 else if t < 12 then 16 else 8

/-- The floating-point format of a TC code; none for the integer types. -/
def tcFmt (t : Nat) : Option Fmt :=
  if t < 8 then none
  else some (if t == 8 then f64 else if t == 9 then f32 else if t == 10 then bf16 else if t == 11 then f16
    else if t == 12 then e4m3 else e5m2)

/-- The integer value of `n` in an integer TC type. -/
def tcInt (t n : Nat) : Int := if t < 4 then sInt (tcBits t) n else (n % 2 ^ tcBits t : Nat)

/-! ### Exact values -/

/-- An exact real value or a special one. A NaN carries whether NV is due: it is signalling, or it came from an
invalid operation. `fin neg m e more` is ±m·2^e, or a real strictly between that magnitude and (m+1)·2^e. -/
inductive Num where
  | nan (nv : Bool)
  | inf (neg : Bool)
  | fin (neg : Bool) (m : Nat) (e : Int) (more : Bool)
  deriving DecidableEq, Repr

/-- The value of an encoding (R67, R68). -/
def Fmt.value (t : Fmt) (n : Nat) : Num :=
  let n := n / 2 ^ t.drop
  let neg := n / 2 ^ (t.e + t.f) % 2 == 1
  let ex := n / 2 ^ t.f % 2 ^ t.e
  let fr := n % 2 ^ t.f
  if ex == 2 ^ t.e - 1 && t.spec == 0 then
    if fr == 0 then .inf neg else .nan (fr / 2 ^ (t.f - 1) == 0)
  else if ex == 2 ^ t.e - 1 && t.spec == 1 && fr == 2 ^ t.f - 1 then .nan false
  else if ex == 0 then .fin neg fr (1 - t.bias - t.f) false
  else .fin neg (2 ^ t.f + fr) (ex - t.bias - t.f) false

/-- The canonical NaN (R67): a format without NaNs never receives one. -/
def Fmt.canonNaN (t : Fmt) : Nat :=
  if t.spec == 1 then 2 ^ (t.e + t.f) - 1
  else (2 ^ (t.f + t.drop - 1)) + (2 ^ t.e - 1) * 2 ^ (t.f + t.drop)

def Fmt.signed (t : Fmt) (neg : Bool) (n : Nat) : Nat := if neg then n + 2 ^ (t.e + t.f + t.drop) else n

/-- Infinity of a sign. -/
def Fmt.infinity (t : Fmt) (neg : Bool) : Nat := t.signed neg ((2 ^ t.e - 1) * 2 ^ (t.f + t.drop))

/-- The greatest finite magnitude as significand and exponent. -/
def Fmt.maxFin (t : Fmt) : Nat × Int :=
  if t.spec == 0 then (2 ^ (t.f + 1) - 1, (2 ^ t.e - 2 : Nat) - t.bias - t.f)
  else if t.spec == 1 then (2 ^ (t.f + 1) - 2, (2 ^ t.e - 1 : Nat) - t.bias - t.f)
  else (2 ^ (t.f + 1) - 1, (2 ^ t.e - 1 : Nat) - t.bias - t.f)

/-- Encode magnitude m·2^q, where q is the exponent of its last place. -/
def Fmt.encode (t : Fmt) (neg : Bool) (m : Nat) (q : Int) : Nat :=
  t.signed neg (2 ^ t.drop * (if m < 2 ^ t.f then m else m - 2 ^ t.f + (q + t.bias + t.f).toNat * 2 ^ t.f))

def Num.sign : Num → Bool
  | .nan _ => false
  | .inf n => n
  | .fin n _ _ _ => n

def Num.isZero : Num → Bool
  | .fin _ m _ more => m == 0 && !more
  | _ => false

/-- Is the integral magnitude incremented, by mode: `r` of 2^sh is the discarded part (R72). -/
def roundUp (rm rnd : Nat) (neg : Bool) (t r sh : Nat) (more : Bool) : Bool :=
  let half := 2 ^ (sh - 1)
  let some := r != 0 || more
  if sh == 0 then false
  else if rm == 0 then decide (r > half) || (r == half && (more || t % 2 == 1))
  else if rm == 1 then false
  else if rm == 2 then some && !neg
  else if rm == 3 then some && neg
  else decide (rnd < r * 65536 / 2 ^ sh)

/-- Round of a finite nonzero magnitude (R72): the encoding and the flags. -/
def Fmt.roundFin (t : Fmt) (rm rnd : Nat) (neg : Bool) (m : Nat) (e : Int) (more : Bool) (x : Fp) : Nat × Fp :=
  let q : Int := max (Nat.log2 m + e - t.f) (1 - t.bias - t.f)
  let sh := (q - e).toNat
  let tr := if e ≤ q then m / 2 ^ sh else m * 2 ^ (e - q).toNat
  let r := if e ≤ q then m % 2 ^ sh else 0
  let up := roundUp rm rnd neg tr r sh more
  let inexact := r != 0 || more
  let mm := if up then tr + 1 else tr
  let (mm, q) := if mm == 2 ^ (t.f + 1) then (2 ^ t.f, q + 1) else (mm, q)
  let x := x.raiseIf inexact flagNX
  let top := t.maxFin
  if top.2 < q ∨ (q = top.2 ∧ top.1 < mm) then
    let x := x.raise (flagOF ||| flagNX)
    if t.sat || rm == 1 || (rm == 2 && neg) || (rm == 3 && !neg) then (t.encode neg top.1 top.2, x)
    else (t.infinity neg, x)
  else
    let tiny := decide (mm < 2 ^ t.f)
    let x := x.raiseIf (tiny && inexact) flagUF
    if t.bf && x.ftz && tiny && mm != 0 then (t.signed neg 0, x.raise (flagUF ||| flagNX))
    else (t.encode neg mm q, x)

/-- Round (R72). Under .rs one draw is made in every case. -/
def Fmt.round (t : Fmt) (rm : Nat) (v : Num) (x : Fp) : Nat × Fp :=
  let (rnd, x) := if rm == 4 then x.draw else (0, x)
  match v with
  | .nan nv => (t.canonNaN, x.raiseIf nv flagNV)
  | .inf neg => if t.spec == 0 then (t.infinity neg, x) else (t.canonNaN, x.raise flagNV)
  | .fin neg m e more => if m == 0 && !more then (t.signed neg 0, x) else t.roundFin rm rnd neg m e more x

/-! ### Exact operations -/

def Num.neg : Num → Num
  | .nan nv => .nan nv
  | .inf n => .inf (!n)
  | .fin n m e more => .fin (!n) m e more

def Num.isNan : Num → Bool
  | .nan _ => true
  | _ => false

/-- Is NV due for this operand (R76)? -/
def Num.nv : Num → Bool
  | .nan nv => nv
  | _ => false

/-- The exact product (R77, R78). -/
def Num.mul : Num → Num → Num
  | .nan a, b => .nan (a || b.nv)
  | a, .nan b => .nan (b || a.nv)
  | .inf a, .inf b => .inf (a ^^ b)
  | .inf a, .fin b m _ _ => if m == 0 then .nan true else .inf (a ^^ b)
  | .fin a m _ _, .inf b => if m == 0 then .nan true else .inf (a ^^ b)
  | .fin a m e _, .fin b n g _ => .fin (a ^^ b) (m * n) (e + g) false

/-- Times a power of two. -/
def Num.scale (k : Int) : Num → Num
  | .fin a m e more => .fin a m (e + k) more
  | v => v

/-- A finite term in units of 2^q, q no greater than its exponent. -/
def Num.units (q : Int) : Num → Int
  | .fin neg m e _ => if neg then -(m * 2 ^ (e - q).toNat : Nat) else (m * 2 ^ (e - q).toNat : Nat)
  | _ => 0

def Num.exp : Num → Int
  | .fin _ _ e _ => e
  | _ => 0

/-- The exact sum of any number of terms (R77, R84): a NaN or infinities of both signs give NaN, an exact zero is +0
(−0 under .rd) unless every term is −0. -/
def Num.sum (rm : Nat) (l : List Num) : Num :=
  let pos := l.any fun v => v == .inf false
  let neg := l.any fun v => v == .inf true
  if l.any Num.isNan || (pos && neg) then .nan (l.any Num.nv || (pos && neg))
  else if pos then .inf false
  else if neg then .inf true
  else
    let q : Int := l.foldl (fun q v => min q v.exp) 0
    let u : Int := l.foldl (fun a v => a + v.units q) 0
    if u = 0 then .fin (l.all (fun v => v.sign) || rm == 3) 0 0 false
    else .fin (decide (u < 0)) u.natAbs q false

/-- The exact quotient to more bits than any format holds, with the flag for division by zero (R78, R129). -/
def Num.div : Num → Num → Num × Word
  | .nan a, b => (.nan (a || b.nv), 0)
  | a, .nan b => (.nan (b || a.nv), 0)
  | .inf _, .inf _ => (.nan true, 0)
  | .inf a, .fin b _ _ _ => (.inf (a ^^ b), 0)
  | .fin a _ _ _, .inf b => (.fin (a ^^ b) 0 0 false, 0)
  | .fin a m e _, .fin b n g _ =>
    if n == 0 then (if m == 0 then (.nan true, 0) else (.inf (a ^^ b), flagDZ))
    else if m == 0 then (.fin (a ^^ b) 0 0 false, 0)
    else
      let k := 80 + Nat.log2 n
      (.fin (a ^^ b) (m * 2 ^ k / n) (e - g - k) (m * 2 ^ k % n != 0), 0)

/-- The integer square root, from bit `i` down. -/
def isqrtFrom (n : Nat) : Nat → Nat → Nat
  | 0, r => r
  | i + 1, r => isqrtFrom n i (if (r + 2 ^ i) * (r + 2 ^ i) ≤ n then r + 2 ^ i else r)

def isqrt (n : Nat) : Nat := isqrtFrom n (Nat.log2 n / 2 + 1) 0

/-- The square root (R131). -/
def Num.sqrt : Num → Num
  | .nan nv => .nan nv
  | .inf neg => if neg then .nan true else .inf false
  | .fin neg m e _ =>
    if m == 0 then .fin neg 0 0 false
    else if neg then .nan true
    else
      let k : Nat := if e % 2 = 0 then 160 else 161
      let n := m * 2 ^ k
      .fin false (isqrt n) ((e - (k : Int)) / 2) (isqrt n * isqrt n != n)

/-- One over the square root (R132). -/
def Num.rsqrt : Num → Num × Word
  | .nan nv => (.nan nv, 0)
  | .inf neg => (if neg then .nan true else .fin false 0 0 false, 0)
  | .fin neg m e _ =>
    if m == 0 then (.inf neg, flagDZ)
    else if neg then (.nan true, 0)
    else
      let (m, e) := if e % 2 = 0 then (m, e) else (2 * m, e - 1)
      let k := 80 + Nat.log2 m
      let r := isqrt (2 ^ (2 * k) / m)
      (.fin false r (-(e / 2) - k) (r * r * m != 2 ^ (2 * k)), 0)

/-- 2 to the power `fr`/2^k in units of 2^-200, for 0 ≤ fr < 2^k: the product of the square roots of 2 that the bits of
`fr` select, highest first; `root` is the current root in the same units. -/
def exp2Frac : Nat → Nat → Nat → Nat → Nat
  | 0, _, _, acc => acc
  | k + 1, fr, root, acc =>
    let root := isqrt (root * 2 ^ 200)
    exp2Frac k fr root (if fr / 2 ^ k % 2 == 1 then acc * root / 2 ^ 200 else acc)

/-- 2^a (R132). An integer power is exact; any other is irrational, and is found to far more bits than the formats
keep. Exponents beyond ±5,000 and magnitudes below 2^-60 stand for all that round alike. -/
def Num.exp2 : Num → Num
  | .nan nv => .nan nv
  | .inf neg => if neg then .fin false 0 0 false else .inf false
  | .fin neg m e _ =>
    if m == 0 then .fin false 1 0 false
    else if 13 ≤ Nat.log2 m + e then .fin false 1 (if neg then -8192 else 8192) false
    else if Nat.log2 m + e < -60 then
      if neg then .fin false (2 ^ 100 - 1) (-100) true else .fin false (2 ^ 100) (-100) true
    else if 0 ≤ e then
      let n : Int := m * 2 ^ e.toNat
      .fin false 1 (if neg then -n else n) false
    else
      let k := (-e).toNat
      let n : Int := (if neg then -(m : Int) else m) / (2 ^ k : Nat)
      let fr := ((if neg then -(m : Int) else m) % (2 ^ k : Nat)).toNat
      if fr == 0 then .fin false 1 n false
      else .fin false (exp2Frac k fr (2 ^ 201) (2 ^ 200)) (n - 200) true

/-- The first `n` binary digits of log2 of x/2^320, 1 ≤ x/2^320 < 2, by repeated squaring. -/
def log2Frac : Nat → Nat → Nat → Nat
  | 0, _, acc => acc
  | n + 1, x, acc =>
    let y := x * x / 2 ^ 320
    if y < 2 ^ 321 then log2Frac n y (2 * acc) else log2Frac n (y / 2) (2 * acc + 1)

/-- log2 a (R132). -/
def Num.log2 : Num → Num × Word
  | .nan nv => (.nan nv, 0)
  | .inf neg => (if neg then .nan true else .inf false, 0)
  | .fin neg m e _ =>
    if m == 0 then (.inf true, flagDZ)
    else if neg then (.nan true, 0)
    else
      let b := Nat.log2 m
      let n := e + b
      if m == 2 ^ b then (.fin (decide (n < 0)) n.natAbs 0 false, 0)
      else
        let v := n * (2 ^ 150 : Nat) + log2Frac 150 (m * 2 ^ (320 - b)) 0
        if v < 0 then (.fin true (v.natAbs - 1) (-150) true, 0) else (.fin false v.natAbs (-150) true, 0)

/-- A finite value rounded to an integer under a mode: the magnitude, and whether it differs (R79, R131). -/
def Num.rint (rm : Nat) (neg : Bool) (m : Nat) (e : Int) : Nat × Bool :=
  if 0 ≤ e then (m * 2 ^ e.toNat, false)
  else
    let sh := (-e).toNat
    let t := m / 2 ^ sh
    let r := m % 2 ^ sh
    (if roundUp rm 0 neg t r sh false then t + 1 else t, r != 0)

/-! ### Order (R130, R135, R144) -/

/-- Numeric order with −0 below +0, on encodings that are no NaN. -/
def Fmt.key (t : Fmt) (n : Nat) : Int :=
  if n / 2 ^ (t.e + t.f) % 2 == 1 then -(n % 2 ^ (t.e + t.f) : Nat) - 1 else (n % 2 ^ (t.e + t.f) : Nat)

/-- Numeric order with −0 equal to +0. -/
def Fmt.keyEq (t : Fmt) (n : Nat) : Int :=
  if n / 2 ^ (t.e + t.f) % 2 == 1 then -(n % 2 ^ (t.e + t.f) : Nat) else (n % 2 ^ (t.e + t.f) : Nat)

/-- MinMax (R130). DESIGN CHOICE (log entry 43): the result is one of the operands, exact and without Round, so FTZ does not flush a
BF16 subnormal. -/
def Fmt.minMax (t : Fmt) (max : Bool) (a b : Nat) (x : Fp) : Nat × Fp :=
  if (t.value a).isNan || (t.value b).isNan then
    (t.canonNaN, x.raiseIf ((t.value a).nv || (t.value b).nv) flagNV)
  else if max then (if t.key a < t.key b then b else a, x)
  else (if t.key b < t.key a then b else a, x)

/-- Compare by COND on ordered values (R48). -/
def condHolds (cond : Nat) (a b : Int) : Bool :=
  if cond == 0 then a == b else if cond == 1 then a != b else if cond == 2 then decide (a < b)
  else if cond == 3 then decide (b ≤ a) else if cond == 4 then decide (a ≤ b) else decide (b < a)

/-- Compare of floating-point operands (R135): a NaN is unequal to all. -/
def Fmt.compare (t : Fmt) (cond a b : Nat) (x : Fp) : Bool × Fp :=
  let va := t.value a
  let vb := t.value b
  if va.isNan || vb.isNan then (cond == 1, x.raiseIf (va.nv || vb.nv) flagNV)
  else (condHolds cond (t.keyEq a) (t.keyEq b), x)

/-! ### Conversions (R79, R80) -/

/-- A floating-point value as an integer of type `t`. -/
def toInt (t rm : Nat) (v : Num) (x : Fp) : Nat × Fp :=
  let w := tcBits t
  let clamp := fun n : Int => if t < 4 then satS n w else satU n w
  match v with
  | .nan _ => (0, x.raise flagNV)
  | .inf neg => (wrapInt w (clamp (if neg then -(2 ^ 70 : Nat) else (2 ^ 70 : Nat))), x.raise flagNV)
  | .fin neg m e _ =>
    let (n, nx) := Num.rint rm neg m e
    let n : Int := if neg then -(n : Int) else n
    if clamp n = n then (wrapInt w n, x.raiseIf nx flagNX) else (wrapInt w (clamp n), x.raise flagNV)

/-- Convert an element of TC type `st` to TC type `dt` (R79, R80). DESIGN CHOICE (log entry 44): an unsigned source converted to the
signed type of its own width, which R80 does not name, saturates with SatS as a narrowing does. -/
def convert (st dt rm n : Nat) (x : Fp) : Nat × Fp :=
  match tcFmt st, tcFmt dt with
  | some a, some b => b.round rm (a.value n) x
  | some a, none => toInt dt rm (a.value n) x
  | none, some b =>
    let v := tcInt st n
    b.round rm (.fin (decide (v < 0)) v.natAbs 0 false) x
  | none, none =>
    let v := tcInt st n
    (wrapInt (tcBits dt) (if dt < 4 then satS v (tcBits dt) else satU v (tcBits dt)), x)

/-! ### Sums (R82, R83, R84) -/

/-- Round(a + b). -/
def Fmt.add (t : Fmt) (rm a b : Nat) (x : Fp) : Nat × Fp := t.round rm (Num.sum rm [t.value a, t.value b]) x

/-- Fma (R81). -/
def Fmt.fma (t : Fmt) (rm : Nat) (a b c : Num) (x : Fp) : Nat × Fp := t.round rm (Num.sum rm [a.mul b, c]) x

/-- One level of TreeSum. -/
def Fmt.pairs (t : Fmt) : List Nat → Fp → List Nat × Fp
  | a :: b :: l, x =>
    let (r, x) := t.add 0 a b x
    let (rs, x) := t.pairs l x
    (r :: rs, x)
  | l, x => (l, x)

/-- TreeSum over 2^n values (R82). -/
def Fmt.tree (t : Fmt) : Nat → List Nat → Fp → Nat × Fp
  | 0, l, x => (l.headD 0, x)
  | n + 1, l, x =>
    let (l, x) := t.pairs l x
    t.tree n l x

/-- The first level of a dot product: products paired exactly, rounded once (R82). -/
def Fmt.dotPairs (t : Fmt) : List Num → Fp → List Nat × Fp
  | a :: b :: l, x =>
    let (r, x) := t.round 0 (Num.sum 0 [a, b]) x
    let (rs, x) := t.dotPairs l x
    (r :: rs, x)
  | _, x => ([], x)

/-- GroupSum in binary32 (R84). -/
def groupSum (c : Nat) (ps : List Num) (x : Fp) : Nat × Fp := f32.round 0 (Num.sum 0 (f32.value c :: ps)) x

/-! ### MX blocks (R69, R71, R87) -/

/-- Element `i` of `b` bits of a container (R69). -/
def element (b : Nat) (w i : Nat) : Nat := w / 2 ^ (b * i) % 2 ^ b

/-- The number that holds elements of `b` bits, first lowest (R69). -/
def packElements (b : Nat) : List Nat → Nat
  | [] => 0
  | n :: l => n % 2 ^ b + 2 ^ b * packElements b l

/-- The value of a scaled element (R71). -/
def mxValue (el : Fmt) (s n : Nat) : Num := if s == 255 then .nan false else (el.value n).scale ((s : Int) - 127)

/-- A rounding function applied in increasing element order. -/
def mapFp (f : Nat → Fp → Nat × Fp) : List Nat → Fp → List Nat × Fp
  | [], x => ([], x)
  | n :: l, x =>
    let (r, x) := f n x
    let (rs, x) := mapFp f l x
    (r :: rs, x)

/-- MxDecode of one element (R71): the scaled value rounded to nearest in `t`. -/
def mxDecode (el t : Fmt) (s n : Nat) (x : Fp) : Nat × Fp :=
  if s == 255 then (t.canonNaN, x) else t.round 0 (mxValue el s n) x

/-- Floor(log2) of a nonzero finite magnitude; none for zero. -/
def Num.top : Num → Option Int
  | .fin _ m e _ => if m == 0 then none else some (Nat.log2 m + e)
  | _ => none

/-- The greatest binade of a list of values. -/
def topOf : List Num → Option Int
  | [] => none
  | v :: l => match v.top, topOf l with
    | some a, some b => some (max a b)
    | some a, none => some a
    | none, b => b

/-- Requantise the elements of a block that takes part, in order (R87). -/
def mxElements (el : Fmt) (rm s : Nat) : List (Num × Bool) → Fp → List Nat × Fp
  | [], x => ([], x)
  | (v, true) :: l, x =>
    let (r, x) := el.round rm (v.scale (127 - (s : Int))) x
    let (rs, x) := mxElements el rm s l x
    (r :: rs, x)
  | (_, false) :: l, x =>
    let (rs, x) := mxElements el rm s l x
    (0 :: rs, x)

/-- MxQuantise (R87): the scale and the elements of `vs`, whose inactive members are +0. -/
def mxQuantise (vs : List (Num × Bool)) (el rm : Nat) (x : Fp) : Nat × List Nat × Fp :=
  let special := fun v : Num => match v with | .fin .. => false | _ => true
  let t := (elFmt el).asMx
  if vs.any fun v => special v.1 then
    (255, vs.map (fun _ => 0), x.raiseIf (vs.any fun v => match v.1 with | .inf _ => true | w => w.nv) flagNV)
  else match topOf (vs.map (·.1)) with
    | none => (127, vs.map (fun v => t.signed v.1.sign 0), x)
    | some m =>
      let k := m - elMax el
      let s : Nat := if 127 < k then 254 else if k < -127 then 0 else (k + 127).toNat
      let x := x.raiseIf (decide (127 < k)) flagMXOVF
      let x := x.raiseIf (decide (k < -127)) flagMXUNF
      let (es, x) := mxElements t rm s vs x
      (s, es, x)

end Sys2Proof.Machine
end

