-- ==== Sys2Proof/Machine/System.lean ====
section
/-! DEFINITION. Sys2Proof/Machine/System.lean: what a privileged load reads from the system region of a core (R21, R22):
the spawn queue, the ring table, the granule wait table, the slot table and the trace buffer, computed from the
tables themselves. The place of a record within the queue and the buffer is its place in age order (log entry 17); the bytes of a park record and of unlisted parts are free (log entry 14). -/

namespace Sys2Proof.Machine

/-- A 48-bit launch identifier, 0 for none (R466). -/
def launchWord (l : Option Nat) : Nat := l.getD 0 % 2 ^ 48

/-- A time of the model as CYCLE of the core. -/
def Core.cycleAt (co : Core) (t : Nat) : Nat := t - co.resetAt

/-- The eight words of a spawn record (R181). -/
def Record.words (co : Core) (r : Record) : List Nat :=
  [r.hdr.toNat, r.args[0].toNat, r.args[1].toNat, r.args[2].toNat, r.args[3].toNat,
   bit r.exact * 2 ^ 63 + r.index.toNat,
   r.ctx.toNat * 2 ^ 52 + r.prio.toNat * 2 ^ 50 + 2 ^ 49 + launchWord r.launch,
   co.cycleAt r.since]

/-- The two words of a ring descriptor (R150); the SLOT of a parked owner reads 0 (log entry 38). -/
def Ring.words (co : Core) (r : Ring) : List Nat :=
  let slot := co.slotFor r.owner
  [2 ^ 63 + bit r.defd * 2 ^ 62 + bit r.ext * 2 ^ 61 + r.sink % 4 * 2 ^ 59 + r.dir % 4 * 2 ^ 57 + bit r.ferr * 2 ^ 56
     + r.tag % 256 * 2 ^ 48 + slot * 2 ^ 44 + r.ring % 16 * 2 ^ 40 + r.base % 1024 * 2 ^ 30 + r.ssize % 256 * 2 ^ 22
     + r.count % 128 * 2 ^ 15,
   r.head % 64 * 2 ^ 58 + r.tail % 64 * 2 ^ 52 + r.fhead % 64 * 2 ^ 46 + r.filled % 128 * 2 ^ 39
     + r.claimed % 128 * 2 ^ 32 + r.unfwd % 128 * 2 ^ 25 + r.busy % 128 * 2 ^ 18]

/-- The two words of a wait-table entry (R119); the SLOT of a parked process reads 0 (log entry 38). -/
def WaitEntry.words (co : Core) (w : WaitEntry) : List Nat :=
  let parked := (co.slotOf w.uid).isNone
  let p := co.find w.uid
  [2 ^ 63 + bit parked * 2 ^ 62 + w.kind % 4 * 2 ^ 60 + bit w.clr * 2 ^ 59 + co.slotFor w.uid * 2 ^ 55
     + (p.map (·.gen.toNat)).getD 0 * 2 ^ 47 + (p.map (·.ctx.toNat)).getD 0 * 2 ^ 35 + w.granule % 2 ^ 14,
   co.cycleAt w.since]

/-- The STATE code of a slot (R185). -/
def SlotState.code : SlotState → Nat
  | .empty => 0
  | .starting => 1
  | .runnable => 2
  | .blocked => 3
  | .suspended => 4
  | .halted => 5
  | .parking => 6

/-- Word 0 of a slot-table entry (R186). -/
def Slot.word0 (sl : Slot) (p : Proc) : Nat :=
  2 ^ 63 + sl.state.code * 2 ^ 60 + p.ctx.toNat * 2 ^ 48 + p.gen.toNat * 2 ^ 40 + p.prio.toNat * 2 ^ 38
    + bit p.idem * 2 ^ 37 + bit p.cmt * 2 ^ 36 + bit p.isStage * 2 ^ 35 + bit p.isDraft * 2 ^ 34 + bit p.priv * 2 ^ 33
    + bit (!p.mayPark) * 2 ^ 32

/-- PORTMAP: the core ports of a process (R186). -/
def Proc.portMap (p : Proc) : Nat := p.ports.foldl (fun m q => m ||| 2 ^ q) 0

/-- The four words of a slot-table entry (R186). -/
def Slot.words (co : Core) (sl : Slot) : List Nat :=
  match sl.proc with
  | none => [0, 0, 0, 0]
  | some p =>
    [sl.word0 p, p.wbase / 256 * 2 ^ 32 + p.wsize / 256, p.portMap,
     if sl.state == .blocked || sl.state == .suspended then co.cycleAt sl.since else 0]

/-- The word at offset 8·`i` of the system region. -/
def State.sysWord (s : State) (c i : Nat) : Nat :=
  let co := s.core c
  if i < 0x400 then (((co.queue[i / 8]?).map (Record.words co)).getD [])[i % 8]?.getD 0
  else if i < 0xA00 then (Config.freeWord (2 * (s.now * 2 ^ 32 + c * 2 ^ 16 + i) + 1)).toNat
  else if i < 0xA80 then (((co.ring ((i - 0xA00) / 2)).map (Ring.words co)).getD [])[i % 2]?.getD 0
  else if i < 0xAC0 then (((co.waits.find? fun w => w.place == (i - 0xA80) / 2).map (WaitEntry.words co)).getD [])[i % 2]?.getD 0
  else if i < 0xB00 then ((Slot.words co (co.slot ((i - 0xAC0) / 4)))[i % 4]?).getD 0
  else (((co.trace[(i - 0xB00) / 4]?).map (fun r => r.map BitVec.toNat)).getD [])[i % 4]?.getD 0

/-- A byte of a core's scratchpad or staging SRAM, its system region included (R21, R22, R263). -/
def State.localByte (s : State) (c off : Nat) : Byte :=
  if off < sysBase c then (s.core c).spad.read off
  else
    let o := off - sysBase c
    BitVec.ofNat 8 (s.sysWord c (o / 8) / 2 ^ (8 * (o % 8)))

/-- `n` bytes from an offset up. -/
def State.localBytes (s : State) (c off : Nat) : Nat → List Byte
  | 0 => []
  | n + 1 => s.localByte c off :: s.localBytes c (off + 1) n

end Sys2Proof.Machine
end

