-- ==== Sys2Proof/Machine/Operands.lean ====
section
/-! DEFINITION. Sys2Proof/Machine/Operands.lean: every operand form: immediates and e-registers (R46, R48), lanes and
lane masks (R12, R41, R125), effective addresses and the checks of local ones (R112, R261, R264). -/

namespace Sys2Proof.Machine

/-! ### Immediates -/

/-- The second operand of format F-I (R46, R90): e-register K10[2:0] when E = 1, else K10 sign-extended. -/
def Proc.opI (p : Proc) (e : BitVec 1) (k : BitVec 10) : Word :=
  if e == 1 then p.er (k.extractLsb' 0 3) else k.signExtend 64

/-- A doubleword offset: K sign-extended times a power of two. -/
def offset {n : Nat} (k : BitVec n) (scale : Nat) : Word := k.signExtend 64 * BitVec.ofNat 64 scale

/-! ### Lanes -/

/-- Lane `i` of width `w` (R11). -/
def lane (v : VReg) (w i : Nat) : Nat := v.toNat / 2 ^ (w * i) % 2 ^ w

/-- A vector from its lanes, lane 0 first. -/
def ofLanes (w : Nat) (l : List Nat) : VReg := BitVec.ofNat 256 (packElements w l)

/-- The lane numbers of width `w`. -/
def laneNumbers (w : Nat) : List Nat := List.range (256 / w)

/-- Is lane `i` of width `w` active (R41)? -/
def Proc.active (p : Proc) (g : BitVec 4) (w i : Nat) : Bool := p.guardBit g (w / 8 * i)

/-- Is some lane of width `w` active? -/
def Proc.anyActive (p : Proc) (g : BitVec 4) (w : Nat) : Bool := (laneNumbers w).any fun i => p.active g w i

/-- Apply `f` to the active lanes in increasing order; the others keep their value (R125). -/
def Proc.mapActive (p : Proc) (g : BitVec 4) (w : Nat) (old : VReg) (f : Nat → Fp → Nat × Fp) (x : Fp) : VReg × Fp :=
  let (l, x) := mapFp (fun i x => if p.active g w i then f i x else (lane old w i, x)) (laneNumbers w) x
  (ofLanes w l, x)

/-! ### Local addresses -/

/-- The vcore that a local address names (R261): none when it names no agent. The issuer's vcore is `v`. -/
def namedVcore (pkg v : Nat) (ea : Word) : Option (Nat × Nat) :=
  let vy := bits ea.toNat 45 7
  let vx := bits ea.toNat 38 7
  if ea.getLsbD 62 then
    let y : Int := (v / 64 : Nat) + sInt 7 vy
    let x : Int := (v % 64 : Nat) + sInt 7 vx
    if 0 ≤ y ∧ y ≤ 127 ∧ 0 ≤ x ∧ x ≤ 127 then
      if x.toNat < 64 ∧ (y.toNat < 62 ∨ (64 ≤ y.toNat ∧ y.toNat < 68)) then some (pkg, y.toNat * 64 + x.toNat) else none
    else none
  else if vx < 64 ∧ (vy < 62 ∨ (64 ≤ vy ∧ vy < 68)) then some (bits ea.toNat 52 10, vy * 64 + vx) else none

/-- NamesOwnCore (R112). -/
def State.namesOwn (s : State) (p : Proc) (ea : Word) : Bool :=
  if ea.getLsbD 62 then bits ea.toNat 38 14 == 0
  else bits ea.toNat 52 10 == s.pkgid.toNat && bits ea.toNat 45 7 == p.vcore.toNat / 64
    && bits ea.toNat 38 7 == p.vcore.toNat % 64

/-- Does [off, off + size) lie in the window of `p`? -/
def Proc.inWindow (p : Proc) (off size : Nat) : Bool := decide (p.wbase ≤ off ∧ off + size ≤ p.wbase + p.wsize)

/-- Does some window guard of the core permit the access (R264)? A parked process keeps its window and its guard
(log entry 18). -/
def Core.guarded (co : Core) (ctx off size : Nat) : Bool :=
  ((co.procs.map (·.2)) ++ co.parked.map (·.proc)).any fun p =>
    p.share && p.ctx.toNat == ctx && p.inWindow off size

/-- The answer of LocalCheck (R112): an offset of the own core, a remote address, or a trap cause. -/
inductive Place where
  | own (off : Nat)
  | remote
  | bad (cause : Nat)
  deriving DecidableEq, Repr

/-- LocalCheck (R112, R263). -/
def State.localCheck (s : State) (c : Nat) (p : Proc) (ea : Word) (size align : Nat) (ownOnly load : Bool) : Place :=
  let off := bits ea.toNat 0 18
  if !ea.getLsbD 63 then .bad 5
  else if ea.toNat % align != 0 then .bad 3
  else if bits ea.toNat 18 20 != 0 || (ea.getLsbD 62 && bits ea.toNat 52 10 != 0) then .bad 4
  else if !s.namesOwn p ea then (if ownOnly then .bad 4 else .remote)
  else if spadSize c < off + size then .bad 4
  else if sysBase c ≤ off then (if load && p.priv then .own off else .bad 4)
  else if p.inWindow off size || (s.core c).guarded p.ctx.toNat off size then .own off
  else .bad 4

/-- The granules that [off, off + size) touches. -/
def granulesOf (off size : Nat) : List Nat :=
  (List.range ((off + size + 15) / 16 - off / 16)).map fun i => off / 16 + i

/-- The first granule of an access that belongs to an engine and is not yet filled (R118). -/
def Core.ownedIn (co : Core) (off size : Nat) : Option Nat :=
  (granulesOf off size).find? fun g => co.owned g

/-! ### Global addresses -/

/-- Checks of an atomic's address (R262, R310): ALIGN before BOUND. -/
def globalCheck (a : Word) (n : Nat) : Option Nat :=
  if a.toNat % n != 0 then some 3 else if a.getLsbD 63 then some 4 else none

/-! ### Bodies of vector instructions -/

/-- v[d] from lane-wise work on the active lanes; flags and generator are merged (R125). -/
def Proc.vecLanes (p : Proc) (g : BitVec 4) (w : Nat) (d : BitVec 5) (f : Nat → Fp → Nat × Fp) : Proc :=
  if p.anyActive g w then
    let (v, x) := p.mapActive g w (p.vr d) f p.fp
    (p.setV d v).merge x
  else p

end Sys2Proof.Machine
end

