-- ==== Sys2Proof/Machine/Translate.lean ====
section
/-! DEFINITION. Sys2Proof/Machine/Translate.lean: page tables and walks (R280 to R285), cached translations (R287, R288),
the lease check at a home (R289, R290), homes of physical addresses (R269, R270), and suspension on a translation
fault (R286, R368). -/

namespace Sys2Proof.Machine

/-! ### Leases (R289, R290) -/

/-- Signed difference of two 48-bit clocks. -/
def clockDiff (a b : BitVec 48) : Int := (a - b).toInt

/-- LeaseLen (R290). -/
def leaseLen (k : Nat) : Nat := if k == 0 then 0 else 2 ^ (k + 3)

/-- The clock copy of the die that holds an agent. -/
def State.clockOf (s : State) (c : Nat) : BitVec 48 := (s.die (agentDie c)).clock

/-- Does a home on die `d` reject a request that carries E with LAPSE (R290, R291)? -/
def State.lapses (s : State) (d : Nat) (e : Nat) : Bool :=
  (s.die d).skewed || decide (2 < clockDiff (s.die d).clock (BitVec.ofNat 48 e))

/-- The I/O die of this package behind which an agent's traffic to other packages leaves (R415). -/
def senderIo (c : Nat) : Nat := if c < 4360 then agentDie c / 2 else 0

/-- Does an I/O die reject a request through APERTURE 3 that carries E with LAPSE (R290, R291)? -/
def State.ioLapses (s : State) (io : Nat) (e : Nat) : Bool :=
  let d := (s.ioClocks[io]?).getD (0, false)
  d.2 || decide (2 < clockDiff d.1 (BitVec.ofNat 48 e))

/-! ### Physical memory -/

/-- Bytes of local HBM (R268). -/
def hbmSize : Nat := 384 * 2 ^ 30

/-- Home of a physical address (R269). -/
def homeOf (pa : Nat) : Nat := 4096 + 64 * bits pa 16 2 + (bits pa 8 6 ^^^ bits pa 18 6)

/-- The memory core at the home of a line, as it stands. -/
def State.home (s : State) (h : Nat) : Home := (kget s.homes h).getD Home.reset

def State.modHome (s : State) (h : Nat) (f : Home → Home) : State := { s with homes := kset s.homes h (f (s.home h)) }

/-- The 256-byte line of a physical address (R269). -/
def lineOf (pa : Nat) : Nat := pa / 256

/-- Does one of the lines of [pa, pa + n) lie locked at its home (R359)? Only aperture 0 has such lines. -/
def State.locked (s : State) (ap pa n : Nat) : Bool :=
  ap == 0 && ((s.home (homeOf pa)).locked.any (fun l => l.1 == lineOf pa)
    || (s.home (homeOf (pa + n - 1))).locked.any fun l => l.1 == lineOf (pa + n - 1))

/-- Does the path from the home of a request to the host interface unit, which apertures 1 and 2 take, carry nothing (R270, R421)? -/
def State.hostHeld (s : State) (ap pa : Nat) : Bool :=
  (ap == 1 || ap == 2) && !s.hostOpen (homeOf pa)

/-- Must a request wait at its home: for a locked line, or for the way to the host interface unit (R359, R421)? -/
def State.homeHeld (s : State) (ap pa n : Nat) : Bool := s.locked ap pa n || s.hostHeld ap pa

/-- Before a device write to [pa, pa + n) of the HBM, its homes invalidate the host's copies of those lines (R433). -/
def State.backInvalidate (s : State) (pa n : Nat) : State :=
  ((List.range ((pa + n - 1) / 64 + 1 - pa / 64)).map fun i => pa / 64 + i).foldl
    (fun s l =>
      let h := homeOf (64 * l)
      if (s.home h).host.contains l then
        (s.modHome h fun x => { x with host := x.host.filter fun m => m != l }).out (.backInvalidate (64 * l))
      else s) s

/-- Tell the watchers of one line that it has been written (R295, R435). -/
def State.notifyLine (s : State) (ap pa : Nat) : State :=
  if ap == 0 then
    let h := homeOf pa
    ((s.home h).watches.filter fun w => lineOf w.pa == lineOf pa).foldl
      (fun s w => s.send h w.who.core 2 (.watchNote w.who w.va)) s
  else
    (s.monitors.filter fun m => m.ap == ap && lineOf m.pa == lineOf pa).foldl
      (fun s m => s.send hostUnit m.who.core 2 (.watchNote m.who m.va)) s

/-- Tell the watchers of the lines of [pa, pa + n), at most two, that they have been written (R295, R435). -/
def State.notifyWatch (s : State) (ap pa n : Nat) : State :=
  let s := s.notifyLine ap pa
  if lineOf (pa + n - 1) == lineOf pa then s else s.notifyLine ap (pa + n - 1)

/-- The memory of an aperture (R283). -/
def State.phys (s : State) (ap : Nat) : Mem := if ap == 0 then s.hbm else if ap == 1 then s.hostMem else s.cxlMem

def State.setPhys (s : State) (ap : Nat) (m : Mem) : State :=
  if ap == 0 then { s with hbm := m } else if ap == 1 then { s with hostMem := m } else { s with cxlMem := m }

/-! ### Page tables -/

/-- Needs of R284: bit 0 R, bit 1 W, bit 2 X, bit 3 RAP when the leaf's APERTURE is 3. -/
def needR : Nat := 1
def needW : Nat := 2
def needX : Nat := 4
def needRmw : Nat := 11

def leafAp (w : Word) : Nat := bits w.toNat 12 4
def leafFrame (w : Word) : Nat := bits w.toNat 26 36

/-- Page size of a leaf level as a power of two (R281). -/
def pageBits (level : Nat) : Nat := 16 + 9 * (3 - level)

/-- Is a valid entry malformed (R281 to R283)? -/
def malformed (w : Word) (level : Nat) : Bool :=
  if w.getLsbD 1 then
    level == 0 || bits w.toNat 62 2 != 0 || decide (3 < leafAp w) || (bits w.toNat 16 10 != 0 && leafAp w != 3)
      || (leafAp w == 0 && decide (6291455 < leafFrame w)) || (level == 2 && leafFrame w % 512 != 0)
      || (level == 1 && leafFrame w % 262144 != 0)
  else level == 3 || bits w.toNat 52 12 != 0 || bits w.toNat 2 10 != 0

/-- Does a leaf give the permissions R, W and X of a need, and RAP where it is needed (R284)? -/
def permits (w : Word) (need : Nat) : Bool := (need % 8) &&& bits w.toNat 2 3 == need % 8

def lacksRap (w : Word) (need : Nat) : Bool := decide (8 ≤ need) && leafAp w == 3 && !w.getLsbD 5

/-- The outcome of a walk. -/
inductive WalkRes where
  /-- A table would lie outside the HBM. -/
  | noPhys (pa : Nat)
  /-- No walker is free, or a table lies in a line that is locked at its home (R287, R359). -/
  | later
  /-- A translation fault (R286) and the RAP bit of its record (R369), with the state after the walk. -/
  | fault (kind : Nat) (rap : Bool) (s : State)
  /-- The translation, with whether it may be cached (class 0 is single-use, R290), and the state with A and D set. -/
  | ok (t : Tlb) (cached : Bool) (s : State)
  deriving DecidableEq

/-- The levels of a walk from `level` up, through the table at `t` (R285): at most `fuel` of them. -/
def State.walkFrom (s : State) (ctx : Nat) (va : Word) (need : Nat) (c0 : BitVec 48) (lcmax : Nat) :
    Nat → Nat → Nat → WalkRes
  | 0, _, _ => .fault 4 false s
  | fuel + 1, level, t =>
    let pa := t + 8 * bits va.toNat (43 - 9 * level) 9
    if hbmSize ≤ pa then .noPhys pa
    else if s.locked 0 pa 8 then .later
    else
      let w := s.hbm.word pa
      if !w.getLsbD 0 then .fault 1 false s
      else if malformed w level then .fault 4 false s
      else if !w.getLsbD 1 then s.walkFrom ctx va need c0 lcmax fuel (level + 1) (bits w.toNat 12 40 * 4096)
      else
        let rap := decide (8 ≤ need) && leafAp w == 3
        if lacksRap w need then .fault 3 rap s
        else if !permits w need then .fault 2 rap s
        else
          let w' := w ||| 0x40 ||| (if need &&& 2 != 0 then 0x80 else 0)
          let k := min (bits w.toNat 8 4) lcmax
          let s := if w' == w then s
            else { s.backInvalidate pa 8 with hbm := s.hbm.putNat pa 8 w'.toNat }.notifyWatch 0 pa 8
          .ok { ctx := ctx, va := va.toNat / 2 ^ pageBits level, level := level, leaf := w',
                drec := need &&& 2 != 0, exp := c0 + BitVec.ofNat 48 (leaseLen k) }
            (k != 0) s

/-- A walk under a context whose clock sample is `c0` (R285). -/
def State.walk (s : State) (ctx : Nat) (va : Word) (need : Nat) (c0 : BitVec 48) : WalkRes :=
  if bits va.toNat 52 12 != 0 then .fault 1 false s
  else
    let d := s.ctxbase + 64 * ctx
    if hbmSize ≤ d then .noPhys d
    else if s.locked 0 d 8 then .later
    else
      let w := s.hbm.word d
      if !w.getLsbD 0 then .fault 1 false s
      else s.walkFrom ctx va need c0 (bits w.toNat 8 4) 4 0 (bits w.toNat 12 40 * 4096)

/-- SHARE of a context descriptor (R264, R280). -/
def State.shareOf (s : State) (ctx : Nat) : Bool := (s.hbm.word (s.ctxbase + 64 * ctx)).getLsbD 1

/-! ### Cached translations -/

/-- The physical address of a translated address. -/
def Tlb.pa (t : Tlb) (va : Word) : Nat := leafFrame t.leaf * 65536 + va.toNat % 2 ^ pageBits t.level

/-- May a cached translation serve a request now (R287, R288)? -/
def Tlb.serves (t : Tlb) (ctx : Nat) (va : Word) (need : Nat) (now : BitVec 48) : Bool :=
  t.ctx == ctx && t.va == va.toNat / 2 ^ pageBits t.level && decide (clockDiff now t.exp < 0)
    && permits t.leaf need && !lacksRap t.leaf need && (need &&& 2 == 0 || t.drec)

/-- The request that a translation makes of its home. -/
def Tlb.req (t : Tlb) (ctx : Nat) (va : Word) : HomeReq :=
  { pa := t.pa va, ap := leafAp t.leaf, peer := bits t.leaf.toNat 16 10, exp := t.exp.toNat, ctx := ctx, va := va, self := none }

/-- The cluster of an agent (R287). The two service cores of a die, which the grids do not hold, form one of their own (log
entry 40). -/
def clusterOf (c : Nat) : Nat :=
  if c < 4096 then c / 1024 * 64 + c % 1024 / 32 / 4 * 8 + c % 32 / 4
  else if c < 4352 then 256 + (c - 4096) / 16
  else 272 + agentDie c

/-- The die of a cluster. -/
def clusterDie (q : Nat) : Nat := if q < 256 then q / 64 else if q < 272 then (q - 256) / 4 else q - 272

/-- Entries of an agent's TLB for fetches, or for its other requests; a memory core has one TLB (R287). -/
def Core.tlb (co : Core) (c : Nat) (fetch : Bool) : List Tlb := if fetch && c < 4096 then co.itlb else co.dtlb

/-- Does a single-use translation serve this request (R290)? -/
def Tlb.servesOnce (t : Tlb) (ctx : Nat) (va : Word) (need : Nat) : Bool :=
  t.ctx == ctx && t.va == va.toNat / 2 ^ pageBits t.level && permits t.leaf need && !lacksRap t.leaf need
    && (need &&& 2 == 0 || t.drec)

/-- A translation at hand: one walked for this process's request (`use` 0, for its fetch 1, for that of a TRET.skip 2), in the TLB,
or in the second level. -/
def State.lookup (s : State) (c uid ctx : Nat) (va : Word) (need use : Nat) : Option Tlb :=
  let co := s.core c
  if (s.die (agentDie c)).skewed then none
  else match co.once.find? fun e => e.1 == 3 * uid + use && e.2.servesOnce ctx va need with
    | some e => some e.2
    | none => (co.tlb c (use != 0) ++ (kget s.l2 (clusterOf c)).getD []).find? fun t => t.serves ctx va need (s.clockOf c)

/-- The single-use translations of a process for one use are spent. -/
def State.spendOnce (s : State) (c uid use : Nat) : State :=
  s.modCore c fun co => { co with once := co.once.filter fun e => e.1 != 3 * uid + use }

/-- The single-use translations of a process's requests other than its fetches are spent. -/
def State.spend (s : State) (c uid : Nat) : State := s.spendOnce c uid 0

/-- Put a translation into the caches of an agent (R287), or keep it for the one request of class 0 (R290). -/
def State.cacheTlb (s : State) (c uid use : Nat) (t : Tlb) (cached : Bool) : State :=
  if !cached then s.modCore c fun co => { co with once := co.once ++ [(3 * uid + use, t)] }
  else
    let s := s.modCore c fun co =>
      if use != 0 && c < 4096 then { co with itlb := (t :: co.itlb).take 32 }
      else { co with dtlb := (t :: co.dtlb).take (if c < 4096 then 64 else 128) }
    { s with l2 := kset s.l2 (clusterOf c) ((t :: (kget s.l2 (clusterOf c)).getD []).take 2048) }

/-- Is the agent a core in boot mode (R449)? -/
def State.inBoot (s : State) (c : Nat) : Bool := decide (c < 4096) && (s.core c).boot

/-! ### Walkers (R285, R287, R291) -/

/-- The walks of a cluster. -/
def State.walksAt (s : State) (q : Nat) : List Walk := (kget s.walkers q).getD []

/-- A walk is started for an agent (R408). -/
def State.countWalk (s : State) (c : Nat) : State := s.modCore c fun co => { co with walks := co.walks + 1 }

/-- A request of an agent's process is resent after LAPSE (R290, R408, R409). -/
def State.countLapse (s : State) (c uid : Nat) : State :=
  (s.modCore c fun co => { co with lapses := co.lapses + 1 }).countFor c uid 11 1

/-- `n` free walkers take the oldest walks that wait, with the clock sample and the cycle of their start; the agents they are for. -/
def takeWalkers (c0 : BitVec 48) (now : Nat) : Nat → List Walk → List Walk × List Nat
  | 0, ws => (ws, [])
  | _, [] => ([], [])
  | n + 1, w :: ws =>
    if w.run.isSome then
      let r := takeWalkers c0 now (n + 1) ws
      (w :: r.1, r.2)
    else
      let r := takeWalkers c0 now n ws
      ({ w with run := some (c0, now) } :: r.1, w.core :: r.2)

/-- Free walkers of a cluster take the walks that wait, in order (R287); none on a die under a skew fault (R291). -/
def State.runWalks (s : State) (q : Nat) : State :=
  let d := s.die (clusterDie q)
  if d.skewed then s
  else
    let ws := s.walksAt q
    let r := takeWalkers d.clock s.now (16 - (ws.filter fun w => w.run.isSome).length) ws
    r.2.foldl (fun s c => s.countWalk c) { s with walkers := kset s.walkers q r.1 }

/-- A request needs a walk: it joins the walk of its page, or a new one takes its place in the order (R287). -/
def State.joinWalk (s : State) (c ctx : Nat) (va : Word) : State :=
  let q := clusterOf c
  let ws := s.walksAt q
  let page := va.toNat / 65536
  if ws.any fun w => w.ctx == ctx && w.page == page then s
  else
    let w : Walk := { core := c, ctx := ctx, page := page, run := none }
    ({ s with walkers := kset s.walkers q (ws ++ [w]) } : State).runWalks q

/-- May an agent walk a page at once on its own account: a walker of its cluster is free, none walks that page, and the die is under
no skew fault (R287, R291)? -/
def State.walkerFree (s : State) (c ctx : Nat) (va : Word) : Bool :=
  let ws := s.walksAt (clusterOf c)
  !(s.die (agentDie c)).skewed && decide (ws.length < 16) && !ws.any fun w => w.ctx == ctx && w.page == va.toNat / 65536

/-- A walk that an agent makes on its own account, in one step (log entry 40): a record's header, an engine or memory-core unit, a
launch agent (R287, R294). -/
def State.ownWalk (s : State) (c ctx : Nat) (va : Word) (need : Nat) : WalkRes :=
  if !s.walkerFree c ctx va then .later
  else match s.walk ctx va need (s.clockOf c) with
    | .ok t cached s' => .ok t cached (s'.countWalk c)
    | .fault k r s' => .fault k r (s'.countWalk c)
    | r => r

/-- How a request is translated when an agent walks on its own account. -/
def State.translate (s : State) (c uid ctx : Nat) (va : Word) (need : Nat) : WalkRes :=
  if s.inBoot c then .fault 1 false s
  else match s.lookup c uid ctx va need 0 with
    | some t => .ok t true (s.spend c uid)
    | none =>
      match s.ownWalk c ctx va need with
      | .ok t cached s' => .ok t cached (if cached then s'.cacheTlb c uid 0 t true else s')
      | r => r

/-- How a request of an agent reaches its home: the request, a fault, later (its walk waits, or its home rejects it with LAPSE, R291),
or an address that does not exist. -/
inductive Reach where
  | ok (r : HomeReq) (s : State)
  | fault (kind : Nat) (rap : Bool) (s : State)
  | later (s : State)
  | noPhys (pa : Nat)
  deriving DecidableEq

/-- Translate an agent's request and check its lease at the home (R285, R290, R291). -/
def State.reach (s : State) (c uid ctx : Nat) (va : Word) (need : Nat) : Reach :=
  match s.translate c uid ctx va need with
  | .noPhys pa => .noPhys pa
  | .later => .later s
  | .fault k r s' => .fault k r s'
  | .ok t _ s' =>
    let r := t.req ctx va
    if r.ap != 3 && s'.lapses (agentDie (homeOf r.pa)) r.exp then .later (s'.countLapse c uid) else .ok r s'

/-! ### Class 0 translations of one operation (R294, log entry 36) -/

/-- A leaf without A and D (R294). -/
def leafFields (w : Word) : Word := w &&& ~~~(0xC0 : Word)

/-- Does a translation cover an address? -/
def Tlb.covers (t : Tlb) (va : Word) : Bool := t.va == va.toNat / 2 ^ pageBits t.level

/-- The class 0 translation that an engine's request at an address would walk now. -/
def State.walksOnce (s : State) (c ctx : Nat) (va : Word) (need : Nat) : Option Tlb :=
  match s.translate c (2 ^ 64) ctx va need with
  | .ok t false _ => some t
  | _ => none

/-- Does a walked entry differ from the one that the operation walked before (R294)? -/
def changedFrom (once : List Tlb) (va : Word) (t : Tlb) : Bool :=
  once.any fun u => u.covers va && !(u.level == t.level && leafFields u.leaf == leafFields t.leaf)

/-- The translations of an operation other than that of an address. -/
def forgetOnce (once : List Tlb) (va : Word) : List Tlb := once.filter fun u => !u.covers va

/-- The owner name of requests that no process makes. -/
def noUid : Nat := 2 ^ 64

/-- `n` bytes of memory at a request's address. What memory of a peer package holds is free (log entry 21). -/
def State.globalBytes (s : State) (r : HomeReq) (n : Nat) : List Byte :=
  if r.ap == 3 then (List.range n).map fun i => (Config.freeWord (2 * (s.now * 2 ^ 52 + r.pa + i))).truncate 8
  else (s.phys r.ap).bytes r.pa n

/-- How an agent's own read of memory goes: the bytes, a fault, a refusal through APERTURE 3, later, or no such address. -/
inductive OwnRead where
  | ok (bs : List Byte) (s : State)
  | fault (kind : Nat) (rap : Bool) (s : State)
  | refused (s : State)
  | later (s : State)
  | noPhys (pa : Nat)
  deriving DecidableEq

/-- The name of an agent's own read of a peer package. -/
def farKey (ctx : Nat) (va : Word) : Nat := va.toNat * 4096 + ctx

/-- An agent reads `n` bytes of global memory on its own account. A locked line makes it wait (R359); memory of a peer package is asked
for, and read once the answer has come (R425, R464). A read that its home rejects with LAPSE is made again (log entry 40). -/
def State.ownRead (s : State) (c ctx : Nat) (va : Word) (need n : Nat) : OwnRead :=
  let key := farKey ctx va
  match kget (s.core c).farReads key with
  | some none => .later s
  | some (some a) =>
    let s := s.modCore c fun co => { co with farReads := kdel co.farReads key }
    (match a with | some bs => .ok bs s | none => .refused s)
  | none =>
    match s.reach c noUid ctx va need with
    | .noPhys pa => .noPhys pa
    | .fault k r s' => .fault k r s'
    | .later _ => .later s
    | .ok r s' =>
      if r.ap == 3 then
        .later ((s'.modCore c fun co => { co with farReads := kset co.farReads key none }).sendTo c (s.dest r.peer (homeOf r.pa)) 1
          (.farRead r n { core := c, uid := key }))
      else if s.homeHeld r.ap r.pa n then .later s
      else .ok ((s.phys r.ap).bytes r.pa n) s'

/-- The answer to an agent's own read has come: the bytes, or none when it was refused (R464). -/
def State.farAnswer (s : State) (who : Who) (a : Option (List Byte)) : State :=
  s.modCore who.core fun co =>
    if (kget co.farReads who.uid).isSome then { co with farReads := kset co.farReads who.uid (some a) } else co

/-! ### Suspension on a fault (R286, R368, R369) -/

/-- The KIND 0x18 record (R369). -/
def faultWords (fkind need : Nat) (rap : Bool) (source : Nat) (cookie : Half) (origin va info : Word) : List Word :=
  [kindWord 0x18 fkind ||| BitVec.ofNat 64 ((need / 4 % 2 * 8 + need / 2 % 2 * 4 + need % 2 * 2 + bit rap) * 2 ^ 44
     + source * 2 ^ 40 + cookie.toNat), origin, va, info]

/-- Note an outstanding fault of an agent: its record is to be sent. -/
def State.raiseFault (s : State) (c uid source obj fkind need : Nat) (rap : Bool) (origin va info : Word) :
    State × Half :=
  let co := s.core c
  let cookie := Config.cookieBase c + BitVec.ofNat 32 co.cookies
  let f : Outstanding :=
    { cookie := cookie, uid := uid, source := source, obj := obj,
      msg := faultWords fkind need rap source cookie origin va info, stage := 0, next := s.now }
  (s.setCore c { co with cookies := co.cookies + 1, faults := co.faults ++ [f] }, cookie)

/-- The instruction of a slot that waits in a fetch. -/
def fetchInstr : Instr := .illegalWord 0

/-- Suspend a slot whose request faulted: no effect, one record to the pager (R368). While the core is in boot mode no
record is sent: the slot stays SUSPENDED until BOOT = 0 (R449). -/
def State.suspend (s : State) (c k : Nat) (p : Proc) (i : Instr) (source : Nat) (va : Word) (need fkind : Nat)
    (rap : Bool) : State :=
  let boot := s.inBoot c
  let (s, cookie) := if boot then (s, 0)
    else s.raiseFault c p.uid source 0 fkind need rap (s.selfWord k p) va p.pc
  let s := s.traceProc c k p 0x34 fkind va (BitVec.ofNat 64 cookie.toNat)
  s.modCore c fun co => co.setSlot k
    { co.slot k with state := .suspended, since := s.now,
                     proc := some { p with wait := some { instr := i, kind := .walk va need source } } }

/-- Start a walk for a request of a process (R285, R287). -/
def State.startWalk (s : State) (c : Nat) (p : Proc) (va : Word) (need source : Nat) : Act :=
  .hold (s.joinWalk c p.ctx.toNat va) (.walk va need source)

end Sys2Proof.Machine
end

