-- ==== Sys2Proof/Machine/Fetch.lean ====
section
/-! DEFINITION. Sys2Proof/Machine/Fetch.lean: instruction fetch (R36 to R38, R102, R449) and the fetch of one halfword that
TRET.skip makes (R33). -/

namespace Sys2Proof.Machine

/-- What a fetch of one aligned 4-byte unit gives. -/
inductive Unit4 where
  | word (v : Nat) (s : State)
  /-- No translation is at hand, or the request that used it was rejected with LAPSE. -/
  | walk (lapsed : Bool)
  /-- The unit lies in a line that is locked at its home, or behind a bridge that carries nothing (R359, R421). -/
  | held (ap pa : Nat)
  /-- The fetch faults at once, in boot mode (R449). -/
  | boot
  /-- The unit lies in a peer package and has been asked for (R464). -/
  | far (req : HomeReq)
  deriving DecidableEq

/-- Note a fetched unit in the instruction cache, which holds 16 KiB (R1). -/
def Core.keepUnit (co : Core) (ap pa : Nat) (v : Half) : Core :=
  { co with icache := ((ap, pa, v) :: co.icache.filter fun e => !(e.1 == ap && e.2.1 == pa)).take 4096 }

/-- IFLUSH clears the instruction cache; a unit of a peer package that was asked for before does not enter it (R111). -/
def Core.flushUnits (co : Core) : Core :=
  let stale := fun w : Waiting => match w.kind with
    | .fetchFar tag pa _ => { w with kind := .fetchFar tag pa false }
    | _ => w
  { co with icache := [], slots := co.slots.map fun sl => { sl with proc := sl.proc.map fun p => { p with wait := p.wait.map stale } } }

/-- Fetch the unit at `a`, a multiple of 4, for process `p` and one use of its single-use translations (R38). DESIGN CHOICE, within
the old or new contents that R38 allows before an IFLUSH (log entry 41): a unit that the cache does not hold comes from memory as it
stands, so it is new; a unit of this package that the cache holds and that memory has changed since may come old or new; a unit of a
peer package that the cache holds comes as it was fetched, so it is old. A single-use translation serves one instruction, whose
fetch spends it (R290). -/
def State.unitAt (s : State) (c : Nat) (p : Proc) (a : Word) (use : Nat) : Unit4 :=
  let co := s.core c
  if s.inBoot c then
    if a.toNat < 0x4000 then .word (co.bootMem.nat a.toNat 4) s else .boot
  else match s.lookup c p.uid p.ctx.toNat a needX use with
    | none => .walk false
    | some t =>
      let r := t.req p.ctx.toNat a
      let tag := r.ap * 1024 + r.peer
      let hit := co.icache.find? fun e => e.1 == tag && e.2.1 == r.pa
      if r.ap == 3 then
        match hit with
        | some e => .word e.2.2.toNat s
        | none => .far r
      else if s.lapses (agentDie (homeOf r.pa)) r.exp then .walk true
      else
        let v : Half := BitVec.ofNat 32 ((s.phys r.ap).nat r.pa 4)
        match hit with
        | none => if s.homeHeld r.ap r.pa 4 then .held r.ap r.pa else .word v.toNat (s.modCore c fun co => co.keepUnit tag r.pa v)
        | some e =>
          if e.2.2 == v then .word v.toNat s
          else
            let (old, s) := s.freeBit
            if old then .word e.2.2.toNat s
            else if s.homeHeld r.ap r.pa 4 then .held r.ap r.pa
            else .word v.toNat (s.modCore c fun co => co.keepUnit tag r.pa v)

/-- The halfword at an even address. -/
inductive Fetched where
  | code (bytes : List Byte) (s : State)
  | stop (s : State)
  deriving DecidableEq

/-- Put a slot that could not fetch into its wait: a walk, a suspension in boot mode, a locked line, or a read of a peer package. -/
def State.fetchWait (s : State) (c k : Nat) (p : Proc) (i : Instr) (a : Word) (use : Nat) : Unit4 → State
  | .word _ s => s
  | .walk lapsed =>
    let s := if lapsed then (s.spendOnce c p.uid use).countLapse c p.uid else s
    (s.joinWalk c p.ctx.toNat a).block c k i (.walk a needX 0)
  | .held ap pa => s.block c k i (.fetchLine ap pa)
  | .boot => s.suspend c k p i 0 a needX 1 false
  | .far r =>
    (s.sendTo c (s.dest r.peer (homeOf r.pa)) 1
      (.amo r 0 false 0 0 { core := c, uid := p.uid } false none)).block c k i (.fetchFar (r.ap * 1024 + r.peer) r.pa true)

/-- The two bytes of the halfword at `a` in its unit. -/
def halfBytes (v : Nat) (a : Word) : List Byte := leBytes (v / 2 ^ (8 * (a.toNat % 4))) 2

/-- The bytes at `a` of the process in slot `k`: two, or, at pc, four when they begin a longer instruction (R36). Instruction `i`
names the wait if the fetch must wait; `use` tells the fetch at pc (1) from that of a TRET.skip (2). -/
def State.fetchAt (s : State) (c k : Nat) (p : Proc) (i : Instr) (a : Word) (use : Nat) : Fetched :=
  let a0 := a - BitVec.ofNat 64 (a.toNat % 4)
  match s.unitAt c p a0 use with
  | .word v s1 =>
    let h := halfBytes v a
    let wide := (h.headD 0).getLsbD 0
    if !wide || use == 2 then .code h (s1.spendOnce c p.uid use)
    else if a.toNat % 4 == 0 then .code (leBytes v 4) (s1.spendOnce c p.uid use)
    else match s1.unitAt c p (a0 + 4) use with
      | .word v2 s2 => .code (h ++ leBytes v2 2) (s2.spendOnce c p.uid use)
      | u => .stop (s1.fetchWait c k p i (a0 + 4) use u)
  | u => .stop (s.fetchWait c k p i a0 use u)

end Sys2Proof.Machine
end

