-- ==== Sys2Proof/Machine/Scalar.lean ====
section
/-! DEFINITION. Sys2Proof/Machine/Scalar.lean: register arithmetic, immediates, bit fields, moves, compares, predicates,
control transfers, traps and extension registers (R88 to R106), and the compact forms of these (R56, R57). -/

namespace Sys2Proof.Machine

/-! ### Shared forms -/

/-- x[D] from x[A] and x[B] under a single guard (R89). -/
def binOp (i : Instr) (g : BitVec 4) (b a d : BitVec 5) (f : Word → Word → Word) (s : State) : Out :=
  regInstr i s [ux b, ux a, ux d] (fun p => p.guardBit g 0) fun p => p.setX d (f (p.xr a) (p.xr b))

/-- x[D] from x[A] under a single guard. -/
def unOp (i : Instr) (g : BitVec 4) (a d : BitVec 5) (f : Word → Word) (s : State) : Out :=
  regInstr i s [ux a, ux d] (fun p => p.guardBit g 0) fun p => p.setX d (f (p.xr a))

/-- x[D] from x[A] and the F-I operand (R90). -/
def immOp (i : Instr) (g : BitVec 4) (e : BitVec 1) (k : BitVec 10) (a d : BitVec 5) (f : Word → Word → Word)
    (s : State) : Out :=
  regInstr i s [ux a, ux d] (fun p => p.guardBit g 0) fun p => p.setX d (f (p.xr a) (p.opI e k))

/-- A 4-bit register field of a compact form. -/
def r5 (r : BitVec 4) : BitVec 5 := r.zeroExtend 5

/-! ### Values (R89, R91, R93, R95) -/

def mulhW (u : BitVec 1) (a b : Word) : Word :=
  if u == 1 then BitVec.ofNat 64 (a.toNat * b.toNat / 2 ^ 64) else BitVec.ofInt 64 (a.toInt * b.toInt / 2 ^ 64)

def divW (u : BitVec 1) (a b : Word) : Word :=
  if b == 0 then BitVec.allOnes 64
  else if u == 1 then BitVec.udiv a b
  else if a == 0x8000000000000000 && b == BitVec.allOnes 64 then a
  else BitVec.sdiv a b

def remW (u : BitVec 1) (a b : Word) : Word :=
  if b == 0 then a
  else if u == 1 then BitVec.umod a b
  else if a == 0x8000000000000000 && b == BitVec.allOnes 64 then 0
  else BitVec.srem a b

def lessW (u : BitVec 1) (a b : Word) : Bool := if u == 1 then BitVec.ult a b else BitVec.slt a b

def shlW (a b : Word) : Word := a <<< (b.toNat % 64)
def shrW (a b : Word) : Word := a >>> (b.toNat % 64)
def shaW (a b : Word) : Word := BitVec.sshiftRight a (b.toNat % 64)
def rotlW (a b : Word) : Word := if b.toNat % 64 == 0 then a else a <<< (b.toNat % 64) ||| a >>> (64 - b.toNat % 64)

def clzW (a : Word) : Word := if a == 0 then 64 else BitVec.ofNat 64 (63 - Nat.log2 a.toNat)

/-- Trailing zeros counted from bit `i` up, at most `n` of them. -/
def ctzFrom (a : Word) : Nat → Nat → Nat
  | 0, _ => 0
  | n + 1, i => if a.getLsbD i then 0 else ctzFrom a n (i + 1) + 1

def ctzW (a : Word) : Word := BitVec.ofNat 64 (ctzFrom a 64 0)

/-- Ones among the lowest `n` bits. -/
def onesBelow (a : Word) : Nat → Nat
  | 0 => 0
  | n + 1 => bit (a.getLsbD n) + onesBelow a n

def popcW (a : Word) : Word := BitVec.ofNat 64 (onesBelow a 64)

/-- Length of the field that x[B] names (R94, R95). -/
def bfLen (b : Word) : Nat := min (bits b.toNat 8 7) (64 - bits b.toNat 0 6)

def bfxW (a b : Word) : Word :=
  let n := a.toNat / 2 ^ bits b.toNat 0 6 % 2 ^ bfLen b
  if b.getLsbD 15 && bfLen b != 0 then BitVec.ofInt 64 (sInt (bfLen b) n) else BitVec.ofNat 64 n

def bfiW (old a b : Word) : Word :=
  let mask : Word := BitVec.ofNat 64 (2 ^ bfLen b - 1)
  (old &&& ~~~(mask <<< bits b.toNat 0 6)) ||| ((a &&& mask) <<< bits b.toNat 0 6)

/-- Compare of 64-bit values (R99). -/
def compareW (u : BitVec 1) (cond : BitVec 3) (a b : Word) : Bool :=
  if u == 1 then condHolds cond.toNat a.toNat b.toNat else condHolds cond.toNat a.toInt b.toInt

/-- The predicate a compare writes (R99). -/
def predOf (c : Bool) : Half := if c then 0xFFFFFFFF else 0

/-! ### Register arithmetic and logic (R89) -/

/-- ADD (R89). -/
def execAdd (g : BitVec 4) (b a d : BitVec 5) (s : State) : Out := binOp (.add g b a d) g b a d (· + ·) s

/-- SUB (R89). -/
def execSub (g : BitVec 4) (b a d : BitVec 5) (s : State) : Out := binOp (.sub g b a d) g b a d (· - ·) s

/-- MUL (R89). -/
def execMul (g : BitVec 4) (b a d : BitVec 5) (s : State) : Out := binOp (.mul g b a d) g b a d (· * ·) s

/-- MULH (R89). -/
def execMulh (g : BitVec 4) (u : BitVec 1) (b a d : BitVec 5) (s : State) : Out :=
  binOp (.mulh g u b a d) g b a d (mulhW u) s

/-- AND (R89). -/
def execAnd (g : BitVec 4) (b a d : BitVec 5) (s : State) : Out := binOp (.and g b a d) g b a d (· &&& ·) s

/-- OR (R89). -/
def execOr (g : BitVec 4) (b a d : BitVec 5) (s : State) : Out := binOp (.or g b a d) g b a d (· ||| ·) s

/-- XOR (R89). -/
def execXor (g : BitVec 4) (b a d : BitVec 5) (s : State) : Out := binOp (.xor g b a d) g b a d (· ^^^ ·) s

/-- SHL (R89). -/
def execShl (g : BitVec 4) (b a d : BitVec 5) (s : State) : Out := binOp (.shl g b a d) g b a d shlW s

/-- SHR (R89). -/
def execShr (g : BitVec 4) (b a d : BitVec 5) (s : State) : Out := binOp (.shr g b a d) g b a d shrW s

/-- SHA (R89). -/
def execSha (g : BitVec 4) (b a d : BitVec 5) (s : State) : Out := binOp (.sha g b a d) g b a d shaW s

/-- ROTL (R89). -/
def execRotl (g : BitVec 4) (b a d : BitVec 5) (s : State) : Out := binOp (.rotl g b a d) g b a d rotlW s

/-- MIN (R89). -/
def execMin (g : BitVec 4) (u : BitVec 1) (b a d : BitVec 5) (s : State) : Out :=
  binOp (.min g u b a d) g b a d (fun a b => if lessW u a b then a else b) s

/-- MAX (R89). -/
def execMax (g : BitVec 4) (u : BitVec 1) (b a d : BitVec 5) (s : State) : Out :=
  binOp (.max g u b a d) g b a d (fun a b => if lessW u a b then b else a) s

/-- SEL reads its guard as a selector and always writes (R42, R89). -/
def execSel (g : BitVec 4) (b a d : BitVec 5) (s : State) : Out :=
  regInstr (.sel g b a d) s [ux b, ux a, ux d] (fun _ => true) fun p =>
    p.setX d (if p.guardBit g 0 then p.xr a else p.xr b)

/-- Issue to the core's divider (R88): it serves one instruction for 24 cycles, in issue order. -/
def divIssue (i : Instr) (g : BitVec 4) (b a d : BitVec 5) (s : State) : Out :=
  instr i s (fun _ p => { uses := [ux b, ux a, ux d], guard := p.guardBit g 0 }) fun s c _ p =>
    let co := s.core c
    if co.divider.isNone && co.divq.isEmpty then
      .hold (s.setCore c { co with divider := some p.uid }) (.divRun (s.now + 24))
    else .hold (s.setCore c { co with divq := co.divq.filter (· != p.uid) ++ [p.uid] }) .divQueue

/-- DIV (R88, R89). -/
def execDiv (g : BitVec 4) (u : BitVec 1) (b a d : BitVec 5) (s : State) : Out := divIssue (.div g u b a d) g b a d s

/-- REM (R88, R89). -/
def execRem (g : BitVec 4) (u : BitVec 1) (b a d : BitVec 5) (s : State) : Out := divIssue (.rem g u b a d) g b a d s

/-- The process with the result of a DIV or REM written (R89). -/
def Proc.divided (p : Proc) : Instr → Proc
  | .div _ u b a d => p.setX d (divW u (p.xr a) (p.xr b))
  | .rem _ u b a d => p.setX d (remW u (p.xr a) (p.xr b))
  | _ => p

/-- DIVIDER_GRANT: the divider of core `c` takes the process that has waited longest; one that was parked
meanwhile becomes ready and issues again (R88, R147). -/
def execDividerGrant (s : State) : Out :=
  let c := s.ev.c
  let co := s.core c
  match co.divider, co.divq with
  | none, uid :: rest =>
    match co.blockedSlot uid with
    | none => .next ((s.setCore c { co with divq := rest }).reissue c uid)
    | some k =>
      let sl := co.slot k
      let run := fun p : Proc => { p with wait := p.wait.map fun w => { w with kind := .divRun (s.now + 24) } }
      .next (s.setCore c ({ co with divider := some uid, divq := rest }.setSlot k { sl with proc := sl.proc.map run }))
  | _, _ => .next s

/-- DIVIDER_DONE: 24 cycles after the grant the result is written (R88, R89). -/
def execDividerDone (s : State) : Out :=
  let c := s.ev.c
  match (s.core c).divider with
  | none => .next s
  | some uid =>
    match s.waitOf c uid with
    | some (.divRun till) =>
      if s.now < till then .next s
      else
        let s := s.modCore c fun co => { co with divider := none }
        .next (s.resume c uid fun s k p i => .go (s.setProc c k (p.divided i)))
    | _ => .next (s.modCore c fun co => { co with divider := none })

/-! ### Immediates (R90 to R92) -/

/-- ADDI (R90). -/
def execAddi (g : BitVec 4) (e : BitVec 1) (k : BitVec 10) (a d : BitVec 5) (s : State) : Out :=
  immOp (.addi g e k a d) g e k a d (· + ·) s

/-- ANDI (R90). -/
def execAndi (g : BitVec 4) (e : BitVec 1) (k : BitVec 10) (a d : BitVec 5) (s : State) : Out :=
  immOp (.andi g e k a d) g e k a d (· &&& ·) s

/-- ORI (R90). -/
def execOri (g : BitVec 4) (e : BitVec 1) (k : BitVec 10) (a d : BitVec 5) (s : State) : Out :=
  immOp (.ori g e k a d) g e k a d (· ||| ·) s

/-- XORI (R90). -/
def execXori (g : BitVec 4) (e : BitVec 1) (k : BitVec 10) (a d : BitVec 5) (s : State) : Out :=
  immOp (.xori g e k a d) g e k a d (· ^^^ ·) s

/-- A shift count as a word. -/
def countW (n : BitVec 6) : Word := n.zeroExtend 64

/-- SHLI (R91). -/
def execShli (g : BitVec 4) (sx : BitVec 6) (a d : BitVec 5) (s : State) : Out :=
  unOp (.shli g sx a d) g a d (fun a => shlW a (countW sx)) s

/-- SHRI (R91). -/
def execShri (g : BitVec 4) (sx : BitVec 6) (a d : BitVec 5) (s : State) : Out :=
  unOp (.shri g sx a d) g a d (fun a => shrW a (countW sx)) s

/-- SHAI (R91). -/
def execShai (g : BitVec 4) (sx : BitVec 6) (a d : BitVec 5) (s : State) : Out :=
  unOp (.shai g sx a d) g a d (fun a => shaW a (countW sx)) s

/-- ROTLI (R91). -/
def execRotli (g : BitVec 4) (sx : BitVec 6) (a d : BitVec 5) (s : State) : Out :=
  unOp (.rotli g sx a d) g a d (fun a => rotlW a (countW sx)) s

/-- LI (R92). -/
def execLi (g : BitVec 4) (k : BitVec 16) (d : BitVec 5) (s : State) : Out :=
  regInstr (.li g k d) s [ux d] (fun p => p.guardBit g 0) fun p => p.setX d (k.signExtend 64)

/-- LIH (R92). -/
def execLih (g : BitVec 4) (k : BitVec 16) (d : BitVec 5) (s : State) : Out :=
  regInstr (.lih g k d) s [ux d] (fun p => p.guardBit g 0) fun p =>
    p.setX d (k.signExtend 64 <<< 16 ||| (p.xr d &&& 0xFFFF))

/-! ### Counting, extension, bit fields and moves (R93 to R98) -/

/-- CLZ (R93). -/
def execClz (g : BitVec 4) (a d : BitVec 5) (s : State) : Out := unOp (.clz g a d) g a d clzW s

/-- CTZ (R93). -/
def execCtz (g : BitVec 4) (a d : BitVec 5) (s : State) : Out := unOp (.ctz g a d) g a d ctzW s

/-- POPC (R93). -/
def execPopc (g : BitVec 4) (a d : BitVec 5) (s : State) : Out := unOp (.popc g a d) g a d popcW s

/-- EXT (R93). -/
def execExt (g : BitVec 4) (u : BitVec 1) (sx : BitVec 2) (a d : BitVec 5) (s : State) : Out :=
  unOp (.ext g u sx a d) g a d (extW u sx) s

/-- BFX (R94, R95). -/
def execBfx (g : BitVec 4) (b a d : BitVec 5) (s : State) : Out := binOp (.bfx g b a d) g b a d bfxW s

/-- BFI reads and writes x[D] (R95). -/
def execBfi (g : BitVec 4) (b a d : BitVec 5) (s : State) : Out :=
  regInstr (.bfi g b a d) s [ux b, ux a, ux d] (fun p => p.guardBit g 0) fun p =>
    p.setX d (bfiW (p.xr d) (p.xr a) (p.xr b))

/-- MOV between x registers (R96). -/
def execMov (g : BitVec 4) (a d : BitVec 5) (s : State) : Out := unOp (.mov g a d) g a d id s

/-- MOV to a y-register (R96, R97): the core keeps the value replaced for three cycles (R98). -/
def execMovToY (g : BitVec 4) (a : BitVec 5) (d : BitVec 3) (s : State) : Out :=
  instr (.movToY g a d) s (fun _ p => { uses := [ux a], guard := p.guardBit g 0 }) fun s c _ p =>
    .go (s.modCore c fun co =>
      { co with y := co.y.set d.toNat (p.xr a), yOwner := co.yOwner.set d.toNat (some p.ctx),
                yOld := co.yOld.set d.toNat (co.y[d.toNat], co.yOwner[d.toNat], s.now) })

/-- MOV from a y-register (R96, R97): within three cycles of a write, the old or the new value (R98). -/
def execMovFromY (g : BitVec 4) (a : BitVec 3) (d : BitVec 5) (s : State) : Out :=
  instr (.movFromY g a d) s (fun _ p => { uses := [ux d], guard := p.guardBit g 0 }) fun s c k p =>
    let co := s.core c
    let old := co.yOld[a.toNat]
    let value := fun (v : Word) (o : Option (BitVec 12)) => if o == some p.ctx then v else 0
    let fresh := value co.y[a.toNat] co.yOwner[a.toNat]
    let stale := value old.1 old.2.1
    if s.now < old.2.2 + 4 && stale != fresh then
      let (b, s) := s.freeBit
      .go (s.setProc c k (p.setX d (if b then stale else fresh)))
    else .go (s.setProc c k (p.setX d fresh))

/-! ### Compares and predicates (R99 to R101) -/

/-- CMP (R99). -/
def execCmp (g : BitVec 4) (u : BitVec 1) (cond : BitVec 3) (b a : BitVec 5) (d : BitVec 3) (s : State) : Out :=
  regInstr (.cmp g u cond b a d) s [ux b, ux a] (fun p => p.guardBit g 0) fun p =>
    p.setP d (predOf (compareW u cond (p.xr a) (p.xr b)))

/-- CMPI (R100). -/
def execCmpi (g : BitVec 4) (u : BitVec 1) (cond : BitVec 3) (k : BitVec 7) (a : BitVec 5) (d : BitVec 3)
    (s : State) : Out :=
  regInstr (.cmpi g u cond k a d) s [ux a] (fun p => p.guardBit g 0) fun p =>
    p.setP d (predOf (compareW u cond (p.xr a) (if u == 1 then k.zeroExtend 64 else k.signExtend 64)))

/-- p[D] from p[A] and p[B] (R101). -/
def predOp (i : Instr) (g : BitVec 4) (b a d : BitVec 3) (f : Half → Half → Half) (s : State) : Out :=
  regInstr i s [] (fun p => p.guardBit g 0) fun p => p.setP d (f (p.pr a) (p.pr b))

/-- PAND (R101). -/
def execPand (g : BitVec 4) (b a d : BitVec 3) (s : State) : Out := predOp (.pand g b a d) g b a d (· &&& ·) s

/-- POR (R101). -/
def execPor (g : BitVec 4) (b a d : BitVec 3) (s : State) : Out := predOp (.por g b a d) g b a d (· ||| ·) s

/-- PXOR (R101). -/
def execPxor (g : BitVec 4) (b a d : BitVec 3) (s : State) : Out := predOp (.pxor g b a d) g b a d (· ^^^ ·) s

/-- PNOT (R101). -/
def execPnot (g : BitVec 4) (a d : BitVec 3) (s : State) : Out := predOp (.pnot g a d) g a a d (fun a _ => ~~~a) s

/-- PMOVX (R101). -/
def execPmovx (g : BitVec 4) (a : BitVec 3) (d : BitVec 5) (s : State) : Out :=
  regInstr (.pmovx g a d) s [ux d] (fun p => p.guardBit g 0) fun p => p.setX d ((p.pr a).zeroExtend 64)

/-- PMOVP (R101). -/
def execPmovp (g : BitVec 4) (a : BitVec 5) (d : BitVec 3) (s : State) : Out :=
  regInstr (.pmovp g a d) s [ux a] (fun p => p.guardBit g 0) fun p => p.setP d ((p.xr a).truncate 32)

/-! ### Control transfer (R102, R103) -/

/-- A branch offset in halfwords (R45). -/
def branchOff {n : Nat} (k : BitVec n) : Word := k.signExtend 64 * 2

/-- A transfer to a target computed from the process, with or without a link (R103). -/
def goTo (i : Instr) (s : State) (uses : List Use) (guard : Proc → Bool) (link : Option (BitVec 5))
    (target : Proc → Word) : Out :=
  instr i s (fun _ p => { uses := uses, guard := guard p }) fun s c k p =>
    match link with
    | some d => transfer (s.setProc c k (p.setX d (p.pc + 4))) (target p)
    | none => transfer s (target p)

/-- BR tests predicate bit BIT (R103). -/
def execBr (g : BitVec 4) (bx : BitVec 5) (k : BitVec 16) (s : State) : Out :=
  goTo (.br g bx k) s [] (fun p => p.guardBit g bx.toNat) none fun p => p.pc + branchOff k

/-- J (R103). -/
def execJ (g : BitVec 4) (k : BitVec 21) (s : State) : Out :=
  goTo (.j g k) s [] (fun p => p.guardBit g 0) none fun p => p.pc + branchOff k

/-- JAL (R103). -/
def execJal (g : BitVec 4) (k : BitVec 16) (d : BitVec 5) (s : State) : Out :=
  goTo (.jal g k d) s [ux d] (fun p => p.guardBit g 0) (some d) fun p => p.pc + branchOff k

/-- JR (R103). -/
def execJr (g : BitVec 4) (a : BitVec 5) (s : State) : Out :=
  goTo (.jr g a) s [ux a] (fun p => p.guardBit g 0) none fun p => p.xr a

/-- JALR (R103). -/
def execJalr (g : BitVec 4) (a d : BitVec 5) (s : State) : Out :=
  goTo (.jalr g a d) s [ux a, ux d] (fun p => p.guardBit g 0) (some d) fun p => p.xr a

/-! ### Traps and breakpoints (R104) -/

/-- TRAP #n (R104). -/
def execTrap (g k : BitVec 4) (s : State) : Out :=
  instr (.trap g k) s (fun _ p => { guard := p.guardBit g 0 }) fun _ _ _ _ => .trap (0x10 + k.toNat) (k.zeroExtend 64)

/-- BKPT #n (R104): with HBKPT = 1 it retires and the core halts (R399). -/
def execBkpt (g : BitVec 4) (k : BitVec 8) (s : State) : Out :=
  instr (.bkpt g k) s (fun _ p => { guard := p.guardBit g 0 }) fun s c kk _ =>
    if (s.core c).dbgctl.getLsbD 2 then
      .done (((s.retireAt c kk (.bkpt g k)).modCore c Core.halt).traceHalt c 0)
    else .trap 0x20 (k.zeroExtend 64)

/-- TRET (R33, R104). -/
def execTret (g : BitVec 4) (sx : BitVec 1) (s : State) : Out :=
  instr (.tret g sx) s (fun _ p => { guard := p.guardBit g 0 }) fun s c k p =>
    if sx == 1 then
      if p.tpc.getLsbD 63 then .trap 5 p.tpc
      else if p.tpc.getLsbD 0 then .trap 3 p.tpc
      else match s.fetchAt c k p (.tret g sx) p.tpc 2 with
        | .stop s => .done s
        | .code bs s =>
          match s.proc c k with
          | some p => s.trapReturn c k p (p.tpc + if (bs.headD 0).getLsbD 0 then 4 else 2)
          | none => .done s
    else s.trapReturn c k p p.tpc

/-- A word that is no instruction: ILLEGAL (R58). -/
def execIllegalWord (w : Nat) (s : State) : Out := instr (.illegalWord w) s (fun _ _ => { legal := false }) fun s _ _ _ => .go s

/-! ### Extension registers (R105, R106) -/

/-- An instruction that writes e[n]. -/
def eOp (i : Instr) (g : BitVec 4) (uses : List Use) (e : BitVec 3) (f : Proc → Word) (s : State) : Out :=
  regInstr i s uses (fun p => p.guardBit g 0) fun p => p.setE e (f p)

/-- EXTI, EXTI.cat (R105). -/
def execExti (g : BitVec 4) (k : BitVec 16) (cat : BitVec 1) (e : BitVec 3) (s : State) : Out :=
  eOp (.exti g k cat e) g [] e (fun p =>
    if cat == 1 then p.er e <<< 16 ||| k.zeroExtend 64 else k.signExtend 64) s

/-- EXTX (R106). -/
def execExtx (g : BitVec 4) (a : BitVec 5) (e : BitVec 3) (s : State) : Out :=
  eOp (.extx g a e) g [ux a] e (fun p => p.xr a) s

/-- EXTG (R106). -/
def execExtg (g : BitVec 4) (k : BitVec 7) (a : BitVec 5) (e : BitVec 3) (s : State) : Out :=
  eOp (.extg g k a e) g [ux a] e (fun p => k.zeroExtend 64 <<< 57 ||| (p.xr a &&& 0x01FFFFFFFFFFFFFF)) s

/-- EXTL (R106). -/
def execExtl (g : BitVec 4) (k : BitVec 6) (a : BitVec 5) (e : BitVec 3) (s : State) : Out :=
  eOp (.extl g k a e) g [ux a] e (fun p => p.er e ||| p.xr a <<< k.toNat) s

/-- EXTS (R106). -/
def execExts (g : BitVec 4) (k : BitVec 7) (a : BitVec 5) (e : BitVec 3) (s : State) : Out :=
  eOp (.exts g k a e) g [ux a] e (fun p => p.xr a + k.signExtend 64) s

/-! ### Compact forms (R56, R57) -/

/-- C.NOP (R56). -/
def execCNop (s : State) : Out := regInstr .cNop s [] (fun _ => true) id

/-- C.MOV (R56). -/
def execCMov (a d : BitVec 4) (s : State) : Out := unOp (.cMov a d) 0 (r5 a) (r5 d) id s

/-- A compact form `xd, xd, xa`. -/
def cOp (i : Instr) (a d : BitVec 4) (f : Word → Word → Word) (s : State) : Out :=
  binOp i 0 (r5 a) (r5 d) (r5 d) f s

/-- C.ADD (R56). -/
def execCAdd (a d : BitVec 4) (s : State) : Out := cOp (.cAdd a d) a d (· + ·) s

/-- C.ADDI (R56). -/
def execCAddi (k : BitVec 7) (d : BitVec 4) (s : State) : Out :=
  unOp (.cAddi k d) 0 (r5 d) (r5 d) (fun a => a + k.signExtend 64) s

/-- C.SUB (R56). -/
def execCSub (a d : BitVec 4) (s : State) : Out := cOp (.cSub a d) a d (· - ·) s

/-- C.AND (R56). -/
def execCAnd (a d : BitVec 4) (s : State) : Out := cOp (.cAnd a d) a d (· &&& ·) s

/-- C.OR (R56). -/
def execCOr (a d : BitVec 4) (s : State) : Out := cOp (.cOr a d) a d (· ||| ·) s

/-- C.XOR (R56). -/
def execCXor (a d : BitVec 4) (s : State) : Out := cOp (.cXor a d) a d (· ^^^ ·) s

/-- C.SHLI (R56). -/
def execCShli (sx : BitVec 6) (d : BitVec 4) (s : State) : Out :=
  unOp (.cShli sx d) 0 (r5 d) (r5 d) (fun a => shlW a (countW sx)) s

/-- C.LI (R56). -/
def execCLi (k : BitVec 7) (d : BitVec 4) (s : State) : Out :=
  regInstr (.cLi k d) s [ux (r5 d)] (fun _ => true) fun p => p.setX (r5 d) (k.signExtend 64)

/-- C.BR: its guard is N:P, bit 0 (R57). -/
def execCBr (k : BitVec 7) (n : BitVec 1) (p : BitVec 3) (s : State) : Out :=
  goTo (.cBr k n p) s [] (fun q => q.guardBit (n ++ p) 0) none fun q => q.pc + branchOff k

/-- C.J (R56). -/
def execCJ (k : BitVec 11) (s : State) : Out := goTo (.cJ k) s [] (fun _ => true) none fun p => p.pc + branchOff k

end Sys2Proof.Machine
end

