-- ==== Sys2Proof/Machine/SysInstr.lean ====
section
/-! DEFINITION. Sys2Proof/Machine/SysInstr.lean: system registers (R14 to R20, R108), EVT (R110) and IFLUSH (R111). -/

namespace Sys2Proof.Machine

/-- Is a number of R15 assigned? -/
def sysAssigned (n : Nat) : Bool :=
  [0x000, 0x001, 0x010, 0x011, 0x012, 0x013, 0x020, 0x021, 0x022, 0x023, 0x030, 0x031, 0x100, 0x101, 0x102,
   0x103].contains n

/-- The privileged registers of R15. -/
def sysPriv (n : Nat) : Bool := decide (0x100 ≤ n)

/-- The value of a system register (R15 to R20). -/
def State.readSys (s : State) (c k : Nat) (p : Proc) (n : Nat) : Word :=
  let co := s.core c
  if n == 0x000 then p.fstat
  else if n == 0x001 then p.rseed.zeroExtend 64
  else if n == 0x010 then p.tpc
  else if n == 0x011 then p.tcause
  else if n == 0x012 then p.tval
  else if n == 0x013 then BitVec.ofNat 64 (bit p.inh)
  else if n == 0x020 then s.selfWord k p
  else if n == 0x021 then p.hdrAddr
  else if n == 0x022 then s.winBase p
  else if n == 0x023 then BitVec.ofNat 64 p.wsize
  else if n == 0x030 then BitVec.ofNat 64 (s.cycle co)
  else if n == 0x031 then p.retired
  else if n == 0x100 then co.parkwait.zeroExtend 64
  else if n == 0x101 then co.wdcycles.zeroExtend 64
  else if n == 0x102 then co.dlwindow.zeroExtend 64
  else if n == 0x103 then co.wtovf.zeroExtend 64
  else 0

/-- A process-scope register written field by field (R4, R16, R18, R19, R108). -/
def Proc.writeSys (p : Proc) (n : Nat) (w : Word) : Proc :=
  if n == 0x000 then { p with fstat := fstatWrite p.fstat w }
  else if n == 0x001 then { p with rseed := seedOf (w.truncate 32) }
  else if n == 0x010 then { p with tpc := w }
  else if n == 0x011 then { p with tcause := w }
  else if n == 0x012 then { p with tval := w }
  else if n == 0x013 then { p with inh := w.getLsbD 0 }
  else p

/-- A core-scope register written field by field in cycle `now` (R20); a limit that it replaces holds until the cycle ends (R108). -/
def Core.writeSys (co : Core) (now n : Nat) (w : Word) : Core :=
  let co := if 0x100 ≤ n && decide (n ≤ 0x102) then co.keepLimits now else co
  if n == 0x100 then { co with parkwait := w.truncate 32 }
  else if n == 0x101 then { co with wdcycles := w.truncate 32 }
  else if n == 0x102 then { co with dlwindow := w.truncate 32 }
  else if n == 0x103 then (if w.getLsbD 0 then { co with wtovf := 0 } else co)
  else co

/-- SRD (R14, R107, R108). -/
def execSrd (g : BitVec 4) (n : BitVec 12) (x : BitVec 5) (s : State) : Out :=
  instr (.srd g n x) s
    (fun _ p => { legal := sysAssigned n.toNat, priv := sysPriv n.toNat, uses := [ux x], guard := p.guardBit g 0 })
    fun s c k p => .go (s.setProc c k (p.setX x (s.readSys c k p n.toNat)))

/-- SWR (R14, R107, R108). -/
def execSwr (g : BitVec 4) (n : BitVec 12) (x : BitVec 5) (s : State) : Out :=
  instr (.swr g n x) s
    (fun _ p => { legal := sysAssigned n.toNat, priv := sysPriv n.toNat, uses := [ux x], guard := p.guardBit g 0 })
    fun s c k p =>
      .go ((s.setProc c k (p.writeSys n.toNat (p.xr x))).modCore c fun co => co.writeSys s.now n.toNat (p.xr x))

/-- EVT: a user event record of KIND 0x10 (R110). -/
def execEvt (g : BitVec 4) (n : BitVec 12) (x : BitVec 5) (s : State) : Out :=
  instr (.evt g n x) s (fun _ p => { uses := [ux x], guard := p.guardBit g 0 }) fun s c k p =>
    .go (s.post c p.ctx.toNat
      [BitVec.ofNat 64 (0x10 * 2 ^ 56 + n.toNat * 2 ^ 44), s.selfWord k p, p.index, p.xr x])

/-- IFLUSH: every cached code unit of the core goes, and the slot waits 64 cycles (R88, R111). -/
def execIflush (g : BitVec 4) (s : State) : Out :=
  instr (.iflush g) s (fun _ p => { guard := p.guardBit g 0 }) fun s c _ _ =>
    .hold (s.modCore c Core.flushUnits) (.iflush (s.now + 64))

/-- IFLUSH_DONE: the flush of slot `k` of core `c` completes (R88, R111). -/
def execIflushDone (s : State) : Out :=
  let c := s.ev.c
  match s.proc c s.ev.k with
  | none => .next s
  | some p =>
    match s.waitOf c p.uid with
    | some (.iflush till) => if s.now < till then .next s else .next (s.resume c p.uid fun s _ _ _ => .go s)
    | _ => .next s

end Sys2Proof.Machine
end

