-- ==== Sys2Proof/Machine/Scratchpad.lean ====
section
/-! DEFINITION. Sys2Proof/Machine/Scratchpad.lean: loads and stores to local space (R112 to R115), the full/empty operations
and the granule wait table (R116 to R121), remote accesses (R122, R264 to R267), posted writes and the release wait
(R301, R302). -/

namespace Sys2Proof.Machine

/-! ### The release wait (R302) -/

/-- Are SACK, the replay queue and, at system scope, HOSTP of a process clear? -/
def Proc.released (p : Proc) (sys : Bool) : Bool := p.sack == 0 && p.replay.isEmpty && (!sys || p.hostp == 0)

/-- RELEASE_WAIT_DONE: the release wait of slot `k` of core `c` ends, and its instruction goes on (R302). -/
def execReleaseWaitDone (s : State) : Out :=
  let c := s.ev.c
  match s.proc c s.ev.k with
  | none => .next s
  | some p =>
    match s.waitOf c p.uid with
    | some (.release sys) =>
      if p.released sys then .next (s.reissue c p.uid) else .next s
    | _ => .next s

/-! ### Waiting on granules (R118 to R121) -/

/-- The mark of a process that polls because the wait table was full: WTOVF has counted it (R121). -/
def pollMark : Answer := { status := 254, value := 0 }

/-- An operation that must wait on granule `g` takes the wait-table entry that has been free longest, or polls (R119, R121). A process
that has returned from its park record still has its entry, and keeps its place (R120). -/
def State.waitGranule (s : State) (c k : Nat) (p : Proc) (kind : Nat) (clr : Bool) (g : Nat) (a : Option Access) : Act :=
  let co := s.core c
  if co.waits.any fun w => w.uid == p.uid then
    .hold (s.setCore c { co with waits := co.waits.map fun w =>
      if w.uid == p.uid then { w with kind := kind, clr := clr, granule := g, access := a } else w }) .granule
  else match co.waitFree with
    | place :: rest =>
      .hold (s.setCore c { co with waitFree := rest, waits := co.waits ++
        [{ kind := kind, clr := clr, uid := p.uid, granule := g, since := s.now, place := place, access := a }] }) .granule
    | [] =>
      let s := if p.answer == some pollMark then s
        else s.setCore c { co with wtovf := co.wtovf + 1 }
      .hold (s.setProc c k { p with answer := some pollMark }) (.poll (s.now + 64))

/-- GRANULE_POLL_REISSUE: 64 cycles after its last try, a polling process issues its instruction again (R121). -/
def execGranulePollReissue (s : State) : Out :=
  let c := s.ev.c
  match s.proc c s.ev.k with
  | none => .next s
  | some p =>
    match s.waitOf c p.uid with
    | some (.poll next) => if s.now < next then .next s else .next (s.reissue c p.uid)
    | _ => .next s

/-! ### Remote accesses (R122, R266, R301) -/

/-- The bit of PEERMASK that admits an accessor at agent `dst` (R265). -/
def peerClass (src dst : Nat) : Nat :=
  if 65536 ≤ src then 4 else if isMemCore src then 5 else if agentDie src == agentDie dst then 2 else 3

/-- The agent that a remote local-space address names, when it exists and answers. -/
def State.remoteDest (s : State) (p : Proc) (ea : Word) : Option Nat :=
  (namedVcore s.pkgid.toNat p.vcore.toNat ea).bind fun e => s.dest e.1 e.2

/-- A remote load leaves; an address that names no live agent traps at once (R261, R267). -/
def State.loadRemote (s : State) (c k : Nat) (p : Proc) (ea : Word) (size : Nat) : Act :=
  match s.remoteDest p ea with
  | none => .trap 4 ea
  | some d =>
    .hold ((s.countFor c p.uid 9 1).send c d 1 (.access ea (bits ea.toNat 0 18) size none 0 (peerClass c d)
      (s.selfWord k p) { core := c, uid := p.uid })) .remoteLoad

/-- The record of a refused remote store (R267). -/
def State.storeRefused (s : State) (status : Nat) (self ea data : Word) : State :=
  s.refusal (bits self.toNat 23 12) 0x14 status self ea data

/-- A posted remote store leaves (R301): it waits while 32 are outstanding, and is refused at once when its address
names no live agent. -/
def State.storeRemote (s : State) (c k : Nat) (p : Proc) (ea : Word) (data : List Byte) (mask : Nat) : Act :=
  if 32 ≤ p.sack then .hold s .sackFull
  else
    let word := BitVec.ofNat 64 (ofLe (data.take 8))
    match s.remoteDest p ea with
    | none => .go (s.storeRefused 1 (s.selfWord k p) ea word)
    | some d =>
      .go ((s.send c d 1 (.access ea (bits ea.toNat 0 18) data.length (some data) mask (peerClass c d) (s.selfWord k p)
        { core := c, uid := p.uid })).setProc c k { p.count s.now 9 1 with sack := p.sack + 1 })

/-- A copy of another package takes granules: they become empty and engine-owned (R118, R321). -/
def State.lendGranules (s : State) (c : Nat) (job : Job) (gs : List (Nat × Nat)) : State :=
  let s := { (s.modCore c fun co => gs.foldl (fun co g => co.setEmpty g.1)
    { co with foreign := co.foreign ++ [(job, s.nextUid, gs)] }) with nextUid := s.nextUid + 1 }
  gs.foldl (fun s g => s.handOff c g.1) s

/-- `n` bytes of a granule are settled. -/
def settleBytes (m : KMap Nat) (g : Nat × Nat) : KMap Nat :=
  match kget m g.1 with
  | some k => if k ≤ g.2 then kdel m g.1 else kset m g.1 (k - g.2)
  | none => m

/-- Bytes of a foreign copy's granules are written or will not be, or it lets go of all: complete granules become full (R323, R326,
R328). -/
def State.returnGranules (s : State) (c : Nat) (job : Job) (gs : List (Nat × Nat)) (all : Bool) : State :=
  let left := fun m : KMap Nat => if all then [] else gs.foldl settleBytes m
  let mine := (s.core c).foreign.filter fun t => t.1 == job
  let done := mine.flatMap fun t => (t.2.2.filter fun e => !(left t.2.2).any fun f => f.1 == e.1).map (·.1)
  let rest := ((s.core c).foreign.map fun t => if t.1 == job then (t.1, t.2.1, left t.2.2) else t).filter fun t => !t.2.2.isEmpty
  let kept := fun v : Saved => { v with foreign := v.foreign.map fun t =>
    if t.1 == job then (t.1, t.2.1, t.2.2.map fun e => (e.1, (kget (left t.2.2) e.1).getD 0)) else t }
  (s.modCore c fun co => { co with foreign := rest, saved := co.saved.map kept }).fillGranules c done

/-- REMOTE_ACCESS_ARRIVE: packet `n` is served by the network interface of the core it names (R264 to R266). A granule that
an engine owns delays it (R118). A copy of another package takes its granules here, once no other engine owns one (R321). -/
def execRemoteAccessArrive (s : State) : Out :=
  .next (s.onPacket s.ev.n fun s pk =>
    match pk.body with
    | .access ea off size data mask cls self who =>
      let c := pk.dst
      let co := s.core c
      let ok := co.peermask.getLsbD cls && decide (off + size ≤ sysBase c) && co.guarded (bits self.toNat 23 12) off size
      match data with
      | none =>
        if !ok || (2 ≤ mask && !co.peermask.getLsbD 6) then some (s.send c pk.src 2 (.loadAns who none 5))
        else if mask != 0 then some (s.send c pk.src 2 (.loadAns who (some []) 0))
        else if (co.ownedIn off size).isSome then none
        else some (s.send c pk.src 2 (.loadAns who (some (co.spad.bytes off size)) 0))
      | some d =>
        let word := BitVec.ofNat 64 (ofLe (d.take 8))
        if !ok then some (s.send c pk.src 2 (.storeAck who 5 ea word false self))
        else if (co.ownedIn off size).isSome then none
        else some ((s.modCore c fun co => { co with spad := co.spad.putMasked off mask d }).send c pk.src 2
          (.storeAck who 0 ea word false self))
    | .copyTake job gs =>
      let c := pk.dst
      if gs.any fun g => (s.core c).owned g.1 then none
      else some ((s.lendGranules c job gs).send c pk.src 2 (.copyAck job 0 0 0))
    | .copyGive job gs all =>
      -- A copy that has been abandoned takes nothing any more.
      let keep := fun q : Packet => match q.body with
        | .copyTake j _ => !(all && j == job && q.dst == pk.dst)
        | _ => true
      some (({ s with net := s.net.filter keep } : State).returnGranules pk.dst job gs all)
    | _ => none)

/-- A mask of `n` ones. -/
def ones (n : Nat) : Nat := 2 ^ n - 1

/-- The byte mask of LDV and STV: bit b is byte b (R114). -/
def Proc.byteMask (p : Proc) (g : BitVec 4) : Nat :=
  (laneNumbers 8).foldl (fun m b => m + bit (p.active g 8 b) * 2 ^ b) 0

/-- v with the masked bytes taken from `d` (R114). -/
def mergeBytes (v : VReg) (d : List Byte) (mask : Nat) : VReg :=
  ofLanes 8 ((laneNumbers 8).map fun b =>
    if mask / 2 ^ b % 2 == 1 then ((d[b]?).getD 0).toNat else lane v 8 b)

/-- The process with the data of its load written (R113, R114). -/
def Proc.loaded (p : Proc) (i : Instr) (d : List Byte) : Proc :=
  match i with
  | .ld _ u sx _ _ r => p.setX r (extW u sx (BitVec.ofNat 64 (ofLe d)))
  | .cLd _ _ r => p.setX (r5 r) (BitVec.ofNat 64 (ofLe d))
  | .ldv g _ _ r => p.setV r (mergeBytes (p.vr r) d (p.byteMask g))
  | _ => p

/-- The local access of a load at an offset, for the wait table (R118, R120). -/
def Proc.loadAccess (p : Proc) (i : Instr) (off : Nat) : Option Access :=
  match i with
  | .ld _ u sx _ _ r => some (.loadX r u sx off)
  | .cLd _ _ r => some (.loadX (r5 r) 1 3 off)
  | .ldv g _ _ r => some (.loadV r (((laneNumbers 8).filter fun b => p.active g 8 b).map fun b => (off + b, b)))
  | _ => none

/-- The masked bytes of a store at an offset. -/
def storeBytes (off mask : Nat) (data : List Byte) : List (Nat × Byte) :=
  ((List.range data.length).zip data).filterMap fun e => if mask / 2 ^ e.1 % 2 == 1 then some (off + e.1, e.2) else none

/-- The effective address of a load (R113, R114, R56). -/
def Proc.loadAddr (p : Proc) : Instr → Word
  | .ld _ _ sx k a _ => p.xr a + offset k (2 ^ sx.toNat)
  | .cLd j a _ => p.xr (r5 a) + BitVec.ofNat 64 (8 * j.toNat)
  | .ldv _ k a _ => p.xr a + offset k 32
  | _ => 0

/-- The mark of a copy whose first `n` remote operands have been checked (R320). -/
def checkMark (n : Nat) : Answer := { status := 520 + n, value := 0 }

/-- How many remote operands of a waiting copy have been checked. -/
def Proc.copyChecks (p : Proc) : Nat :=
  match p.answer with
  | some e => e.status - 520
  | none => 0

/-- REMOTE_LOAD_REPLY: the data of a remote load is written, or its refusal raises BOUND (R122, R267). For a copy it is the answer
of the check of an operand: a failure is its status (R320). -/
def execRemoteLoadReply (s : State) : Out :=
  .next (s.onPacket s.ev.n fun s pk =>
    match pk.body with
    | .loadAns who data status =>
      match s.waitOf who.core who.uid, (s.core who.core).find who.uid with
      | some .remoteLoad, some p =>
        if (match p.wait with
            | some { instr := .copy _ _ _, .. } => true
            | some { instr := .copya _ _ _ _ _, .. } => true
            | _ => false) then
          if status != 0 then some (s.resumeStatus who.core who.uid status)
          else some ((s.modCore who.core fun co => co.modUid who.uid fun p =>
            { p with answer := some (checkMark (p.copyChecks + 1)) }).reissue who.core who.uid)
        else some (s.resume who.core who.uid fun s k p i =>
          match data with
          | some d => .go (s.setProc who.core k (p.loaded i d))
          | none => .trap 4 (p.loadAddr i))
      | _, _ => some s
    | _ => none)

/-- A posted write of process `who` is acknowledged (R301): a process waiting for the count goes on. -/
def State.acked (s : State) (who : Who) (f : Proc → Proc) : State :=
  let s := s.modCore who.core fun co => co.modUid who.uid fun p => f { p with sack := p.sack - 1 }
  match s.waitOf who.core who.uid with
  | some .sackFull => s.reissue who.core who.uid
  | _ => s

/-- STORE_ACK: an acknowledgement lowers SACK (R301). A refused store is discarded and reported (R267); a draft's refusal
for a full galley store sets STFULL (R352); a store to global memory that was sent again is performed (R372); a store accepted by the host interface unit counts in HOSTP (R311). -/
def execStoreAck (s : State) : Out :=
  .next (s.onPacket s.ev.n fun s pk =>
    match pk.body with
    | .storeAck who refused ea data hostp self =>
      let s := if refused == 0 || refused == 2 then s else s.storeRefused refused self ea data
      some (s.acked who fun p =>
        let p := if hostp then { p with hostp := p.hostp + 1 } else p
        let p := if ea.getLsbD 63 then p else { p with drain := p.drain.filter fun e => e.1 != data.toNat }
        if refused == 2 then { p with draft := p.draft.map fun d => { d with stfull := true } } else p)
    | _ => none)

/-! ### Loads and stores (R113, R114) -/

/-- A load from local space: `fin` writes the data. -/
def State.loadLocal (s : State) (c k : Nat) (p : Proc) (i : Instr) (ea : Word) (size : Nat) : Act :=
  match s.localCheck c p ea size size false true with
  | .bad cause => .trap cause ea
  | .remote => s.loadRemote c k p ea size
  | .own off =>
    match (s.core c).ownedIn off size with
    | some g => s.waitGranule c k p 2 false g (p.loadAccess i off)
    | none => .go (s.setProc c k (p.loaded i (s.localBytes c off size)))

/-- A store to local space of the masked bytes of `data` (R113, R114); in a draft, one that leaves the draft's own window
is barred once its checks have passed (R354, R355). -/
def State.storeLocal (s : State) (c k : Nat) (p : Proc) (ea : Word) (data : List Byte) (mask : Nat) (rel : Bool) : Act :=
  match s.localCheck c p ea data.length data.length false false with
  | .bad cause => .trap cause ea
  | .remote =>
    if p.isDraft then .barred
    else if rel && !p.released true then .hold s (.release true)
    else s.storeRemote c k p ea data mask
  | .own off =>
    if p.isDraft && !p.inWindow off data.length then .barred
    else if rel && !p.released true then .hold s (.release true)
    else match (s.core c).ownedIn off data.length with
      | some g => s.waitGranule c k p 2 false g (some (.store (storeBytes off mask data)))
      | none => .go (s.modCore c fun co => { co with spad := co.spad.putMasked off mask data })

/-- LD (R113). -/
def execLd (g : BitVec 4) (u : BitVec 1) (sx : BitVec 2) (k : BitVec 7) (a d : BitVec 5) (s : State) : Out :=
  let i := Instr.ld g u sx k a d
  instr i s (fun _ p => { uses := [ux a, ux d], guard := p.guardBit g 0 }) fun s c kk p =>
    s.loadLocal c kk p i (p.loadAddr i) (2 ^ sx.toNat)

/-- C.LD: LD.i64 (R56). -/
def execCLd (j : BitVec 3) (a d : BitVec 4) (s : State) : Out :=
  let i := Instr.cLd j a d
  instr i s (fun _ _ => { uses := [ux (r5 a), ux (r5 d)] }) fun s c k p => s.loadLocal c k p i (p.loadAddr i) 8

/-- ST, ST.rel (R113). -/
def execSt (g : BitVec 4) (sx : BitVec 2) (o : BitVec 1) (k : BitVec 7) (a d : BitVec 5) (s : State) : Out :=
  instr (.st g sx o k a d) s (fun _ p => { uses := [ux a, ux d], guard := p.guardBit g 0 }) fun s c kk p =>
    let n := 2 ^ sx.toNat
    s.storeLocal c kk p (p.xr a + offset k n) (leBytes (p.xr d).toNat n) (ones n) (o == 1)

/-- C.ST: ST.i64 (R56). -/
def execCSt (j : BitVec 3) (a d : BitVec 4) (s : State) : Out :=
  instr (.cSt j a d) s (fun _ _ => { uses := [ux (r5 a), ux (r5 d)] }) fun s c k p =>
    s.storeLocal c k p (p.xr (r5 a) + BitVec.ofNat 64 (8 * j.toNat)) (leBytes (p.xr (r5 d)).toNat 8) (ones 8) false

/-- LDV (R114). -/
def execLdv (g : BitVec 4) (k : BitVec 7) (a d : BitVec 5) (s : State) : Out :=
  let i := Instr.ldv g k a d
  instr i s (fun _ p => { uses := [ux a, uv d], guard := p.anyActive g 8 }) fun s c kk p =>
    s.loadLocal c kk p i (p.loadAddr i) 32

/-- STV, STV.rel (R114). -/
def execStv (g : BitVec 4) (o : BitVec 1) (k : BitVec 7) (a d : BitVec 5) (s : State) : Out :=
  instr (.stv g o k a d) s (fun _ p => { uses := [ux a, uv d], guard := p.anyActive g 8 }) fun s c kk p =>
    s.storeLocal c kk p (p.xr a + offset k 32) (leBytes (p.vr d).toNat 32) (p.byteMask g) (o == 1)

/-! ### Gather and scatter (R115) -/

/-- The address of lane `i`. -/
def Proc.gatherAddr (p : Proc) (w : Nat) (a b : BitVec 5) (i : Nat) : Word :=
  p.xr a + BitVec.ofInt 64 (sInt w (lane (p.vr b) w i)) * BitVec.ofNat 64 (w / 8)

/-- The first cause, in the order of R30, among the active lanes, with the address of the lowest lane that raises it. -/
def State.gatherTrap (s : State) (c : Nat) (p : Proc) (w : Nat) (addrs : List Word) (load : Bool) : Option (Nat × Word) :=
  let hit := fun cause => addrs.find? fun ea => s.localCheck c p ea (w / 8) (w / 8) true load == .bad cause
  match hit 5, hit 3, hit 4 with
  | some ea, _, _ => some (5, ea)
  | none, some ea, _ => some (3, ea)
  | none, none, some ea => some (4, ea)
  | none, none, none => none

/-- The local offset of an address. -/
def localOff (ea : Word) : Nat := bits ea.toNat 0 18

/-- Banks touched: the largest number of distinct granules that the offsets touch in one bank (R122). -/
def bankCost (offs : List Nat) : Nat :=
  let gs := (offs.map (· / 16)).foldl (fun l g => insertNat g l) []
  (List.range 16).foldl (fun m b => max m (gs.filter fun g => g % 16 == b).length) 0

/-- A gather or scatter leaves the rotation for 2 + M cycles when that exceeds four (R122). -/
def State.gatherDelay (s : State) (c k : Nat) (offs : List Nat) : State :=
  let cost := 2 + bankCost offs
  if cost ≤ 4 then s else s.setSlot c k { s.slot c k with ready := s.now + cost }

/-- The checks of LDVX and STVX over the active lanes, then `f` on the lane numbers (R115). -/
def gatherInstr (i : Instr) (g : BitVec 4) (w : BitVec 2) (b a d : BitVec 5) (load : Bool)
    (access : Proc → List Nat → Access) (f : State → Nat → Nat → Proc → List Nat → State) (s : State) : Out :=
  let wb := wBits w.toNat
  instr i s (fun _ p => { uses := [uv b, ux a, uv d], guard := p.anyActive g wb }) fun s c k p =>
    let lanes := (laneNumbers wb).filter fun i => p.active g wb i
    let addrs := lanes.map (p.gatherAddr wb a b)
    match s.gatherTrap c p wb addrs load with
    | some (cause, ea) => .trap cause ea
    | none =>
      let offs := addrs.map localOff
      if p.isDraft && !load && offs.any (fun o => !p.inWindow o (wb / 8)) then .barred
      else match offs.findSome? fun o => (s.core c).ownedIn o (wb / 8) with
        | some gr => s.waitGranule c k p 2 false gr (some (access p lanes))
        | none => .go ((f s c k p lanes).gatherDelay c k offs)

/-- LDVX (R115). -/
def execLdvx (g : BitVec 4) (w : BitVec 2) (b a d : BitVec 5) (s : State) : Out :=
  gatherInstr (.ldvx g w b a d) g w b a d true (fun p lanes =>
    let n := wBits w.toNat / 8
    .loadV d (lanes.flatMap fun i => (List.range n).map fun j => (localOff (p.gatherAddr (8 * n) a b i) + j, n * i + j)))
    (fun s c k p lanes =>
    let wb := wBits w.toNat
    s.setProc c k (p.setV d (ofLanes wb ((laneNumbers wb).map fun i =>
      if lanes.contains i then ofLe (s.localBytes c (localOff (p.gatherAddr wb a b i)) (wb / 8))
      else lane (p.vr d) wb i)))) s

/-- STVX: on equal addresses the highest lane's value stays (R115). -/
def execStvx (g : BitVec 4) (w : BitVec 2) (b a d : BitVec 5) (s : State) : Out :=
  gatherInstr (.stvx g w b a d) g w b a d false (fun p lanes =>
    let n := wBits w.toNat / 8
    .store (lanes.flatMap fun i =>
      (List.range n).map fun j => (localOff (p.gatherAddr (8 * n) a b i) + j, BitVec.ofNat 8 (lane (p.vr d) (8 * n) i / 2 ^ (8 * j)))))
    (fun s c _ p lanes =>
    let wb := wBits w.toNat
    s.modCore c fun co => { co with spad := lanes.foldl (fun m i =>
      m.putNat (localOff (p.gatherAddr wb a b i)) (wb / 8) (lane (p.vr d) wb i)) co.spad }) s

/-! ### Full/empty operations (R116, R117) -/

/-- An operation on the granule at x[A] + 16·K6, when no engine owns it (R116, R118). One that is a release waits for it first
(R117, R302). -/
def granuleInstr (i : Instr) (g : BitVec 4) (k : BitVec 6) (a : BitVec 5) (uses : List Use) (load writes rel clr : Bool)
    (access : Proc → Access) (f : State → Nat → Nat → Proc → Nat → Act) (s : State) : Out :=
  instr i s (fun _ p => { uses := ux a :: uses, guard := p.guardBit g 0 }) fun s c kk p =>
    let ea := p.xr a + offset k 16
    match s.localCheck c p ea 16 16 true load with
    | .bad cause => .trap cause ea
    | .remote => .trap 4 ea
    | .own off =>
      if p.isDraft && writes && !p.inWindow off 16 then .barred
      else if rel && !p.released false then .hold s (.release false)
      else if (s.core c).owned (off / 16) then s.waitGranule c kk p 2 clr (off / 16) (some (access p))
      else f s c kk p (off / 16)

/-- LDF, LDF.nw, LDF.clr (R116). In the system region LDF is a load, as GSTATE is, and LDF.clr is none (R22; log entry 39). -/
def execLdf (g : BitVec 4) (n cl : BitVec 1) (k : BitVec 6) (a d : BitVec 5) (s : State) : Out :=
  let access : Access := .ldf d (n == 1) (cl == 1)
  granuleInstr (.ldf g n cl k a d) g k a [ux d] (cl == 0) (cl == 1) (cl == 1) (cl == 1) (fun _ => access) (fun s c kk p gr =>
    if n == 0 && !(s.core c).isFull gr then s.waitGranule c kk p 0 (cl == 1) gr (some access)
    else
      let s1 := s.setProc c kk (p.setX d (BitVec.ofNat 64 (ofLe (s.localBytes c (16 * gr) 8))))
      if cl == 1 then .go ((s1.modCore c fun co => co.setEmpty gr).handOff c gr) else .go s1) s

/-- STF, STF.nw (R116). -/
def execStf (g : BitVec 4) (n : BitVec 1) (k : BitVec 6) (a d : BitVec 5) (s : State) : Out :=
  let access := fun p : Proc => Access.stf (p.xr d) (n == 1)
  granuleInstr (.stf g n k a d) g k a [ux d] false true true false access (fun s c kk p gr =>
    if n == 0 && (s.core c).isFull gr then s.waitGranule c kk p 1 false gr (some (access p))
    else .go ((s.modCore c fun co =>
      ({ co with spad := co.spad.putNat (16 * gr) 8 (p.xr d).toNat }).setFull gr).handOff c gr)) s

/-- SETE (R116). -/
def execSete (g : BitVec 4) (k : BitVec 6) (a : BitVec 5) (s : State) : Out :=
  granuleInstr (.sete g k a) g k a [] false true false false (fun _ => .sete) (fun s c _ _ gr =>
    .go ((s.modCore c fun co => co.setEmpty gr).handOff c gr)) s

/-- SETF (R116). -/
def execSetf (g : BitVec 4) (k : BitVec 6) (a : BitVec 5) (s : State) : Out :=
  granuleInstr (.setf g k a) g k a [] false true false false (fun _ => .setf) (fun s c _ _ gr =>
    .go ((s.modCore c fun co => co.setFull gr).handOff c gr)) s

/-- GSTATE never waits, whoever owns the granule (R116, R118). -/
def execGstate (g : BitVec 4) (k : BitVec 6) (a d : BitVec 5) (s : State) : Out :=
  instr (.gstate g k a d) s (fun _ p => { uses := [ux a, ux d], guard := p.guardBit g 0 }) fun s c kk p =>
    let ea := p.xr a + offset k 16
    match s.localCheck c p ea 16 16 true true with
    | .bad cause => .trap cause ea
    | .remote => .trap 4 ea
    | .own off =>
      let co := s.core c
      .go (s.setProc c kk (p.setX d (BitVec.ofNat 64
        (bit (co.waits.any fun w => w.granule == off / 16) * 2 + bit (co.isFull (off / 16))))))

end Sys2Proof.Machine
end

