-- ==== Sys2Proof/Machine/Rings.lean ====
section
/-! DEFINITION. Sys2Proof/Machine/Rings.lean: ring instructions (R149 to R158), SLAB and the forwarding of filled slots
(R178 to R180), and the claims of external producers (R152, R275, R324, R465). -/

namespace Sys2Proof.Machine

/-! ### Shared operations -/

/-- The CHANNEL trap of an instruction without .q that names ring `n` (R7, R32). -/
def chan (n st : Nat) : Act := .trap 7 (BitVec.ofNat 64 (n * 256 + st))

/-- The descriptor of a process's ring with its place in the table, when the ring is defined (R149, R152). -/
def State.ringOf (s : State) (c : Nat) (p : Proc) (n : Nat) : Option (Nat × Ring) :=
  match p.rings[n]? with
  | none => none
  | some j => match s.ring c j with
    | some r => if r.defd then some (j, r) else none
    | none => none

/-- The scratchpad offset of slot `i` of a ring whose owner's window begins at `wbase` (R151). -/
def Ring.slotAt (r : Ring) (wbase i : Nat) : Nat := wbase + 256 * r.base + 256 * r.ssize * i

/-- RingAddr (R151). -/
def State.ringAddr (s : State) (p : Proc) (r : Ring) (i : Nat) : Word :=
  s.localAddr p.vcore.toNat (r.slotAt p.wbase i)

/-- Checks 1 to 3 of R154: `f` runs on a defined ring that is not FERR and, for a tail operation, local. -/
def State.ringChecked (s : State) (c : Nat) (p : Proc) (n : Nat) (tail : Bool) (f : Nat → Ring → Act) : Act :=
  match s.ringOf c p n with
  | none => chan n 4
  | some (j, r) => if r.ferr then chan n 1 else if tail && r.ext then chan n 5 else f j r

/-- Pop `n` slots (R154). -/
def Ring.pops : Nat → Ring → Ring
  | 0, r => r
  | n + 1, r => Ring.pops n r.pop

/-- Fill the tail slot as the owner does (R154). -/
def Ring.fill (r : Ring) : Ring :=
  { r with tail := r.wrap (r.tail + 1), filled := r.filled + 1, busy := r.busy + 1,
           unfwd := if r.dir != 0 then r.unfwd + 1 else r.unfwd }

/-- Fill `n` slots. -/
def Ring.fills : Nat → Ring → Ring
  | 0, r => r
  | n + 1, r => Ring.fills n r.fill

/-! ### The instructions -/

/-- The guard and resource checks of a ring instruction (R157). -/
def ringInstr (i : Instr) (g q : BitVec 4) (us : List Use) (f : State → Nat → Nat → Proc → Act) (s : State) : Out :=
  instr i s (fun _ p => { uses := (2, q.toNat) :: us, guard := p.guardBit g 0 }) f

/-- May RINIT define a ring with this configuration in the window (R153)? -/
def ringConfigOk (w wsize : Nat) : Bool :=
  bits w 32 32 == 0 && bits w 10 6 == 0 && decide (1 ≤ bits w 24 7) && decide (bits w 24 7 ≤ 64)
    && bits w 16 8 != 0 && decide (256 * (bits w 0 10 + bits w 16 8 * bits w 24 7) ≤ wsize)

/-- A ring as RINIT defines it (R153). -/
def Ring.define (r : Ring) (w : Nat) : Ring :=
  { r with defd := true, ext := bits w 31 1 == 1, count := bits w 24 7, ssize := bits w 16 8, base := bits w 0 10,
           sink := 0, dir := 0, ferr := false, tag := 0, head := 0, tail := 0, fhead := 0, filled := 0, claimed := 0,
           unfwd := 0, busy := 0, claims := [], credit := none, lost := false }

/-- RINIT (R153). -/
def execRinit (g q : BitVec 4) (a : BitVec 5) (s : State) : Out :=
  ringInstr (.rinit g q a) g q [ux a] (fun s c _ p =>
    let n := q.toNat
    let w := (p.xr a).toNat
    match (p.rings[n]?).bind fun j => (s.ring c j).map fun r => (j, r) with
    | none => chan n 2
    | some (j, r) =>
      if !ringConfigOk w p.wsize then chan n 2
      else if r.defd && (r.claimed != 0 || r.unfwd != 0 || r.credit.isSome || s.sinkCredit r) then chan n 2
      else .go (s.setRing c j (r.define w))) s

/-- RADV.head (R154). -/
def execRadvHead (g q : BitVec 4) (a : BitVec 5) (s : State) : Out :=
  ringInstr (.radvHead g q a) g q [ux a] (fun s c _ p =>
    let n := q.toNat
    s.ringChecked c p n false fun j r =>
      let k := (p.xr a).toNat
      if r.filled < k then chan n 2 else .go (s.setRing c j (r.pops k))) s

/-- RADV.tail (R154), a release (R158, R302, R303). -/
def execRadvTail (g q : BitVec 4) (a : BitVec 5) (s : State) : Out :=
  ringInstr (.radvTail g q a) g q [ux a] (fun s c _ p =>
    let n := q.toNat
    s.ringChecked c p n true fun j r =>
      let k := (p.xr a).toNat
      if r.free < k then chan n 2
      else if !p.released false then .hold s (.release false)
      else .go (s.setRing c j (r.fills k))) s

/-- RWAIT: the address of the head or the tail slot once the count is reached (R155). -/
def ringWait (n : Nat) (tail : Bool) (a d : BitVec 5) (s : State) (c k : Nat) (p : Proc) : Act :=
  s.ringChecked c p n tail fun _ r =>
    let m := (p.xr a).toNat
    if r.count < m then chan n 2
    else if (if tail then r.free else r.filled) < m then .hold s .ring
    else .go (s.setProc c k (p.setX d (s.ringAddr p r (if tail then r.tail else r.head))))

/-- RWAIT.head (R155). -/
def execRwaitHead (g q : BitVec 4) (a d : BitVec 5) (s : State) : Out :=
  ringInstr (.rwaitHead g q a d) g q [ux a, ux d] (fun s c k p => ringWait q.toNat false a d s c k p) s

/-- RWAIT.tail (R155). -/
def execRwaitTail (g q : BitVec 4) (a d : BitVec 5) (s : State) : Out :=
  ringInstr (.rwaitTail g q a d) g q [ux a, ux d] (fun s c k p => ringWait q.toNat true a d s c k p) s

/-- May a slot blocked in RWAIT go on (R155)? -/
def State.ringReady (s : State) (c : Nat) (p : Proc) : Instr → Bool
  | .rwaitHead _ q a _ => match s.ringOf c p q.toNat with
    | some (_, r) => r.ferr || decide ((p.xr a).toNat ≤ r.filled)
    | none => true
  | .rwaitTail _ q a _ => match s.ringOf c p q.toNat with
    | some (_, r) => r.ferr || decide ((p.xr a).toNat ≤ r.free)
    | none => true
  | _ => true

/-- The word of RSTAT (R156). -/
def Ring.statWord (r : Ring) : Nat :=
  bit r.ferr * 2 ^ 54 + r.dir % 4 * 2 ^ 52 + r.sink % 4 * 2 ^ 50 + bit r.ext * 2 ^ 49 + bit r.defd * 2 ^ 48
    + r.tail % 64 * 2 ^ 40 + r.head % 64 * 2 ^ 32 + r.unfwd % 128 * 2 ^ 24 + r.claimed % 128 * 2 ^ 16
    + r.free % 128 * 2 ^ 8 + r.filled % 128

/-- RSTAT (R156). -/
def execRstat (g q : BitVec 4) (d : BitVec 5) (s : State) : Out :=
  ringInstr (.rstat g q d) g q [ux d] (fun s c k p =>
    .go (s.setProc c k (p.setX d (BitVec.ofNat 64 (match s.ringOf c p q.toNat with
      | some (_, r) => r.statWord
      | none => 0))))) s

/-! ### Slabs (R178) -/

/-- Is the virtual grid of the die at its edge, for DIR or, with `sink`, for SINK (R178)? -/
def slabEdge (v dir : Nat) (sink : Bool) : Bool :=
  if dir == 1 then v % 64 % 32 == (if sink then 0 else 31)
  else if dir == 2 then v / 64 % 31 == (if sink then 0 else 30)
  else false

/-- Does SLAB refuse (R178)? -/
def State.slabRefused (s : State) (c : Nat) (p : Proc) (j : Nat) (r : Ring) (w : Nat) : Bool :=
  let sink := bits w 2 2
  let dir := bits w 0 2
  let v := p.vcore.toNat
  decide (2 ^ 16 ≤ w) || bits w 4 4 != 0 || sink == 3 || dir == 3 || (sink != 0 && !r.ext) || r.unfwd != 0
    || r.credit.isSome || s.sinkCredit r || slabEdge v dir false || slabEdge v sink true
    || (sink != 0 && (s.core c).rings.any fun e => e.1 != j && e.2.defd && e.2.sink == sink && e.2.tag == bits w 8 8
      && e.2.ring == r.ring && (match (s.core c).find e.2.owner with | some o => o.ctx == p.ctx | none => false))

/-- A ring as SLAB leaves it (R178): the next slot to forward is the next one to be filled (log entry 19). -/
def Ring.slab (r : Ring) (w : Nat) : Ring :=
  { r with tag := bits w 8 8, sink := bits w 2 2, dir := bits w 0 2, ferr := false, lost := false,
           fhead := r.wrap (r.head + r.filled) }

/-- SLAB (R178); with DIR ≠ 0 it is barred in a draft (R354, R355). Memory cores have no such instruction (R271). -/
def execSlab (g q : BitVec 4) (a : BitVec 5) (s : State) : Out :=
  instr (.slab g q a) s
    (fun c p => { legal := !isMemCore c, uses := [(2, q.toNat), ux a], guard := p.guardBit g 0 }) fun s c _ p =>
    let n := q.toNat
    let w := (p.xr a).toNat
    if p.isDraft && bits w 0 2 != 0 then .barred
    else match s.ringOf c p n with
      | none => chan n 4
      | some (j, r) => if s.slabRefused c p j r w then chan n 2 else .go (s.setRing c j (r.slab w))

/-! ### Forwarding (R179, R180) -/

/-- The owner of a ring. -/
def Core.ringOwner (co : Core) (r : Ring) : Option Proc := co.find r.owner

/-- The agent of a source's neighbour, when it is not fenced. -/
def State.sinkCore (s : State) (c : Nat) (r : Ring) : Option Nat :=
  if r.dir == 0 then none else s.live (forwardNeighbour (s.vcoreOf c) r.dir false)

/-- The sink that matches a source (R179). -/
def State.sinkOf (s : State) (c : Nat) (r : Ring) : Option (Nat × Nat × Ring) :=
  match (s.core c).ringOwner r, s.sinkCore c r with
  | some p, some d =>
    ((s.core d).ringMatching p.ctx.toNat r.tag r.ring fun q => q.sink == r.dir).map fun e => (d, e.1, e.2)
  | _, _ => none

/-- Does a source wait for a credit (R179)? -/
def Ring.wantsCredit (r : Ring) : Bool := r.dir != 0 && !r.ferr && r.unfwd != 0 && r.credit.isNone && !r.lost

/-- FORWARD_CREDIT_GRANT: the source is ring descriptor `n` of core `c`; its matching sink grants a credit and claims a
slot (R179). One credit of a ring is outstanding at a time (log entry 20). -/
def execForwardCreditGrant (s : State) : Out :=
  let c := s.ev.c
  match s.ring c s.ev.n with
  | none => .next s
  | some r =>
    match s.sinkOf c r with
    | none => .next s
    | some (d, j, t) =>
      if r.wantsCredit && t.free != 0 && decide (r.ssize ≤ t.ssize) && (s.core d).peermask.getLsbD (peerClass c d) then
        let (t', slot) := t.claim
        let s := s.setRing d j t'
        match s.ring c s.ev.n with
        | some r => .next (s.setRing c s.ev.n { r with credit := some (ringPlace t.name slot, false) })
        | none => .next s
      else .next s

/-- FORWARD_SEND: the slot at FHEAD of ring descriptor `n` of core `c` enters the mesh against its credit (R179). DESIGN CHOICE (log
entry 49): the copy holds the bytes that stand in the slot at this moment; R158 leaves open, byte by byte, whether a store made while
the slot is being forwarded appears in it. -/
def execForwardSend (s : State) : Out :=
  let c := s.ev.c
  match s.ring c s.ev.n with
  | none => .next s
  | some r =>
    match r.credit, (s.core c).ringOwner r, s.sinkCore c r with
    | some (place, false), some p, some d =>
      let data := (s.core c).spad.bytes (r.slotAt p.wbase r.fhead) (256 * r.ssize)
      .next ((s.setRing c s.ev.n { r with credit := some (place, true) }).send c d 3
        (.fwdData { core := c, id := r.name } place data))
    | _, _, _ => .next s

/-- FORWARD_DATA_ARRIVE: packet `n` is written into the slot that was granted, which is then filled, and acknowledged
(R179). A ring whose owner has ended takes nothing (R180); for a saved ring the data waits (R377). -/
def execForwardDataArrive (s : State) : Out :=
  .next (s.onPacket s.ev.n fun s pk =>
    match pk.body with
    | .fwdData src place data =>
      match s.ringAt place with
      | some (d, j, t, slot) =>
        match (s.core d).ringOwner t with
        | some p =>
          let s := s.modCore d fun co => { co with spad := co.spad.put (t.slotAt p.wbase slot) data }
          some ((s.setRing d j (t.complete slot)).send d pk.src 2 (.fwdAck src))
        | none => some s
      | none => if (s.savedPlace place).isSome then none else some s
    | _ => none)

/-- FORWARD_ACK: FHEAD advances and UNFWD falls; the descriptor of an owner that has ended is released (R149, R179). -/
def execForwardAck (s : State) : Out :=
  .next (s.onPacket s.ev.n fun s pk =>
    match pk.body with
    | .fwdAck src =>
      match (s.core src.core).ringNamed src.id with
      | some (j, r) =>
        if r.credit.isNone then some s
        else some (s.setRing src.core j { r.forwarded with credit := none }).sweepRings
      | none => some s
    | _ => none)

/-- Is the neighbour that a source forwards to fenced (R389)? -/
def State.sinkFenced (s : State) (c : Nat) (r : Ring) : Bool :=
  r.dir != 0 && (s.mapEntry (forwardNeighbour (s.vcoreOf c) r.dir false)).getLsbD 14

/-- Why a source cannot forward: 0 it can or must wait, 1 its sink is gone, fenced or too small, 2 the sink's PEERMASK refuses
it (R180, R389). -/
def State.forwardFault (s : State) (c : Nat) (r : Ring) : Nat :=
  if r.ferr || r.dir == 0 then 0
  else if r.lost || (r.unfwd != 0 && s.sinkFenced c r) then 1
  else match r.credit with
    | some (place, sent) =>
      if ((s.ringAt place).isNone && (s.savedPlace place).isNone) || (sent && (s.sinkCore c r).isNone) then 1 else 0
    | none =>
      if r.unfwd == 0 then 0
      else match s.sinkOf c r with
        | none => 0
        | some (d, _, t) =>
          if !(s.core d).peermask.getLsbD (peerClass c d) then 2 else if t.ssize < r.ssize then 1 else 0

/-- The local-space address of the slot that could not be forwarded (R180). -/
def State.unforwarded (s : State) (p : Proc) (r : Ring) : Word := s.ringAddr p r r.fhead

/-- FORWARD_FAILURE: ring descriptor `n` of core `c` cannot be forwarded and becomes FERR (R180). The descriptor of an
owner that has ended is released. -/
def execForwardFailure (s : State) : Out :=
  let c := s.ev.c
  match s.ring c s.ev.n with
  | none => .next s
  | some r =>
    let f := s.forwardFault c r
    if f == 0 then .next s
    else
      let s := match f, (s.core c).ringOwner r with
        | 2, some p => s.refusal p.ctx.toNat 0x14 5 (s.selfWord ((s.core c).slotFor p.uid) p) (s.unforwarded p r) 0
        | _, _ => s
      let s := s.cancelCredit r
      .next (match s.ring c s.ev.n with
        | some r => (s.setRing c s.ev.n r.fail).sweepRings
        | none => s)

/-! ### Claims of external producers (R152, R275, R324) -/

/-- The live process with a generation on a core, that the ring word names. -/
def Core.ringTarget (co : Core) (ring : Word) : Option Proc :=
  (((co.procs.map (·.2)) ++ co.parked.map (·.proc)).find? fun p => p.gen.toNat == bits ring.toNat 13 8)

/-- Does the ring word name a saved process (R377)? -/
def Core.savedTarget (co : Core) (ring : Word) : Bool :=
  co.saved.any fun v => v.procs.any fun e => e.1.gen.toNat == bits ring.toNat 13 8

/-- The status with which a claim fails, 0 for none, and the descriptor it claims (R275). -/
def State.claimCheck (s : State) (c : Nat) (ring : Word) (ctx len cls : Nat) (third : Bool) : Nat × Nat :=
  let co := s.core c
  if !(co.peermask.getLsbD cls && (!third || co.peermask.getLsbD 6)) then (5, 0)
  else match co.ringTarget ring with
    | none => (1, 0)
    | some p =>
      if p.ctx.toNat != ctx then (5, 0)
      else match s.ringOf c p (bits ring.toNat 21 4) with
        | none => (4, 0)
        | some (j, r) => if !r.ext then (5, 0) else if 256 * r.ssize < len then (2, 0) else (0, j)

/-- RING_CLAIM_ARRIVE: packet `n` is checked at the ring's core; it waits there or is refused (R275); one for a saved process waits in
the mesh until the resume (R377). -/
def execRingClaimArrive (s : State) : Out :=
  .next (s.onPacket s.ev.n fun s pk =>
    match pk.body with
    | .ringClaim ring ctx len cls third job memop =>
      if (s.core pk.dst).savedTarget ring then none
      else
      let (st, j) := s.claimCheck pk.dst ring ctx len cls third
      if st != 0 then some (s.send pk.dst pk.src 0 (.ringAns job memop st 0))
      else match s.ring pk.dst j with
        | some r => some (s.setRing pk.dst j { r with queue := r.queue ++ [(len, job, memop)] })
        | none => some s
    | _ => none)

/-- RING_CLAIM_GRANT: the oldest claim that waits on ring descriptor `n` of core `c` takes the tail slot (R275); it is refused where the
ring has been defined again as a local one, or with smaller slots (R152, R275). -/
def execRingClaimGrant (s : State) : Out :=
  let c := s.ev.c
  match s.ring c s.ev.n with
  | none => .next s
  | some r =>
    match r.queue with
    | (len, job, memop) :: rest =>
      let refuse := fun (st : Nat) =>
        Host.Outcome.next ((s.setRing c s.ev.n { r with queue := rest }).send c job.core 0 (.ringAns job memop st 0))
      if !r.defd then .next s
      else if !r.ext then refuse 5
      else if 256 * r.ssize < len then refuse 2
      else if r.free == 0 then .next s
      else
        let (r', slot) := r.claim
        .next ((s.setRing c s.ev.n { r' with queue := rest }).send c job.core 0
          (.ringAns job memop 0 (ringPlace r.name slot)))
    | [] => .next s

/-- A copy's claim is answered (R324): it may send its units, or it ends with the claim's status. -/
def Copy.claimed (cp : Copy) (st place : Nat) : Copy :=
  if st == 0 then { cp with claim := 3, slot := place }
  else { cp with claim := 4, status := if cp.status == 0 then st else cp.status }

/-- An HPUSH's claim is answered, or its slot has been filled (R275). -/
def MemOp.claimed (m : MemOp) (st place : Nat) : MemOp :=
  if m.stage == 1 then
    (if st == 0 then { m with stage := 2, slot := place } else { m with stage := 4, status := st })
  else { m with stage := 4, status := if m.status == 0 then st else m.status }

/-- The answer to a claim reaches its producer (R275, R324). A grant whose producer has withdrawn is settled (R465). -/
def State.claimAnswered (s : State) (job : Job) (memop : Bool) (st place : Nat) : State :=
  let co := s.core job.core
  if memop && co.memops.any (fun m => m.id == job.id) then
    s.setCore job.core { co with memops := co.memops.map fun m =>
      (if m.id == job.id then m.claimed st place else m) }
  else if !memop && co.copies.any (fun cp => cp.id == job.id && cp.claim == 2) then
    s.setCore job.core { co with copies := co.copies.map fun cp =>
      (if cp.id == job.id then cp.claimed st place else cp) }
  else if st == 0 then s.settlePlace place else s

/-- RING_CLAIM_ANSWER: packet `n` reaches the producer (R275, R324); a grant to a fenced producer is settled (R389, R465). -/
def execRingClaimAnswer (s : State) : Out :=
  .next (match s.packet s.ev.n with
  | none => s
  | some pk =>
    let s' := s.drop s.ev.n
    match pk.body with
    | .ringAns job memop st place =>
      if s.fenced pk.dst then (if st == 0 then s'.settlePlace place else s')
      else s'.claimAnswered job memop st place
    | _ => s)

end Sys2Proof.Machine
end

