-- ==== Sys2Proof/Machine/Tile.lean ====
section
/-! DEFINITION. Sys2Proof/Machine/Tile.lean: the tile unit: accumulator slots (R159, R160), the tile queue (R161 to R165), the
tile instructions (R166 to R177) with their orders of summation (R84, R85), and the governor (R460, R461). -/

namespace Sys2Proof.Machine

/-! ### Scale registers (R169) -/

/-- z[n] of captured scale registers. -/
def zr (z : Vector Word 4) (n : Nat) : Nat := (z[n]?.getD 0).toNat
/-- MODE, UNI and OFF of z0 and z1; OFF and AK of z2; TOFF of z3 (R169). -/
def zMode (z : Vector Word 4) (n : Nat) : Bool := bits (zr z n) 48 1 == 1
def zUni (z : Vector Word 4) (n : Nat) : Nat := bits (zr z n) 40 8
def zOff (z : Vector Word 4) (n : Nat) : Nat := bits (zr z n) 0 16
def zAk (z : Vector Word 4) : Nat := bits (zr z 2) 16 2
def zToff (z : Vector Word 4) : Nat := bits (zr z 3) 0 18

/-- The bits of a z register that TSCL stores (R169). -/
def zMask (n : Nat) : Word :=
  if n < 2 then 0x1FF000000FFE0 else if n == 2 then 0x3FFE0 else 0x3FF00

/-- TSCL (R169); memory cores have no such instruction (R271). -/
def execTscl (g : BitVec 4) (z : BitVec 2) (a : BitVec 5) (s : State) : Out :=
  instr (.tscl g z a) s (fun c p => { legal := !isMemCore c, uses := [ux a], guard := p.guardBit g 0 }) fun s c k p =>
    .go (s.setProc c k { p with z := p.z.setIfInBounds z.toNat (p.xr a &&& zMask z.toNat) })

/-! ### Shapes and sizes -/

/-- Accumulator kinds by their TC codes: f64, f32 and i32 (R160). -/
abbrev AccKind := Nat

/-- Elements of an accumulator of a kind (R172). -/
def accElems (ak : AccKind) : Nat := if ak == 8 then 64 else 256

/-- AccKind of TLOADA and TSTORE (R172). -/
def accKindLoad (z : Vector Word 4) (t : Nat) : AccKind :=
  if zAk z == 1 then 8 else if zAk z == 2 then 9 else if zAk z == 3 then 2
  else if t == 8 then 8 else if t == 2 then 2 else 9

def accKindStore (z : Vector Word 4) (t : Nat) (mx : Bool) : AccKind :=
  if zAk z == 1 then 8 else if zAk z == 2 then 9 else if zAk z == 3 then 2
  else if mx then 9 else if t == 8 then 8 else if t < 8 then 2 else 9

/-- The native step of TMMA: m, n, k, element width, and the TC code of elements and accumulator (R166). -/
structure Shape where
  m    : Nat
  n    : Nat
  k    : Nat
  w    : Nat
  elem : Nat
  acc  : AccKind

def tmmaShape (t : Nat) : Shape :=
  if t == 0 then ⟨8, 8, 8, 64, 8, 8⟩ else if t == 1 then ⟨16, 16, 8, 32, 9, 9⟩
  else if t == 2 then ⟨16, 16, 32, 16, 10, 9⟩ else if t == 3 then ⟨16, 16, 32, 16, 11, 9⟩
  else if t == 4 then ⟨16, 16, 64, 8, 12, 9⟩ else if t == 5 then ⟨16, 16, 64, 8, 13, 9⟩
  else if t == 6 then ⟨16, 16, 64, 8, 0, 2⟩ else ⟨16, 16, 64, 8, 4, 2⟩

/-- k and the element area of a TMMX form (R171). -/
def tmmxK (e : Nat) : Nat := if e < 2 then 64 else 128
def tmmxArea (e : Nat) : Nat := 16 * tmmxK e * (elFmt e).width / 8

/-- Bytes of an operand tile of TMMX with its scale area (R171). -/
def tmmxSize (z : Vector Word 4) (e n : Nat) : Nat :=
  if zMode z n then tmmxArea e else tmmxArea e + zOff z n + 16 * (tmmxK e / 32)

/-- Bytes of a TSTORE result (R175). -/
def tstoreSize (z : Vector Word 4) (t e : Nat) : Nat :=
  let mx := e / 4 % 2 == 1
  let ne := accElems (accKindStore z t mx)
  if mx then ne * (elFmt t).width / 8 + zOff z 2 + ne / 32 else ne * tcBits t / 8

/-- Rows and columns of a TTRN source (R177). -/
def ttrnShape (t : Nat) : Nat × Nat :=
  if tcBits t == 64 then (8, 8) else if tcBits t == 32 then (8, 16) else if tcBits t == 16 then (32, 16) else (64, 16)

/-- Bytes of a TTRN tile. -/
def ttrnSize (t : Nat) : Nat := (ttrnShape t).1 * (ttrnShape t).2 * tcBits t / 8

/-- A ring that an instruction takes from or fills, with the bytes that must fit into its slots. -/
structure RingUse where
  ring : Nat
  size : Nat

/-- What a tile instruction uses: its accumulator slot, whether it reads the activation table, its source rings in check
order, and its destination (R161). -/
structure TileUse where
  acc  : Option Nat := none
  act  : Bool := false
  srcs : List RingUse := []
  dst  : Option RingUse := none

def tileUse (z : Vector Word 4) : Instr → TileUse
  | .tmma _ t c b a =>
    let sh := tmmaShape t.toNat
    let n := sh.m * sh.k * sh.w / 8
    { acc := some c.toNat, srcs := [⟨a.toNat, n⟩, ⟨b.toNat, n⟩] }
  | .tmmx _ e c b a =>
    { acc := some c.toNat, srcs := [⟨a.toNat, tmmxSize z e.toNat 0⟩, ⟨b.toNat, tmmxSize z e.toNat 1⟩] }
  | .tzero _ c => { acc := some c.toNat }
  | .tloada _ t c q =>
    { acc := some c.toNat, srcs := [⟨q.toNat, accElems (accKindLoad z t.toNat) * tcBits t.toNat / 8⟩] }
  | .tstore _ t c q e =>
    { acc := some c.toNat, act := e.toNat / 2 % 2 == 1, dst := some ⟨q.toNat, tstoreSize z t.toNat e.toNat⟩ }
  | .ttrn _ t sx q => { srcs := [⟨sx.toNat, ttrnSize t.toNat⟩], dst := some ⟨q.toNat, ttrnSize t.toNat⟩ }
  | _ => {}

/-- Execution cycles (R163). -/
def tileCycles : Instr → Nat
  | .tzero _ _ => 4
  | .tstore _ _ _ _ e => 16 + 16 * (e.toNat / 2 % 2) + 16 * (e.toNat / 4 % 2)
  | _ => 16

/-! ### Issue (R161) -/

/-- Window offset of accumulator slot `c`, when it lies in the window (R159). -/
def Proc.accAt (p : Proc) (c : Nat) : Option Nat :=
  if 1024 * (c + 1) ≤ p.wsize then some (p.wbase + p.wsize - 1024 * (c + 1)) else none

/-- The trap of a ring that an instruction names (R161). -/
def State.ringTrap (s : State) (c : Nat) (p : Proc) (dst : Bool) (u : RingUse) : Option Act :=
  match s.ringOf c p u.ring with
  | none => some (chan u.ring 4)
  | some (_, r) =>
    if 256 * r.ssize < u.size then some (chan u.ring 2) else if dst && r.ext then some (chan u.ring 5) else none

/-- The first trap of the issue checks (R161). When a TSTORE's accumulator slot and its activation table both lie outside the window,
which R161 does not order, TVAL names the accumulator slot (DESIGN CHOICE, log entry 47). -/
def State.tileTrap (s : State) (c : Nat) (p : Proc) (u : TileUse) : Option Act :=
  match u.acc with
  | some a =>
    if (p.accAt a).isNone then some (.trap 4 (s.winBase p + BitVec.ofNat 64 p.wsize - BitVec.ofNat 64 (1024 * (a + 1))))
    else if u.act && decide (p.wsize < zToff p.z + 2048) then some (.trap 4 (s.winBase p + BitVec.ofNat 64 (zToff p.z)))
    else match u.srcs.findSome? (s.ringTrap c p false) with
      | some t => some t
      | none => u.dst.bind (s.ringTrap c p true)
  | none =>
    match u.srcs.findSome? (s.ringTrap c p false) with
    | some t => some t
    | none => u.dst.bind (s.ringTrap c p true)

/-- A tile instruction waits for acceptance (R161, R162). -/
def tileInstr (i : Instr) (g : BitVec 4) (us : List Use) (s : State) : Out :=
  instr i s (fun c p => { legal := !isMemCore c, uses := us, guard := p.guardBit g 0 }) fun s c _ p =>
    match s.tileTrap c p (tileUse p.z i) with
    | some t => t
    | none =>
      .hold (s.modCore c fun co => { co with tilew := co.tilew ++ [p.uid] }) .tileWait

/-- TMMA (R166 to R168). -/
def execTmma (g : BitVec 4) (t : BitVec 3) (c b a : BitVec 4) (s : State) : Out :=
  tileInstr (.tmma g t c b a) g [(3, c.toNat), (2, b.toNat), (2, a.toNat)] s

/-- TMMX (R171). -/
def execTmmx (g : BitVec 4) (t : BitVec 3) (c b a : BitVec 4) (s : State) : Out :=
  tileInstr (.tmmx g t c b a) g [(3, c.toNat), (2, b.toNat), (2, a.toNat)] s

/-- TZERO (R173). -/
def execTzero (g c : BitVec 4) (s : State) : Out := tileInstr (.tzero g c) g [(3, c.toNat)] s

/-- TLOADA (R174). -/
def execTloada (g t c q : BitVec 4) (s : State) : Out := tileInstr (.tloada g t c q) g [(3, c.toNat), (2, q.toNat)] s

/-- TSTORE (R175). -/
def execTstore (g t c q : BitVec 4) (e : BitVec 3) (s : State) : Out :=
  tileInstr (.tstore g t c q e) g [(3, c.toNat), (2, q.toNat)] s

/-- TTRN (R177). -/
def execTtrn (g t sx q : BitVec 4) (s : State) : Out := tileInstr (.ttrn g t sx q) g [(2, sx.toNat), (2, q.toNat)] s

/-! ### The queue (R162, R163) -/

/-- Do the rings of a waiting instruction let it be accepted (R162)? -/
def State.tileRings (s : State) (c : Nat) (p : Proc) (u : TileUse) : Bool :=
  (u.srcs.all fun r => match s.ringOf c p r.ring with | some (_, q) => q.filled != 0 | none => false) &&
  (match u.dst with
   | none => true
   | some r => match s.ringOf c p r.ring with | some (_, q) => q.free != 0 | none => false)

/-- Entries in use: one that completes in a cycle is free in the next (R163). -/
def Core.tileUsed (co : Core) (now : Nat) : Nat := co.tileq.length + bit (co.tileEnd == now + 1)

/-- The waiting process that qualifies first in issue order (R162). -/
def State.tileNext (s : State) (c : Nat) : Option Proc :=
  (s.core c).tilew.findSome? fun uid => match (s.core c).find uid with
    | some p => match p.wait with
      | some w => if s.tileRings c p (tileUse p.z w.instr) then some p else none
      | none => none
    | none => none

/-- TILE_ACCEPT: core `c` accepts the oldest waiting tile instruction that qualifies, one in a cycle: z0 to z3 are captured and the tail
slot of a destination is claimed (R162, R170). A process parked in its wait becomes ready instead. -/
def execTileAccept (s : State) : Out :=
  let c := s.ev.c
  let co := s.core c
  match s.tileNext c with
  | none => .next s
  | some p =>
    if 2 ≤ co.tileUsed s.now || co.tileq.any (fun op => op.start == s.now + 1) then .next s
    else
      let s := s.setCore c { co with tilew := co.tilew.erase p.uid }
      if (co.blockedSlot p.uid).isNone then .next (s.reissue c p.uid)
      else match p.wait with
        | none => .next s
        | some w =>
          let (s, slot) := match (tileUse p.z w.instr).dst.bind fun u => s.ringOf c p u.ring with
            | some (j, r) => (s.setRing c j r.claim.1, r.claim.2)
            | none => (s, 0)
          let op : TileOp := { uid := p.uid, instr := w.instr, z := p.z, slot := slot, start := s.now + 1, till := none,
                               held := none }
          .next (s.modCore c fun co =>
            ({ co with tileq := co.tileq ++ [op] }).modUid p.uid fun p =>
              { p with wait := some { instr := w.instr, kind := .tileRun } })

/-- Has the tile unit executed nothing for 256 cycles (R460)? -/
def Core.tileIdle (co : Core) (now : Nat) : Bool := co.tileEnd == 0 || decide (co.tileEnd + 256 ≤ now)

/-- May the head of the tile queue start now, but for the governor (R163, R460)? -/
def Core.tileReady (co : Core) (now : Nat) : Bool :=
  match co.tileq with
  | [] => false
  | op :: _ => op.till.isNone && op.held.isNone && decide (op.start ≤ now) && decide (co.tileEnd ≤ now)
      && (match co.tileWake with | some w => decide (w ≤ now) | none => true)

/-- Start the head of the tile queue. -/
def Core.tileBegin (co : Core) (now : Nat) : Core :=
  match co.tileq with
  | [] => co
  | op :: rest =>
    { co with tileq := { op with till := some (now + tileCycles op.instr - 1), held := none } :: rest, tileWake := none }

/-- TILE_START: the next accepted instruction of core `c` starts, or, when the unit is idle, asks the die's governor for an
activation (R163, R461). -/
def execTileStart (s : State) : Out :=
  let c := s.ev.c
  let co := s.core c
  if !co.tileReady s.now then .next s
  else if co.tileIdle s.now then
    .next (s.setCore c { co with tileq := match co.tileq with
      | op :: rest => { op with held := some s.now } :: rest
      | [] => [] })
  else .next (s.setCore c (co.tileBegin s.now))

/-- The cores of a die whose activation is held, each with the cycle of its request. -/
def State.heldCores (s : State) (d : Nat) : List (Nat × Nat) :=
  s.cores.filterMap fun e =>
    if e.1 / 1024 == d && decide (e.1 < 4096) then
      (match e.2.tileq with | op :: _ => op.held.map fun t => (t, e.1) | [] => none)
    else none

/-- The oldest request, of equals the lowest vcore (R461). -/
def State.firstHeld (s : State) : List (Nat × Nat) → Option (Nat × Nat)
  | [] => none
  | h :: l => match s.firstHeld l with
    | none => some h
    | some g =>
      if h.1 < g.1 || (h.1 == g.1 && decide (s.vcoreOf h.2 ≤ s.vcoreOf g.2)) then some h else some g

/-- Activations of the last 128 cycles, this one among them. -/
def Die.recent (d : Die) (now : Nat) : List Nat := d.grants.filter fun t => decide (now < t + 128)

/-- TILE_ACTIVATION_GRANT: the governor of die `c` admits the oldest held activation: at most 64 in any 128 cycles, 16 while
the die is hot (R461, R462). -/
def execTileActivationGrant (s : State) : Out :=
  let d := s.ev.c
  match s.firstHeld (s.heldCores d) with
  | none => .next s
  | some (_, c) =>
    let g := (s.die d).recent s.now
    if (if (s.die d).hot then 16 else 64) ≤ g.length then .next s
    else
      .next ((s.modDie d fun e => { e with grants := g ++ [s.now] }).modCore c fun co => co.tileBegin s.now)

/-! ### What a tile instruction computes -/

/-- A list of byte blocks to write, each at a scratchpad offset, with the rounding state. -/
structure TileWork where
  writes : List (Nat × List Byte)
  fp     : Fp

/-- The scratchpad offset of a source tile: the head slot of its ring. -/
def State.headAt (s : State) (c : Nat) (p : Proc) (n : Nat) : Nat :=
  match s.ringOf c p n with
  | some (_, r) => r.slotAt p.wbase r.head
  | none => 0

/-- The scratchpad offset of the claimed slot of a destination ring. -/
def State.destAt (s : State) (c : Nat) (p : Proc) (n slot : Nat) : Nat :=
  match s.ringOf c p n with
  | some (_, r) => r.slotAt p.wbase slot
  | none => 0

/-- Four products at a time into the accumulator (R84). -/
def groupsInto : List Num → Nat → Fp → Nat × Fp
  | a :: b :: c :: d :: l, acc, x =>
    let (acc, x) := groupSum acc [a, b, c, d] x
    groupsInto l acc x
  | _, acc, x => (acc, x)

/-- One fused step per product (R84). -/
def fmasInto (t : Fmt) : List (Num × Num) → Nat → Fp → Nat × Fp
  | [], acc, x => (acc, x)
  | (a, b) :: l, acc, x =>
    let (acc, x) := t.fma 0 a b (t.value acc) x
    fmasInto t l acc x

/-- The new value of element (i, j) under TMMA: `a` and `b` give the encodings of row i and column j (R84, R168). -/
def tmmaElem (t : Nat) (a b : List Nat) (acc : Nat) (x : Fp) : Nat × Fp :=
  let sh := tmmaShape t
  match tcFmt sh.elem with
  | some f =>
    let ps := (a.zip b).map fun e => (f.value e.1, f.value e.2)
    if t < 2 then fmasInto f ps acc x else groupsInto (ps.map fun e => e.1.mul e.2) acc x
  | none =>
    (((a.zip b).foldl (fun (v : Int) (e : Nat × Nat) => v + tcInt sh.elem e.1 * tcInt sh.elem e.2) (acc : Int)
      % 2 ^ 32).toNat, x)

/-- The elements of a tile or accumulator: `n` of width `w` from element `e`, in number `v`. -/
def elems (v w e n : Nat) : List Nat := (List.range n).map fun i => element w v (e + i)

/-- All elements (i, j) of an m × n accumulator by `f i j old` (R168). -/
def accWork (m n : Nat) (old : Nat → Nat) (f : Nat → Nat → Nat → Fp → Nat × Fp) (x : Fp) : List Nat × Fp :=
  mapFp (fun e x => f (e / n) (e % n) (old e) x) (List.range (m * n)) x

/-- Bytes of elements of width `w` bits, a multiple of 8. -/
def elemBytes (w : Nat) (l : List Nat) : List Byte := l.flatMap fun v => leBytes v (w / 8)

/-- TMMA (R168). -/
def State.tmmaWork (s : State) (c : Nat) (p : Proc) (t acc qb qa : Nat) (x : Fp) : TileWork :=
  let sp := (s.core c).spad
  let sh := tmmaShape t
  let size := sh.m * sh.k * sh.w / 8
  let at_ := (p.accAt acc).getD 0
  let aw := tcBits sh.acc
  let av := sp.nat (s.headAt c p qa) size
  let bv := sp.nat (s.headAt c p qb) size
  let cv := sp.nat at_ (sh.m * sh.n * aw / 8)
  let (l, x) := accWork sh.m sh.n (element aw cv) (fun i j old x =>
    tmmaElem t (elems av sh.w (i * sh.k) sh.k) (elems bv sh.w (j * sh.k) sh.k) old x) x
  { writes := [(at_, elemBytes aw l)], fp := x }

/-- Scale (R171): byte `b` of row `r` behind the element area at `off`. -/
def mxScale (sp : Mem) (z : Vector Word 4) (n e off r b : Nat) : Nat :=
  if zMode z n then zUni z n else (sp.read (off + tmmxArea e + zOff z n + r * (tmmxK e / 32) + b)).toNat

/-- A scaled product (R85). -/
def mxProduct (f : Fmt) (sa sb a b : Nat) : Num :=
  if sa == 255 || sb == 255 then .nan false
  else ((f.value a).mul (f.value b)).scale ((sa : Int) + (sb : Int) - 254)

/-- TMMX (R85, R171). -/
def State.tmmxWork (s : State) (c : Nat) (p : Proc) (z : Vector Word 4) (e acc qb qa : Nat) (x : Fp) : TileWork :=
  let sp := (s.core c).spad
  let f := elFmt e
  let k := tmmxK e
  let at_ := (p.accAt acc).getD 0
  let ao := s.headAt c p qa
  let bo := s.headAt c p qb
  let av := sp.nat ao (tmmxArea e)
  let bv := sp.nat bo (tmmxArea e)
  let cv := sp.nat at_ 1024
  let (l, x) := accWork 16 16 (element 32 cv) (fun i j old x =>
    groupsInto ((List.range k).map fun n =>
      mxProduct f (mxScale sp z 0 e ao i (n / 32)) (mxScale sp z 1 e bo j (n / 32))
        (element f.width av (i * k + n)) (element f.width bv (j * k + n))) old x) x
  { writes := [(at_, elemBytes 32 l)], fp := x }

/-- TLOADA (R174). -/
def State.tloadaWork (s : State) (c : Nat) (p : Proc) (z : Vector Word 4) (t acc q : Nat) (x : Fp) : TileWork :=
  let ak := accKindLoad z t
  let ne := accElems ak
  let v := (s.core c).spad.nat (s.headAt c p q) (ne * tcBits t / 8)
  let (l, x) := mapFp (fun e x => convert t ak 0 (element (tcBits t) v e) x) (List.range ne) x
  { writes := [((p.accAt acc).getD 0, elemBytes (tcBits ak) l)], fp := x }

/-- Activate (R176): the table begins at scratchpad offset `toff`. -/
def activate (sp : Mem) (toff w y : Nat) (x : Fp) : Nat × Fp :=
  let f := if w == 8 then f64 else f32
  match f.value y with
  | .nan nv => (f.canonNaN, x.raiseIf nv flagNV)
  | v =>
    let ex : Int := (y / 2 ^ f.f % 2 ^ f.e : Nat)
    let j := (min (max (ex - f.bias + 64) 0) 127).toNat
    let n := 128 * (y / 2 ^ (f.e + f.f) % 2) + j
    f.fma 0 (f32.value (sp.nat (toff + 8 * n) 4)) v (f32.value (sp.nat (toff + 8 * n + 4) 4)) x

/-- One element of TSTORE through conversion, scale and bias, and activation (R175). -/
def storeElem (sp : Mem) (p : Proc) (z : Vector Word 4) (ak w e y : Nat) (x : Fp) : Nat × Fp :=
  let (y, x) := convert ak w 0 y x
  let f := if w == 8 then f64 else f32
  let arg := fun r : BitVec 3 => f.value ((p.er r).toNat % 2 ^ tcBits w)
  let (y, x) := if e % 2 == 1 then f.fma 0 (f.value y) (arg 0) (arg 1) x else (y, x)
  if e / 2 % 2 == 1 then activate sp (p.wbase + zToff z) w y x else (y, x)

/-- The MX blocks of TSTORE: scales and elements of successive groups of 32 (R87, R175). -/
def mxBlocks (f : Fmt) (el : Nat) : Nat → List Nat → Fp → List Nat × List Nat × Fp
  | 0, _, x => ([], [], x)
  | n + 1, l, x =>
    let (sc, es, x) := mxQuantise ((l.take 32).map fun v => (f.value v, true)) el 0 x
    let (scs, ess, x) := mxBlocks f el n (l.drop 32) x
    (sc :: scs, es ++ ess, x)

/-- TSTORE (R175). -/
def State.tstoreWork (s : State) (c : Nat) (p : Proc) (z : Vector Word 4) (t acc q e slot : Nat) (x : Fp) : TileWork :=
  let sp := (s.core c).spad
  let mx := e / 4 % 2 == 1
  let ak := accKindStore z t mx
  let ne := accElems ak
  let w := if ak == 8 then 8 else if ak == 2 && e == 0 && decide (t < 8) then 2 else 9
  let v := sp.nat ((p.accAt acc).getD 0) (ne * tcBits ak / 8)
  let (l, x) := mapFp (fun i x => storeElem sp p z ak w e (element (tcBits ak) v i) x) (List.range ne) x
  let at_ := s.destAt c p q slot
  if mx then
    let bw := (elFmt t).width
    let (scs, es, x) := mxBlocks (if w == 8 then f64 else f32) t (ne / 32) l x
    { writes := [(at_, leBytes (packElements bw es) (ne * bw / 8)),
                 (at_ + ne * bw / 8 + zOff z 2, scs.map (BitVec.ofNat 8))], fp := x }
  else
    let (l, x) := mapFp (fun y x => convert w t 0 y x) l x
    { writes := [(at_, elemBytes (tcBits t) l)], fp := x }

/-- TTRN (R177). -/
def State.ttrnWork (s : State) (c : Nat) (p : Proc) (t qs qd slot : Nat) (x : Fp) : TileWork :=
  let (k, n) := ttrnShape t
  let v := (s.core c).spad.nat (s.headAt c p qs) (ttrnSize t)
  { writes := [(s.destAt c p qd slot,
      elemBytes (tcBits t) ((List.range (k * n)).map fun i => element (tcBits t) v (i % k * n + i / k)))], fp := x }

/-- What an accepted tile instruction computes. -/
def State.tileWork (s : State) (c : Nat) (p : Proc) (op : TileOp) : TileWork :=
  let x := p.fp
  match op.instr with
  | .tmma _ t a b q => s.tmmaWork c p t.toNat a.toNat b.toNat q.toNat x
  | .tmmx _ t a b q => s.tmmxWork c p op.z t.toNat a.toNat b.toNat q.toNat x
  | .tzero _ a => { writes := [((p.accAt a.toNat).getD 0, List.replicate 1024 0)], fp := x }
  | .tloada _ t a q => s.tloadaWork c p op.z t.toNat a.toNat q.toNat x
  | .tstore _ t a q e => s.tstoreWork c p op.z t.toNat a.toNat q.toNat e.toNat op.slot x
  | .ttrn _ t sx q => s.ttrnWork c p t.toNat sx.toNat q.toNat op.slot x
  | _ => { writes := [], fp := x }

/-- The byte ranges that a tile instruction reads (R164). -/
def State.tileReads (s : State) (c : Nat) (p : Proc) (op : TileOp) : List (Nat × Nat) :=
  let u := tileUse op.z op.instr
  let acc := match op.instr, u.acc with
    | .tmma _ t .., some a => [((p.accAt a).getD 0, if t == 0 then 512 else 1024)]
    | .tmmx .., some a => [((p.accAt a).getD 0, 1024)]
    | .tstore _ t _ _ e, some a =>
      let ak := accKindStore op.z t.toNat (e.toNat / 4 % 2 == 1)
      [((p.accAt a).getD 0, accElems ak * tcBits ak / 8)]
    | _, _ => []
  acc ++ (if u.act then [(p.wbase + zToff op.z, 2048)] else []) ++ u.srcs.map fun r => (s.headAt c p r.ring, r.size)

/-- Pop the head slot of a process's ring (R154, R163). -/
def State.popRing (s : State) (c : Nat) (p : Proc) (n : Nat) : State :=
  match s.ringOf c p n with
  | some (j, r) => s.setRing c j r.pop
  | none => s

/-- Pop the source rings of a tile instruction, each once (R163, R168). -/
def State.popRings (s : State) (c : Nat) (p : Proc) : List Nat → State
  | [a, b] => if a == b then s.popRing c p a else (s.popRing c p a).popRing c p b
  | l => l.foldl (fun s n => s.popRing c p n) s

/-- TILE_COMPLETE: the instruction executing on core `c` reads its operands, writes its results, pops its sources, fills its
destination and merges its flags; its slot goes on (R163 to R165). -/
def execTileComplete (s : State) : Out :=
  let c := s.ev.c
  let co := s.core c
  match co.tileq with
  | [] => .next s
  | op :: rest =>
    match op.till, co.find op.uid with
    | some t, some p =>
      if s.now < t || (s.tileReads c p op).any (fun r => (co.ownedIn r.1 r.2).isSome) then .next s
      else
        let u := tileUse op.z op.instr
        let w := s.tileWork c p op
        let s := s.setCore c { co with tileq := rest, tileEnd := s.now + 1,
                                       spad := w.writes.foldl (fun m b => m.put b.1 b.2) co.spad }
        let s := s.popRings c p (u.srcs.map (·.ring))
        let s := match u.dst.bind fun r => s.ringOf c p r.ring with
          | some (j, r) => s.setRing c j (r.complete op.slot)
          | none => s
        if s.waitOf c op.uid != some .tileRun then .next s
        else .next (s.resume c op.uid fun s k p _ => .go (s.setProc c k (((p.merge { w.fp with seed := p.rseed }).count s.now 6 1).count s.now 7 1)))
    | some t, none => if s.now < t then .next s else .next (s.setCore c { co with tileq := rest, tileEnd := s.now + 1 })
    | none, _ => .next s

end Sys2Proof.Machine
end

