-- ==== Sys2Proof/Machine/Processes.lean ====
section
/-! DEFINITION. Sys2Proof/Machine/Processes.lean: spawn records and slots (R24 to R28, R181 to R186), ending, committing,
yielding (R188 to R193), parking (R194 to R196) and stage processes (R197, R198). -/

namespace Sys2Proof.Machine

/-! ### Headers (R25, R26, R197) -/

/-- The byte, from `base` up, that holds the lowest set bit of an 8-byte word masked by `mask`; none when it has none. -/
def lowByte (base w mask : Nat) : Option Nat :=
  ((List.range 8).find? fun i => (w &&& mask) / 2 ^ (8 * i) % 256 != 0).map fun i => base + i

/-- A condition that makes a header invalid at byte `at_`. -/
def badAt (b : Bool) (at_ : Nat) : Option Nat := if b then some at_ else none

/-- Field `n` bits wide from bit `lo` of header word `i`. -/
def hfield (h : Vector Word 8) (i lo n : Nat) : Nat := bits (h[i]?.getD 0).toNat lo n

/-- STAGETAB entry `j` (R197). -/
def stageEntry (h : Vector Word 8) (j : Nat) : Nat := hfield h (4 + j / 4) (16 * (j % 4)) 16
def stagePort (e : Nat) : Nat := bits e 10 6
def stageIn (e : Nat) : Nat := bits e 5 5
def stageOut (e : Nat) : Nat := bits e 0 5

/-- The used entries of STAGETAB with their numbers. -/
def stageEntries (h : Vector Word 8) : List (Nat × Nat) :=
  ((List.range 16).map fun j => (j, stageEntry h j)).filter fun e => e.2 != 0

/-- Is an entry invalid (R197)? -/
def stageBad (h : Vector Word 8) (e : Nat × Nat) : Bool :=
  (stageIn e.2 != 0 && stageOut e.2 != 0) || decide (16 < stageIn e.2) || decide (16 < stageOut e.2)
    || decide (hfield h 1 48 7 ≤ stagePort e.2)
    || (stageEntries h).any fun f => f.1 != e.1 && stagePort f.2 == stagePort e.2

/-- The offending bytes of a header (R26). A table without an input offends at its first byte (log entry 22). -/
def headerFaults (h : Vector Word 8) : List (Option Nat) :=
  let w := fun i => (h[i]?.getD 0).toNat
  let f := hfield h
  let stage := f 2 1 1 == 1
  [badAt (f 0 0 1 == 1) 0, badAt (f 0 32 1 == 1) 4,
   badAt (f 1 0 10 == 0 || decide (672 < f 1 0 10)) 8, lowByte 8 (w 1) 0x8080E0E0C0C0FC00,
   badAt (decide (f 1 16 6 < 8) || decide (32 < f 1 16 6)) 10, badAt (decide (32 < f 1 24 6)) 11,
   badAt (decide (16 < f 1 32 5)) 12, badAt (decide (16 < f 1 40 5)) 13, badAt (decide (64 < f 1 48 7)) 14,
   badAt (decide (64 < f 1 56 7)) 15, lowByte 16 (w 2) 0xFFFFFFFFFFFF00C0, badAt (f 2 8 8 != 1) 17,
   lowByte 24 (w 3) 0xFFFFFFFFFFFFFFFF]
  ++ (if stage then
        badAt ((stageEntries h).all fun e => stageIn e.2 == 0) 32
          :: (stageEntries h).map fun e => badAt (stageBad h e) (32 + 2 * e.1)
      else [4, 5, 6, 7].map fun i => lowByte (8 * i) (w i) 0xFFFFFFFFFFFFFFFF)

/-- The lowest offending byte of an invalid header (R26). -/
def headerBad (h : Vector Word 8) : Option Nat :=
  (headerFaults h).foldl (fun m o => match m, o with
    | some a, some b => some (min a b)
    | none, o => o
    | m, none => m) none

/-- A header from its 64 bytes. -/
def headerOf (bs : List Byte) : Vector Word 8 := Vector.ofFn fun i : Fin 8 => BitVec.ofNat 64 (ofLe ((bs.drop (8 * i)).take 8))

/-- How the read of a record's header ends (R25). -/
inductive HeaderRead where
  | ok (h : Option (Vector Word 8)) (s : State)
  | later (s : State)
  | noPhys (pa : Nat)
  deriving DecidableEq, Repr

/-- Read a header under a record's context; none when the read faults, lacks R or is refused (R25, R464). -/
def State.readHeader (s : State) (c ctx : Nat) (hdr : Word) : HeaderRead :=
  match s.ownRead c ctx hdr needR 64 with
  | .ok bs s' => .ok (some (headerOf bs)) s'
  | .fault _ _ s' => .ok none s'
  | .refused s' => .ok none s'
  | .later s' => .later s'
  | .noPhys pa => .noPhys pa

/-! ### SPAWN (R183) -/

/-- Is the target of a SPAWN well-formed (R183)? -/
def spawnOk (e0 e1 : Nat) : Bool :=
  let v := bits e1 0 13
  bits e1 27 5 == 0 && bits e1 23 1 == 0 && bits e0 0 6 == 0 && (decide (v < 3968) || decide (4096 ≤ v ∧ v < 4352))

/-- The package that a SPAWN names. -/
def Proc.spawnPkg (p : Proc) : Nat := bits (p.er 1).toNat 13 10

/-- The record of a SPAWN leaves (R183). -/
def State.sendSpawn (s : State) (c : Nat) (p : Proc) : State :=
  let e1 := (p.er 1).toNat
  s.sendTo c (s.dest p.spawnPkg (bits e1 0 13)) 4 (.spawnReq (p.er 0) [p.er 2, p.er 3, p.er 4, p.er 5]
    (bits e1 32 32) p.ctx.toNat (if bits e1 26 1 == 1 then bits e1 24 2 else p.prio.toNat) p.line p.priv
    { core := c, uid := p.uid })

/-- The launch counts a process that another package is to accept, or one of its own that was not accepted (R183, R230). The issuer
is counted meanwhile, so the counter does not reach 0. -/
def State.countSpawn (s : State) (id : Nat) (more : Bool) : State :=
  s.modLaunch id fun r => if more then { r with counter := r.counter + 1, far := true } else { r with counter := r.counter - 1 }

/-- A SPAWN begins: where its record's acceptance and its launch's counter lie in two packages, the launch counts the process first
(R230). -/
def State.beginSpawn (s : State) (c : Nat) (p : Proc) : State :=
  match p.launch with
  | none => s.sendSpawn c p
  | some id =>
    if idPkg id != s.pkgid.toNat then
      s.sendTo c (s.dest (idPkg id) (launchAgent (idDie id))) 0 (.launchJoin id 2 0 { core := c, uid := p.uid })
    else if p.spawnPkg != s.pkgid.toNat then (s.countSpawn id true).sendSpawn c p
    else s.sendSpawn c p

/-- A SPAWN whose record was not accepted: a process counted before is counted no more. -/
def State.spawnFailed (s : State) (c : Nat) (p : Proc) : State :=
  match p.launch with
  | none => s
  | some id =>
    if idPkg id != s.pkgid.toNat then s.report c (some id) { kind := 8 }
    else if p.spawnPkg != s.pkgid.toNat then s.countSpawn id false
    else s

/-- SPAWN (R183); barred in a draft (R354). -/
def execSpawn (g : BitVec 4) (q : BitVec 1) (d : BitVec 5) (s : State) : Out :=
  let i := Instr.spawn g q d
  instr i s (fun _ p => { uses := [ux d], guard := p.guardBit g 0 }) fun s c k p =>
    let e0 := (p.er 0).toNat
    let e1 := (p.er 1).toNat
    let pkg := p.spawnPkg
    if p.isDraft then .barred
    else if !spawnOk e0 e1 || !s.inDomain pkg then statusAct i 2 s c k
    else if !p.released (pkg != s.pkgid.toNat) then .hold s (.release (pkg != s.pkgid.toNat))
    else .hold (s.beginSpawn c p) .spawnAns

/-- Records of all priorities together (R182). -/
def queueSize : Nat := 128

/-- Is the launch of a record being cancelled? That of another package counts as such from its cancel's arrival here. -/
def State.cancelling (s : State) (launch : Option Nat) : Bool :=
  match launch with
  | none => false
  | some id => s.farCancels.contains id || (match s.launchRec id with
    | some r => r.state == 4
    | none => false)

/-- SPAWN_RECORD_ACCEPT: packet `n` enters the spawn queue of its target once an entry is free (R182, R183, R230). A record
whose launch is being cancelled is counted and removed at once (R234). -/
def execSpawnRecordAccept (s : State) : Out :=
  let n := s.ev.n
  s.onPacketKept n fun s pk =>
    match pk.body with
    | .spawnReq hdr args index ctx prio line priv who =>
      let c := pk.dst
      let launch := line.head?
      if queueSize ≤ (s.core c).queue.length then none
      else
        let answer := fun (s : State) st => (s.drop n).send c pk.src 0 (.spawnAns who st)
        match s.readHeader c ctx hdr with
        | .later s => some (.next s)
        | .noPhys pa => some (.fault (.noSuchPhysical pa))
        | .ok none s => some (.next (answer s 2))
        | .ok (some h) s =>
          if hfield h 2 3 1 == 1 && !priv then some (.next (answer s 5))
          else
            let r : Record :=
              { hdr := hdr, args := Vector.ofFn fun i : Fin 4 => args[i]?.getD 0, exact := false,
                index := BitVec.ofNat 32 index, ctx := BitVec.ofNat 12 ctx, prio := BitVec.ofNat 2 prio,
                launch := launch, since := s.now, header := some h, exactHdr := none, tol := 0, glim := 0,
                reserved := false, above := line.tail }
            let s := answer s 0
            let s := match launch with
              | some id => if pk.src < 65536 then s.modLaunch id fun r => { r with counter := r.counter + 1 } else s
              | none => s
            if s.cancelling launch then some (.next (s.report c launch { kind := 2, index := index }))
            else some (.next (s.modCore c fun co => { co with queue := co.queue ++ [r] }))
    | _ => none

/-- SPAWN_ANSWER: the status of a SPAWN reaches its issuer (R183). -/
def execSpawnAnswer (s : State) : Out :=
  .next (s.onPacket s.ev.n fun s pk =>
    match pk.body with
    | .spawnAns who st =>
      match (s.core who.core).find who.uid, s.waitOf who.core who.uid with
      | some p, some .spawnAns =>
        some ((if st == 0 then s else s.spawnFailed who.core p).resumeStatus who.core who.uid st)
      | _, _ => some s
    | _ => none)

/-! ### Slots (R24, R28, R182, R184, R362) -/

/-- Windows in use: of processes in slots and park records, and of ended processes whose copies or operations are still
under way (R24, R277, R328). -/
def Core.windows (co : Core) : List (Nat × Nat) :=
  (co.procs.map fun e => (e.2.wbase, e.2.wsize)) ++ (co.parked.map fun r => (r.proc.wbase, r.proc.wsize))
    ++ (co.copies.map fun cp => (cp.wbase, cp.wsize)) ++ (co.memops.map fun m => (m.wbase, m.wsize))

/-- Is [a, a + n) free of a list of windows and within the user region of agent `c`? -/
def windowFits (c : Nat) (ws : List (Nat × Nat)) (a n : Nat) : Bool :=
  decide (a + n ≤ sysBase c) && ws.all fun w => w.2 == 0 || decide (a + n ≤ w.1) || decide (w.1 + w.2 ≤ a)

/-- The lowest of a list of numbers. -/
def lowest : List Nat → Option Nat
  | [] => none
  | n :: l => match lowest l with
    | none => some n
    | some m => some (min n m)

/-- First fit: the lowest-addressed free run of `n` bytes (R24). -/
def Core.windowFor (co : Core) (c n : Nat) : Option Nat :=
  let ws := co.windows
  lowest ((0 :: ws.map fun w => w.1 + w.2).filter fun a => windowFits c ws a n)

/-- Free ring descriptors and free core ports, lowest first (R149, R199). -/
def Core.freeRings (co : Core) : List Nat := (List.range 64).filter fun j => (co.ring j).isNone
def Core.freePorts (co : Core) : List Nat := (List.range 64).filter fun q => (co.port q).isNone

/-- Re-run entries in use: reserved by running drafts or by requeued draft records, saved ones among them, or holding an exact record
(R345, R363). -/
def Core.rerunUsed (co : Core) : Nat :=
  co.rerun.length + co.reserved.length + ((co.queue ++ co.saved.flatMap (·.records)).filter fun r => r.reserved).length

/-- Do a record's resources fit (R24, R345)? -/
def Core.fits (co : Core) (c : Nat) (r : Record) : Bool :=
  match r.header with
  | none => true
  | some h =>
    (hfield h 2 2 1 == 0 || r.reserved || decide (co.rerunUsed < 16))
      && ((headerBad h).isSome
        || ((co.windowFor c (256 * hfield h 1 0 10)).isSome && decide (hfield h 1 32 5 ≤ co.freeRings.length)
          && decide (hfield h 1 48 7 ≤ co.freePorts.length)))

/-- The highest priority first, the first in the list among equals (R182, R362). -/
def pickRecord : List Record → Option Record
  | [] => none
  | r :: l => match pickRecord l with
    | none => some r
    | some q => if r.prio.toNat < q.prio.toNat then some q else some r

/-- Is a context being saved on the core, so that its records take no further slot (R375)? -/
def Core.stopping (co : Core) (ctx : Nat) : Bool := co.jobs.any fun j => j.save && j.ctx == ctx

/-- The record that a free slot takes, and whether it comes from the re-run list (R362). -/
def Core.nextRecord (co : Core) (c : Nat) : Option (Record × Bool) :=
  let may := fun r => co.fits c r && !co.stopping r.ctx.toNat
  match pickRecord (co.rerun.filter may) with
  | some r => some (r, true)
  | none => (pickRecord (co.queue.filter may)).map fun r => (r, false)

/-- The ready parked process that returns first: the highest priority, then the earliest parked (R194). -/
def pickParked : List Parked → Option Parked
  | [] => none
  | r :: l => match pickParked l with
    | none => some r
    | some q => if r.proc.prio.toNat < q.proc.prio.toNat then some q else some r

/-- Slots without a process. -/
def Core.emptySlots (co : Core) : List Nat :=
  slotNumbers.filter fun k => (co.slot k).proc.isNone && (co.slot k).state == .empty

/-- x1 to x7 of a process at start or firing (R28, R198). -/
def startRegs (args : Vector Word 4) (wb : Word) (v : BitVec 13) (index : Word) : Vector Word 32 :=
  Vector.ofFn fun i : Fin 32 =>
    if 1 ≤ i.val ∧ i.val ≤ 4 then args[i.val - 1]?.getD 0
    else if i.val = 5 then wb else if i.val = 6 then v.zeroExtend 64 else if i.val = 7 then index else 0

/-- The entry address (R25, R28). -/
def entryOf (hdr : Word) (h : Vector Word 8) : Word := hdr + (BitVec.ofNat 32 (hfield h 0 0 32)).signExtend 64

/-- x7 of a record's process (R28). -/
def Record.index7 (r : Record) : Word := BitVec.ofNat 64 (bit r.exact * 2 ^ 63 + r.index.toNat)

/-- A draft's verdict and galley at start (R346). -/
def Draft.fresh : Draft :=
  { failed := false, quota := false, stfull := false, nproof := 0, gused := 0, state := .opened, cause := 0, fate := 0,
    homes := [], acks := 0, lapse := false, tcause := 0, tpc := 0, tval := 0 }

/-- The process of a record at start (R18, R28, R190). -/
def Record.process (r : Record) (h : Vector Word 8) (uid : Nat) (gen : BitVec 8) (v : Nat) (wb : Word)
    (wbase wsize : Nat) (share : Bool) (ports rings : List Nat) : Proc :=
  let vc := BitVec.ofNat 13 v
  let draft := hfield h 2 2 1 == 1
  { x := startRegs r.args wb vc r.index7, v := Vector.replicate 32 0, p := Vector.replicate 8 0,
    e := Vector.replicate 8 0, z := Vector.replicate 4 0, pc := entryOf r.hdr h, fstat := 0,
    rseed := seedOf (r.index ^^^ 0x5A17C3E5), tpc := 0, tcause := 0, tval := 0, inh := false, retired := 0,
    uid := uid, gen := gen, vcore := vc, prio := r.prio, cmt := hfield h 2 0 1 == 0, record := r, header := h,
    hdrAddr := r.hdr, index := r.index7, wbase := wbase, wsize := wsize, share := share && !draft, ports := ports,
    rings := rings, wait := none, answer := none, altEnd := none, altDead := [], altDone := [], altKnown := [],
    tbPhase := none, sack := 0,
    hostp := 0, replay := [], drain := [], hfail := 0, hstatus := 0, hop := 0, cfail := 0, cstatus := 0,
    draft := if draft then some Draft.fresh else none, firing := 0, capture := none, bpSkip := false, bpHit := [],
    dying := 0, diePc := 0, dieVa := 0, saving := false }

/-- A ring descriptor bound to a process and undefined (R149). -/
def Ring.bound (owner ring : Nat) : Ring :=
  { owner := owner, ring := ring, defd := false, ext := false, sink := 0, dir := 0, ferr := false, tag := 0, base := 0,
    ssize := 0, count := 0, head := 0, tail := 0, fhead := 0, filled := 0, claimed := 0, unfwd := 0, busy := 0,
    claims := [], credit := none, lost := false, queue := [] }

/-- Is there a place to put back a record: the save of its context that is under way, or a free entry of the spawn queue (R182)? -/
def Core.requeues (co : Core) (ctx : BitVec 12) : Bool :=
  co.jobs.any (fun j => j.save && j.ctx == ctx.toNat) || decide (co.queue.length < queueSize)

/-- Put a record back: into the save of its context that is under way, else at the end of the spawn queue (R376). -/
def State.requeue (s : State) (c : Nat) (r : Record) : State :=
  s.modCore c fun co =>
    if co.jobs.any fun j => j.save && j.ctx == r.ctx.toNat then
      { co with saved := co.saved.map fun v =>
          if v.ctx == r.ctx.toNat && co.jobs.any (fun j => j.save && j.ctx == v.ctx && j.base == v.base) then
            { v with records := v.records ++ [r] } else v }
    else { co with queue := co.queue ++ [r] }

/-- The exact record of a discarded draft (R361). -/
def Record.exactOf (r : Record) (hdr : Word) (h : Option (Vector Word 8)) (now : Nat) : Record :=
  { r with hdr := hdr, exact := true, prio := BitVec.ofNat 2 (min (r.prio.toNat + 1) 3), header := h, exactHdr := none,
           since := now, reserved := false }

/-- What the end of a discarded draft reports (R365, R367). -/
def Draft.report (d : Draft) : EndReport :=
  { kind := 6, cause := d.cause, gused := d.gused, tcause := d.tcause, tpc := d.tpc, tval := d.tval }

/-- A draft ends for good, and the re-run entry that it reserved is free (R345). -/
def State.endDraft (s : State) (c : Nat) (p : Proc) (r : EndReport) : State :=
  (s.endProc c p r).modCore c fun co => { co with reserved := co.reserved.erase p.uid }

/-- The exact record of a discarded draft of a proofed launch takes its re-run entry (R361). -/
def State.leaveExact (s : State) (c : Nat) (p : Proc) (d : Draft) (hdr : Word) (h : Option (Vector Word 8)) : State :=
  (s.endDraft c p d.report).modCore c fun co => { co with rerun := co.rerun ++ [p.record.exactOf hdr h s.now] }

/-- The end of a discarded draft once its galley is gone (R346, R361, R363): an exact record of a proofed launch, FAULT for
a draft started by SPAWN, a cancelled process, or a requeued record; none while its record has no place, and a state in which the
draft has not ended while the exact header is still being read. -/
def State.discarded (s : State) (c : Nat) (p : Proc) (d : Draft) : Option Out :=
  if d.fate == 3 then some (.next (s.endDraft c p { d.report with kind := 3 }))
  else if d.fate == 1 then some (.next (s.endDraft c p { d.report with kind := 2 }))
  else if d.fate == 2 then
    if !(s.core c).requeues p.ctx then none
    else some (.next ((s.endDraft c p { d.report with kind := 7 }).requeue c { p.record with prio := p.prio, reserved := true }))
  else match p.record.exactHdr with
    | none => some (.next (s.endDraft c p { d.report with kind := 1 }))
    | some hdr =>
      match s.readHeader c p.ctx.toNat hdr with
      | .later s => some (.next s)
      | .noPhys pa => some (.fault (.noSuchPhysical pa))
      | .ok h s => some (.next (s.leaveExact c p d hdr h))

/-- A record whose header is invalid or unreadable takes a slot and ends at once (R26, R367). A draft of a proofed launch is
discarded with cause FAULT (R358), once its exact header has been read. `take` takes the record out of its list. -/
def State.endRecord (s : State) (c k : Nat) (r : Record) (cause : Nat) (tval : Word) (take : State → State) : Out :=
  let p := r.process (Vector.replicate 8 0) s.nextUid (s.core c).genCtr (s.vcoreOf c) 0 0 0 false [] []
  let begin_ := fun (s : State) =>
    ({ (take s) with nextUid := s.nextUid + 1 } : State).modCore c fun co =>
      ({ co with genCtr := co.genCtr + 1 } : Core).setSlot k { co.slot k with proc := some p }
  let draft := match r.header with | some h => hfield h 2 2 1 == 1 | none => false
  let d := { Draft.fresh with cause := 6, tcause := cause, tval := tval, tpc := r.hdr }
  match draft, r.exactHdr with
  | true, some hdr =>
    (match s.readHeader c p.ctx.toNat hdr with
     | .later s => .next s
     | .noPhys pa => .fault (.noSuchPhysical pa)
     | .ok h s => .next ((begin_ s).leaveExact c p d hdr h))
  | _, _ => .next ((begin_ s).endProc c p { kind := 1, tcause := cause, tval := tval, tpc := r.hdr })

/-- Remove one record from a list by its place in age and name. -/
def dropRecord (r : Record) : List Record → List Record
  | [] => []
  | q :: l => if q == r then l else q :: dropRecord r l

/-- Bind the descriptors and core ports of a new process (R149, R199). -/
def Core.bind (co : Core) (p : Proc) : Core :=
  { co with rings := (p.rings.zip (List.range p.rings.length)).foldl (fun m e => kset m e.1 (Ring.bound p.uid e.2)) co.rings,
            ports := p.ports.foldl (fun m q => kset m q (Port.closed p.uid)) co.ports }

/-- Start a process from a record in slot `k`: its window is to be cleared first (R24, R184, R264, R345). `take` takes the record out
of its list. -/
def State.startRecord (s : State) (c k : Nat) (r : Record) (take : State → State) : Out :=
  match r.header with
  | none => s.endRecord c k r 0 r.hdr take
  | some h =>
    match headerBad h with
    | some b => s.endRecord c k r 2 (BitVec.ofNat 64 b) take
    | none =>
      let s := take s
      let co := s.core c
      let n := 256 * hfield h 1 0 10
      let a := (co.windowFor c n).getD 0
      let v := s.vcoreOf c
      let p := r.process h s.nextUid co.genCtr v (s.localAddr v a) a n (s.shareOf r.ctx.toNat)
        (co.freePorts.take (hfield h 1 48 7)) (co.freeRings.take (hfield h 1 32 5))
      let co := { (co.bind p) with genCtr := co.genCtr + 1,
                                   reserved := if p.isDraft then p.uid :: co.reserved else co.reserved }
      let co := co.setSlot k { co.slot k with state := .starting, proc := some p, since := 0, busy := s.now + n / 64,
                                              yielding := none, back := false }
      .next { s.setCore c co with nextUid := s.nextUid + 1 }

/-- Is the core halted (R228, R397)? Its records then take no slot. -/
def Core.takesRecords (co : Core) : Bool := !co.halted

/-- SLOT_ASSIGN: a free slot of core `c` goes to a ready parked process, then to an exact record, then to the best spawn
record that fits (R182, R194, R362). Which of several free slots is taken is free (log entry 2). -/
def execSlotAssign (s : State) : Out :=
  let c := s.ev.c
  let ks := (s.core c).emptySlots
  if ks.isEmpty || s.fenced c then .next s
  else
    match pickParked ((s.core c).parked.filter fun r => r.ready && !r.proc.saving) with
    | some r =>
      let (n, s) := s.choose ks.length
      let k := ks[n]?.getD 0
      .next (s.modCore c fun co =>
        ({ co with parked := co.parked.filter fun q => q.proc.uid != r.proc.uid }).setSlot k
          { co.slot k with state := .parking, proc := some r.proc, busy := s.now + 6, back := true, since := 0,
                           yielding := none, susp := false })
    | none =>
      if !(s.core c).takesRecords then .next s
      else match (s.core c).nextRecord c with
        | none => .next s
        | some (r, rerun) =>
          s.startRecord c (ks[(s.choose ks.length).1]?.getD 0) r fun s => (s.choose ks.length).2.modCore c fun co =>
            if rerun then { co with rerun := dropRecord r co.rerun } else { co with queue := dropRecord r co.queue }

/-- A window cleared to zero with every granule full (R24). -/
def Core.clearWindow (co : Core) (a n : Nat) : Core :=
  { co with spad := co.spad.filter fun e => decide (e.1 < a) || decide (a + n ≤ e.1),
            full := (co.full.filter fun g => decide (g < a / 16)) ++ (List.range (n / 16)).map (fun g => a / 16 + g)
              ++ co.full.filter fun g => decide ((a + n) / 16 ≤ g) }

/-- WINDOW_CLEAR_DONE: the window of slot `k` is clear and its process becomes runnable (R24, R28). -/
def execWindowClearDone (s : State) : Out :=
  let c := s.ev.c
  let k := s.ev.k
  let sl := s.slot c k
  match sl.proc with
  | none => .next s
  | some p =>
    if sl.state != .starting || s.now < sl.busy then .next s
    else
      let s := s.modCore c fun co => co.clearWindow p.wbase p.wsize
      let s := s.traceProc c k p 0x31 0 p.hdrAddr p.index
      let s := s.modCore c fun co => co.setSlot k { (co.slot k).wake co.halted s.now with busy := 0 }
      .next (s.stopProc c p)

/-! ### Ending, committing, yielding (R188, R190 to R192) -/

/-- Is some input port of a stage CLOSED (R198)? -/
def Core.stageClosed (co : Core) (p : Proc) : Bool :=
  (stageEntries p.header).any fun e => stageIn e.2 != 0 &&
    (match (p.ports[stagePort e.2]?).bind co.port with | some po => po.state == 0 | none => true)

/-- The end of QUIT for a process that ends (R188, R358): a draft settles first. -/
def State.quitNow (s : State) (c : Nat) (p : Proc) : Act :=
  match p.draft with
  | none =>
    let q := { p.counted s.now (.quit 0) with retired := p.retired + 1 }
    .done ((s.modCore c fun co => { co with issued := s.now + 1 }).endProc c q { kind := 0 })
  | some d =>
    let s := ((s.core c).copies.filter fun cp => cp.uid == p.uid && cp.armed.isSome).foldl
      (fun s cp => s.cancelArmed c cp) s
    .hold (s.modCore c fun co => co.modUid p.uid fun p =>
      { p with draft := some { d with state := .settling, tpc := p.pc } }) .settle

/-- QUIT (R188, R198). -/
def execQuit (g : BitVec 4) (s : State) : Out :=
  instr (.quit g) s (fun _ p => { guard := p.guardBit g 0 }) fun s c _ p =>
    let sys := p.launch.any fun id => idPkg id != s.pkgid.toNat
    if !p.released sys then .hold s (.release sys)
    else if p.isStage && !(s.core c).stageClosed p then .hold s .stage
    else s.quitNow c p

/-- COMMIT (R190). -/
def execCommit (g : BitVec 4) (s : State) : Out :=
  instr (.commit g) s (fun _ p => { guard := p.guardBit g 0 }) fun s c k p =>
    .go (s.setProc c k (if p.idem && !p.isDraft then { p with cmt := true } else p))

/-- YIELD: the slot gives up issue for 16 cycles (R191). -/
def execYield (g : BitVec 4) (s : State) : Out :=
  instr (.yield g) s (fun _ p => { guard := p.guardBit g 0 }) fun s c k _ =>
    .go (s.setSlot c k { s.slot c k with yielding := some (s.now + 17) })

/-- YIELD_END: slot `k` of core `c` is eligible again in the 17th cycle after its YIELD (R191). -/
def execYieldEnd (s : State) : Out :=
  let sl := s.slot s.ev.c s.ev.k
  match sl.yielding with
  | some t => if s.now < t then .next s
    else .next (s.setSlot s.ev.c s.ev.k { sl with yielding := none, ready := max sl.ready t })
  | none => .next s

/-- PRIO (R192). -/
def execPrio (g : BitVec 4) (a : BitVec 5) (s : State) : Out :=
  regInstr (.prio g a) s [ux a] (fun p => p.guardBit g 0) fun p => { p with prio := (p.xr a).truncate 2 }

/-! ### Parking (R194, R195) -/

/-- Park records in use: a slot that is being saved or restored holds one. -/
def Core.parkUsed (co : Core) : Nat :=
  co.parked.length + (slotNumbers.filter fun k => (co.slot k).state == .parking).length

/-- Does a process wait for a walk, or is it suspended by the fault of one? -/
def Proc.walks (p : Proc) : Bool :=
  match p.wait with
  | some w => (match w.kind with | .walk .. => true | _ => false)
  | none => false

/-- Is it an atomic that returns a value (R313)? -/
def amoReplies : Instr → Bool
  | .amoLoad _ _ _ _ _ | .amoSwap _ _ _ _ _ _ | .cas _ _ _ _ _ _ | .amoAdd _ _ _ _ _ _ | .amoAnd _ _ _ _ _ _
  | .amoOr _ _ _ _ _ _ | .amoXor _ _ _ _ _ _ | .amoMinSigned _ _ _ _ _ _ | .amoMaxSigned _ _ _ _ _ _
  | .amoMinUnsigned _ _ _ _ _ _ | .amoMaxUnsigned _ _ _ _ _ _ | .amoFadd _ _ _ _ _ _ | .amoFmin _ _ _ _ _ _
  | .amoFmax _ _ _ _ _ _ => true
  | _ => false

/-- Is a wait for a walk parkable: that of an atomic whose request has not left (R313), or any on a die under a skew fault (R291)? -/
def State.walkParks (s : State) (c : Nat) (p : Proc) : Bool :=
  (s.die (agentDie c)).skewed || (match p.wait with | some w => amoReplies w.instr | none => false)

/-- May slot `k` be parked now (R194, R196)? A wait for a walk is otherwise none of the parkable waits. -/
def State.parkable (s : State) (c k : Nat) : Bool :=
  let co := s.core c
  let sl := co.slot k
  match sl.proc with
  | none => false
  | some p => ((sl.state == .blocked && (!p.walks || s.walkParks c p)) || sl.state == .suspended) && p.mayPark
      && decide (sl.since + co.parkLimit s.now < s.now)

/-- The slot with the smallest SINCE, the lowest number among equals. -/
def Core.oldestSlot (co : Core) : List Nat → Option Nat
  | [] => none
  | k :: l => match co.oldestSlot l with
    | none => some k
    | some j => if (co.slot j).since < (co.slot k).since then some j else some k

/-- The slot that the core parks in this cycle (R194); none on a halted core (R388). -/
def State.parkSlot (s : State) (c : Nat) : Option Nat :=
  let co := s.core c
  if co.parkLimit s.now == 0 || co.halted || decide (8 ≤ co.parkUsed) || slotNumbers.any (fun k => (co.slot k).proc.isNone)
      || !(co.queue.any (fun r => co.fits c r && !co.stopping r.ctx.toNat) || co.parked.any (fun r => r.ready && !r.proc.saving)) then none
  else co.oldestSlot (slotNumbers.filter fun k => s.parkable c k)

/-- PARK_START: core `c` begins to park a slot (R194). -/
def execParkStart (s : State) : Out :=
  let c := s.ev.c
  match s.parkSlot c with
  | none => .next s
  | some k =>
    match s.proc c k with
    | none => .next s
    | some p =>
      let s := s.traceProc c k p 0x35 0 p.pc 0
      .next (s.modCore c fun co => co.setSlot k
        { co.slot k with state := .parking, busy := s.now + 6, back := false, susp := (co.slot k).state == .suspended })

/-- PARK_DONE: the context of slot `k` is saved and the slot is empty (R195). -/
def execParkDone (s : State) : Out :=
  let c := s.ev.c
  let k := s.ev.k
  let sl := s.slot c k
  match sl.proc with
  | none => .next s
  | some p =>
    if sl.state != .parking || sl.back || s.now < sl.busy then .next s
    else
      let r : Parked := { proc := p, since := sl.since, susp := sl.susp && p.wait.isSome, ready := p.wait.isNone }
      .next (s.modCore c fun co =>
        ({ co with parked := co.parked ++ [r] }).setSlot k { Slot.reset with spaced := sl.spaced })

/-- PARK_RESTORE_DONE: the process of slot `k` is restored and issues its waiting instruction again (R195). -/
def execParkRestoreDone (s : State) : Out :=
  let c := s.ev.c
  let k := s.ev.k
  let sl := s.slot c k
  match sl.proc with
  | none => .next s
  | some p =>
    if sl.state != .parking || !sl.back || s.now < sl.busy then .next s
    else
      let s := s.traceProc c k p 0x35 1 p.pc 0
      .next (s.setSlot c k
        { sl with state := if (s.core c).halted then .halted else .runnable, ready := s.now + 1, since := 0, busy := 0,
                  back := false })

/-! ### Stages (R198) -/

/-- Does a stage's firing condition hold (R198)? -/
def Core.stageReady (co : Core) (p : Proc) : Bool :=
  (stageEntries p.header).all fun e =>
    match (p.ports[stagePort e.2]?).bind co.port with
    | none => false
    | some po =>
      if stageIn e.2 != 0 then po.buffered && decide (stageIn e.2 ≤ po.held.length)
      else decide (stageOut e.2 ≤ po.credits)

/-- A stage process at its next firing (R198). -/
def Proc.fired (p : Proc) (wb : Word) : Proc :=
  let r := startRegs p.record.args wb p.vcore p.index
  { p with x := Vector.ofFn fun i : Fin 32 =>
             if i.val = 8 then BitVec.ofNat 64 (p.firing + 1) else if i.val < 16 then r[i] else p.x[i],
           firing := p.firing + 1 }

/-- STAGE_FIRING: the stage process in slot `k` of core `c` fires (R198). Its QUIT retires here. -/
def execStageFiring (s : State) : Out :=
  let c := s.ev.c
  match s.proc c s.ev.k with
  | none => .next s
  | some p =>
    match s.waitOf c p.uid with
    | some .stage =>
      if (s.core c).stageReady p then
        .next (s.resume c p.uid fun s k p _ =>
          .jump (s.setProc c k (p.fired (s.winBase p))) (entryOf p.hdrAddr p.header))
      else .next s
    | _ => .next s

end Sys2Proof.Machine
end

