-- ==== Sys2Proof/Machine/Channels.lean ====
section
/-! DEFINITION. Sys2Proof/Machine/Channels.lean: ports, credits and transfers (R199 to R214, R217, R220), the pager's wake port
(R370), and deadlock probes (R218, R219). -/

namespace Sys2Proof.Machine

/-! ### Ports -/

/-- What a message, request or probe carries beside its sender's context: its x7 index and the port's sequence number (R220). -/
def Proc.tagOf (p : Proc) (po : Port) : ChanTag := { index := bits p.index.toNat 0 32, seq := po.seq }

/-- Core port and port of process port `n` (R199). -/
def State.procPort (s : State) (c : Nat) (p : Proc) (n : Nat) : Option (Nat × Port) :=
  (p.ports[n]?).bind fun q => (s.port c q).map fun po => (q, po)

/-- The status of a check at a receiving port (R203), 0 for OK. -/
def State.portCheck (s : State) (c : Nat) (target sender : Word) (type tlen : Nat) : Nat :=
  match s.port c (hPort target), (s.core c).owner (hPort target) with
  | some po, some p =>
    if p.gen.toNat != hGen target then 1
    else if p.ctx.toNat != hCtx sender then 5
    else if po.state == 0 then 4
    else if po.state == 3 && !hSame po.peer sender then 2
    else if po.type != type || po.tlen != tlen || po.disp.isSome then 2
    else 0
  | _, _ => 1

/-- Message buffers of a core's pool that no buffered port holds (R200). -/
def Core.freeBuffers (co : Core) : Nat :=
  512 - co.ports.foldl (fun n e => n + (if e.2.buffered && e.2.disp.isNone then e.2.depth else 0)) 0

/-- A port instruction on process port `n` (R208, R214): the port is there, because a port of PORTS or above has raised
RESOURCE. -/
def portInstr (i : Instr) (g : BitVec 4) (n : BitVec 6) (us : List Use)
    (f : State → Nat → Nat → Proc → Nat → Port → Act) (s : State) : Out :=
  instr i s (fun _ p => { uses := (4, n.toNat) :: us, guard := p.guardBit g 0 }) fun s c k p =>
    match s.procPort c p n.toNat with
    | some (q, po) => f s c k p q po
    | none => statusAct i 4 s c k

/-- Is a CHOPEN configuration word well-formed (R200)? -/
def openWordOk (w : Nat) : Bool :=
  let type := bits w 0 2
  let mode := bits w 4 1
  bits w 24 40 == 0 && bits w 12 4 == 0 && bits w 5 3 == 0 && bits w 2 2 == 0 && type != 3
    && (if type == 2 then bits w 16 8 != 0 && mode == 0 else bits w 16 8 == 0)
    && (mode == 1 || bits w 8 4 == 0)

/-- Is port `n` a STAGETAB input that needs more than this depth (R200)? -/
def Proc.stageNeeds (p : Proc) (n depth : Nat) : Bool :=
  p.isStage && (stageEntries p.header).any fun e => stagePort e.2 == n && stageIn e.2 != 0 && decide (depth < stageIn e.2)

/-- A port opened by a configuration word (R200, R201). -/
def Port.opened (po : Port) (w : Nat) : Port :=
  { Port.closed po.owner with
    state := 1, type := bits w 0 2, buffered := bits w 4 1 == 1, depth := if bits w 4 1 == 1 then bits w 8 4 + 1 else 0,
    tlen := bits w 16 8, seq := po.seq }

/-- CHOPEN (R200). -/
def execChopen (g : BitVec 4) (q : BitVec 1) (p : BitVec 6) (a d : BitVec 5) (s : State) : Out :=
  let i := Instr.chopen g q p a d
  portInstr i g p [ux a, ux d] (fun s c k pr cp po =>
    let w := (pr.xr a).toNat
    let depth := if bits w 4 1 == 1 then bits w 8 4 + 1 else 0
    if !openWordOk w || po.state != 0 || decide ((s.core c).freeBuffers < depth) || pr.stageNeeds p.toNat depth then
      statusAct i 2 s c k
    else statusAct i 0 (s.setPort c cp (po.opened w)) c k) s

/-- CHBIND: held credits return and a bind query leaves (R204). -/
def execChbind (g : BitVec 4) (q : BitVec 1) (p : BitVec 6) (a d : BitVec 5) (s : State) : Out :=
  let i := Instr.chbind g q p a d
  portInstr i g p [ux a, ux d] (fun s c k pr cp po =>
    let h := pr.xr a
    if !h.getLsbD 0 || bits h.toNat 3 12 != 0 || po.state == 0 || po.disp.isSome then statusAct i 2 s c k
    else
      let me := s.handle pr cp po.type
      let s := s.dropCredits c me cp po
      let s := s.setPort c cp { po with credits := 0, tileOff := none, asked := false, refused := false, state := 2,
                                        prev := po.state }
      .hold (s.sendTo c (s.handleDest h) 0 (.bindQuery h me po.type po.tlen (s.selfWord k pr) (pr.tagOf po)))
        (.bind p.toNat)) s

/-- CHCLOSE (R205). -/
def execChclose (g : BitVec 4) (q : BitVec 1) (p : BitVec 6) (d : BitVec 5) (s : State) : Out :=
  let i := Instr.chclose g q p d
  portInstr i g p [ux d] (fun s c k pr cp _ => statusAct i 0 (s.closePort c pr cp 4) c k) s

/-- Rows granted by a sink and not yet passed; is the head row there (R246, R247)? -/
def Dispatch.held (d : Dispatch) : Nat := d.granted - d.passed
def Dispatch.headReady (d : Dispatch) : Bool := d.written.contains d.passed && decide (d.passed < d.granted)

/-- The status word of a port (R206, R247). -/
def Port.statWord (po : Port) : Nat :=
  match po.disp with
  | some d =>
    if d.sink then min d.held 16 * 2 ^ 8 + bit d.headReady * 2 ^ 7 + 2 ^ 5 + 3 * 2 ^ 3 + 1 else 3 * 2 ^ 3 + 1
  | none =>
    min po.credits 16 * 2 ^ 16 + min po.held.length 16 * 2 ^ 8 + bit (!po.held.isEmpty) * 2 ^ 7
      + bit (!po.queue.isEmpty) * 2 ^ 6 + bit po.buffered * 2 ^ 5 + po.type % 4 * 2 ^ 3 + po.state % 8

/-- Word `i` of the head message of a port (R206, R246). -/
def State.headWord (s : State) (c : Nat) (p : Proc) (po : Port) (i : Nat) : Word :=
  match po.disp with
  | some d => if d.sink && d.headReady then (s.core c).spad.word (p.wbase + d.base + 64 * d.passed + 8 * i) else 0
  | none => (po.held.head?.map fun m => m.words[i]?.getD 0).getD 0

/-- CHSTAT (R206, R247). -/
def execChstat (g : BitVec 4) (p : BitVec 6) (sx d : BitVec 5) (s : State) : Out :=
  portInstr (.chstat g p sx d) g p [ux d] (fun s c k pr cp po =>
    let sel := sx.toNat
    let sender := match po.disp with | some e => !e.sink | none => false
    let w : Word :=
      if sel == 0 then BitVec.ofNat 64 po.statWord
      else if sel == 1 then
        (if sender then 0 else if po.state == 0 then s.handle pr cp po.type - 1 else s.handle pr cp po.type)
      else if sel == 2 then (if po.state == 3 then po.peer else 0)
      else s.headWord c pr po (sel - 8)
    .go (s.setProc c k (pr.setX d w))) s

/-- The process that waits in a RECV family instruction on core port `q`, and whether it is a RECVT (R202). A RECVT that is being
parked or is parked grants nothing: it is issued again once a request is there (R194). -/
def Core.receiver (co : Core) (q : Nat) : Option (Proc × Bool) :=
  (co.owner q).bind fun p => p.wait.bind fun w =>
    match w.kind with
    | .recv n => if p.ports[n]? == some q then some (p, false) else none
    | .tileRecv n => if p.ports[n]? == some q && (co.blockedSlot p.uid).isSome then some (p, true) else none
    | _ => none

/-- The destination offset of a waiting RECVT. -/
def Proc.tileDest (p : Proc) : Nat :=
  match p.wait with
  | some w => (match w.instr with | .recvt _ _ _ a _ => localOff (p.xr a) | _ => 0)
  | none => 0

/-- Core port `q` grants its oldest request if it can (R202, R211): a buffered port while a buffer is free, a rendezvous port while its
process waits to receive; no rendezvous on a halted core (R388). -/
def State.grantHead (s : State) (c q : Nat) : State :=
  match s.port c q, (s.core c).owner q with
  | some po, some p =>
    match po.queue with
    | [] => s
    | r :: rest =>
      let h := s.handle p q po.type
      if po.buffered then
        if po.depth ≤ po.held.length + po.owed.length then s
        else (s.setPort c q { po with queue := rest, owed := po.owed ++ [r.sender] }).answerPort c r.sender h 0 0 0 true r.data r.self
      else match (s.core c).receiver q with
        | none => s
        | some (p, tile) =>
          if (s.core c).halted || !po.owed.isEmpty || !po.held.isEmpty then s
          else
            let s := s.setPort c q { po with queue := rest, owed := [r.sender] }
            let s := if tile then s.modCore c fun co => co.modUid p.uid fun p =>
                { p with wait := p.wait.map fun w => { w with kind := .tileData (match w.kind with | .tileRecv n => n | _ => 0) false } }
              else s
            s.answerPort c r.sender h 0 0 p.tileDest false r.data r.self
  | _, _ => s

/-- Take the head message (R202, R210): its buffer goes to a queued request at once, else back to the sender; a rendezvous is
acknowledged. -/
def State.takeHead (s : State) (c : Nat) (p : Proc) (q : Nat) (po : Port) : State :=
  match po.held with
  | [] => s
  | m :: rest =>
    let h := s.handle p q po.type
    if !po.buffered then (s.setPort c q { po with held := rest }).answerPort c m.sender h 3 0 0 false 0 m.self
    else if po.queue.isEmpty && m.sender.getLsbD 0 then
      (s.setPort c q { po with held := rest, owed := po.owed ++ [m.sender] }).answerPort c m.sender h 6 0 0 true 0 m.self
    else (s.setPort c q { po with held := rest }).grantHead c q

/-- WREL (R207, R247). -/
def execWrel (g : BitVec 4) (q : BitVec 1) (p : BitVec 6) (d : BitVec 5) (s : State) : Out :=
  let i := Instr.wrel g q p d
  portInstr i g p [ux d] (fun s c k pr cp po =>
    if po.state == 0 then statusAct i 4 s c k
    else match po.disp with
      | some e =>
        if e.sink && e.headReady then statusAct i 0 (s.setPort c cp { po with disp := some { e with passed := e.passed + 1 } }) c k
        else statusAct i 2 s c k
      | none =>
        if po.held.isEmpty then statusAct i 2 s c k
        else statusAct i 0 ((s.takeHead c pr cp po).countFor c pr.uid 13 1) c k) s

/-! ### Sending (R202, R209, R211) -/

/-- Request a credit for a bound port unless a request is on its way (R202). -/
def State.askCredit (s : State) (c k : Nat) (p : Proc) (q : Nat) (po : Port) (data : Word) : State :=
  if po.asked then s
  else (s.setPort c q { po with asked := true }).sendTo c (s.handleDest po.peer) 0
    (.creditReq po.peer (s.handle p q po.type) po.type po.tlen data (s.selfWord k p) (p.tagOf po))

/-- Does a bound port lead off this core or package (R354)? -/
def State.peerAway (s : State) (p : Proc) (po : Port) : Bool :=
  po.state == 3 && !(hPkg po.peer == s.pkgid.toNat && hVcore po.peer == p.vcore.toNat)

/-- Does the smallest scope of both ends reach beyond the package (R213)? -/
def State.peerSys (s : State) (po : Port) : Bool := hPkg po.peer != s.pkgid.toNat

/-- The common part of the SEND family (R209): status checks, credit, release wait; then `f`. -/
def State.sendWith (s : State) (c k : Nat) (p : Proc) (i : Instr) (n q : Nat) (po : Port) (type : Nat) (data : Word)
    (f : Port → Act) : Act :=
  if po.state == 0 then statusAct i 4 s c k
  else if po.type != type || po.state != 3 then statusAct i 2 s c k
  else if po.credits == 0 then
    match p.answer with
    | some e => statusAct i e.status s c k
    | none => .hold (s.askCredit c k p q po data) (.credit n)
  else if !p.released (s.peerSys po) then .hold s (.release (s.peerSys po))
  else f po

/-- Inject a message (R209, R220). -/
def State.sendMsg (s : State) (c k : Nat) (p : Proc) (i : Instr) (n q : Nat) (po : Port) (words : List Word) : Act :=
  let s := (s.setPort c q { po with credits := po.credits - 1, seq := po.seq + 1 }).sendTo c (s.handleDest po.peer) 3
    (.chanMsg po.peer (s.handle p q po.type) po.type words (s.selfWord k p) (p.tagOf po))
  let s := s.countFor c p.uid 13 1
  if po.peerBuf then statusAct i 0 s c k else .hold s (.sendAck n)

/-- A SEND or SENDV of `words` on port `n` (R209). -/
def sendInstr (i : Instr) (g : BitVec 4) (n : BitVec 6) (us : List Use) (type : Nat) (words : Proc → List Word)
    (s : State) : Out :=
  portInstr i g n us (fun s c k p q po =>
    if p.isDraft && s.peerAway p po then .barred
    else
      s.sendWith c k p i n.toNat q po type ((words p).headD 0) fun po =>
        s.sendMsg c k p i n.toNat q po (words p)) s

/-- SEND (R209). -/
def execSend (g : BitVec 4) (q : BitVec 1) (p : BitVec 6) (a d : BitVec 5) (s : State) : Out :=
  sendInstr (.send g q p a d) g p [ux a, ux d] 0 (fun pr => [pr.xr a]) s

/-- C.SEND: SEND without .q (R56, R208). -/
def execCSend (p a : BitVec 4) (s : State) : Out :=
  sendInstr (.cSend p a) 0 (p.zeroExtend 6) [ux (r5 a)] 0 (fun pr => [pr.xr (r5 a)]) s

/-- The words of a vector register. -/
def vwords (v : VReg) : List Word := [0, 1, 2, 3].map fun i => BitVec.ofNat 64 (lane v 64 i)

/-- Is ch1 the wake port (R370)? -/
def wakePort (c : Nat) (p : Proc) (n : BitVec 6) : Bool := p.priv && n == 1 && decide (4352 ≤ c) && decide (c < 4360)

/-- A wake leaves for the core that its ORIGIN names (R370). -/
def State.sendWake (s : State) (c k : Nat) (p : Proc) (i : Instr) (ws : List Word) : Act :=
  let origin := (ws[1]?.getD 0).toNat
  let sys := bits origin 13 10 != s.pkgid.toNat
  if !p.released sys then .hold s (.release sys)
  else match s.dest (bits origin 13 10) (bits origin 0 13) with
    | none => statusAct i 1 s c k
    | some d => statusAct i 0 (s.send c d 0 (.wake ws)) c k

/-- SENDV (R209); on the wake port of a privileged process of a service core, a wake (R370). -/
def execSendv (g : BitVec 4) (q : BitVec 1) (p : BitVec 6) (a d : BitVec 5) (s : State) : Out :=
  let i := Instr.sendv g q p a d
  portInstr i g p [uv a, ux d] (fun s c k pr cp po =>
    let ws := vwords (pr.vr a)
    if wakePort c pr p then s.sendWake c k pr i ws
    else if pr.isDraft && s.peerAway pr po then .barred
    else s.sendWith c k pr i p.toNat cp po 1 (ws.headD 0) fun po => s.sendMsg c k pr i p.toNat cp po ws) s

/-- The transfer to a port of this package has begun: its data has entered the mesh, so the RECVT is no longer parkable (R196). -/
def State.tileBegun (s : State) (h : Word) : State :=
  match s.handleDest h with
  | none => s
  | some c => s.modCore c fun co => match co.owner (hPort h) with
    | none => co
    | some p => co.modUid p.uid fun p => { p with wait := p.wait.map fun w => match w.kind with
        | .tileData n _ => if p.ports[n]? == some (hPort h) then { w with kind := .tileData n true } else w
        | _ => w }

/-- The 64-byte flits of a tile transfer from `off` to `dst` (R211). -/
def State.sendTile (s : State) (c k : Nat) (p : Proc) (q : Nat) (po : Port) (off dst : Nat) : State :=
  let n := 4 * po.tlen
  ((List.range n).foldl (fun s j =>
    s.sendTo c (s.handleDest po.peer) 3 (.tileData po.peer (s.handle p q po.type) (dst + 64 * j)
      (s.localBytes c (off + 64 * j) 64) (j + 1 == n) (s.selfWord k p) (p.tagOf po))) s).tileBegun po.peer

/-- SENDT (R211). DESIGN CHOICE (log entry 48): its read of the source counts as a load, so a privileged process may send from the
system region (R22, R112). -/
def execSendt (g : BitVec 4) (q : BitVec 1) (p : BitVec 6) (a d : BitVec 5) (s : State) : Out :=
  let i := Instr.sendt g q p a d
  portInstr i g p [ux a, ux d] (fun s c k pr cp po =>
    if pr.isDraft && s.peerAway pr po then .barred
    else match s.localCheck c pr (pr.xr a) (256 * po.tlen) 32 true true with
      | .bad cause => .trap cause (pr.xr a)
      | .remote => .trap 4 (pr.xr a)
      | .own off =>
        s.sendWith c k pr i p.toNat cp po 2 0 fun po =>
          match (s.core c).ownedIn off (256 * po.tlen), po.tileOff with
          | some gr, _ => s.waitGranule c k pr 2 false gr none
          | none, some dst =>
            let s := s.setPort c cp { po with credits := 0, tileOff := none, seq := po.seq + 1 }
            let s := s.countFor c pr.uid 13 1
            .hold (s.sendTile c k pr cp po off dst) (.tileSend p.toNat off)
          | none, none => .hold s (.credit p.toNat)) s

/-! ### Receiving (R210, R211) -/

/-- The receive side: status checks, then the head message or a wait (R210). -/
def recvInstr (i : Instr) (g : BitVec 4) (n : BitVec 6) (us : List Use) (type : Nat) (f : Proc → List Word → Proc)
    (s : State) : Out :=
  portInstr i g n us (fun s c k p q po =>
    if po.state == 0 then statusAct i 4 s c k
    else if po.type != type then statusAct i 2 s c k
    else match po.held with
      | [] => .hold s (.recv n.toNat)
      | m :: _ =>
        let s := s.setProc c k ((f p m.words).count s.now 13 1)
        statusAct i 0 (s.takeHead c p q po) c k) s

/-- RECV (R210). -/
def execRecv (g : BitVec 4) (q : BitVec 1) (p : BitVec 6) (a d : BitVec 5) (s : State) : Out :=
  recvInstr (.recv g q p a d) g p [ux a, ux d] 0 (fun pr ws => pr.setX d (ws.headD 0)) s

/-- C.RECV: RECV without .q (R56, R208). -/
def execCRecv (p d : BitVec 4) (s : State) : Out :=
  recvInstr (.cRecv p d) 0 (p.zeroExtend 6) [ux (r5 d)] 0 (fun pr ws => pr.setX (r5 d) (ws.headD 0)) s

/-- RECVV (R210). -/
def execRecvv (g : BitVec 4) (q : BitVec 1) (p : BitVec 6) (a d : BitVec 5) (s : State) : Out :=
  recvInstr (.recvv g q p a d) g p [ux a, uv d] 1 (fun pr ws => pr.setV d (ofLanes 64 ((ws.take 4).map BitVec.toNat))) s

/-- RECVT (R211). One that was granted before a save dropped its wait takes the transfer of that grant. -/
def execRecvt (g : BitVec 4) (q : BitVec 1) (p : BitVec 6) (a d : BitVec 5) (s : State) : Out :=
  let i := Instr.recvt g q p a d
  portInstr i g p [ux a, ux d] (fun s c k pr _ po =>
    match s.localCheck c pr (pr.xr a) (256 * po.tlen) 32 true false with
    | .bad cause => .trap cause (pr.xr a)
    | .remote => .trap 4 (pr.xr a)
    | .own _ =>
      if po.state == 0 then statusAct i 4 s c k
      else if po.type != 2 then statusAct i 2 s c k
      else match pr.answer with
        | some e => statusAct i e.status s c k
        | none => .hold s (if po.owed.isEmpty then .tileRecv p.toNat else .tileData p.toNat false)) s

/-! ### Traffic between ports -/

/-- CREDIT_REQUEST_ARRIVE: packet `n` is checked at the receiving port and queued, or answered with a failure; the
seventeenth request waits (R202, R203). -/
def execCreditRequestArrive (s : State) : Out :=
  .next (s.onPacket s.ev.n fun s pk =>
    match pk.body with
    | .creditReq target sender type tlen data self _ =>
      let st := s.portCheck pk.dst target sender type tlen
      if st != 0 then some (s.answerPort pk.dst sender target 1 st 0 (st == 1) data self)
      else match s.port pk.dst (hPort target) with
        | some po =>
          if 16 ≤ po.queue.length then none
          else some ((s.setPort pk.dst (hPort target)
            { po with queue := po.queue ++ [{ sender := sender, data := data, self := self }] }).grantHead pk.dst (hPort target))
        | none => none
    | _ => none)

/-- CREDIT_REQUEST_WITHDRAWN: packet `n` takes a queued request away (R189, R202). -/
def execCreditRequestWithdrawn (s : State) : Out :=
  .next (s.onPacket s.ev.n fun s pk =>
    match pk.body with
    | .withdraw target sender =>
      match s.port pk.dst (hPort target), (s.core pk.dst).owner (hPort target) with
      | some po, some p =>
        if p.gen.toNat == hGen target then
          some (s.setPort pk.dst (hPort target) { po with queue := po.queue.filter fun r => !hSame r.sender sender })
        else some s
      | _, _ => some s
    | _ => none)

/-- CREDIT_GRANT: core port `n` of core `c` grants its oldest request (R202, R211). -/
def execCreditGrant (s : State) : Out := .next (s.grantHead s.ev.c s.ev.n)

/-- The dead-letter record of a failed message or request (R217). -/
def State.deadLetter (s : State) (sender target data self : Word) : State :=
  s.refusal (hCtx sender) 0x11 1 self target data

/-- Does the owner of core port `q` wait on it in this way? -/
def Core.waitsOn (co : Core) (q : Nat) (f : WaitKind → Option Nat) : Option Proc :=
  match co.owner q with
  | none => none
  | some p => match p.wait with
    | some w => (match f w.kind with
      | some n => if p.ports[n]? == some q then some p else none
      | none => none)
    | none => none

/-- A credit or grant reaches its port; a port that is not bound to the granting one gives it back (R202). -/
def State.creditArrives (s : State) (c q : Nat) (sender target : Word) (off : Nat) (mode asked : Bool) : State :=
  let back := s.sendTo c (s.handleDest target) 0 (.creditRet target sender 1)
  match s.port c q, (s.core c).owner q with
  | some po, some p =>
    if p.gen.toNat != hGen sender || po.state != 3 || !hSame po.peer target then back
    else
      s.setPort c q { po with credits := po.credits + 1, tileOff := if po.type == 2 then some off else none,
                              peerBuf := mode, asked := po.asked && !asked }
  | _, _ => back

/-- A failed credit request: the SEND that waits for it fails, a request of the network interface's own is not repeated
(R203). -/
def State.creditFails (s : State) (c q st : Nat) (sender : Word) : State :=
  match s.port c q, (s.core c).owner q with
  | some po, some p =>
    if p.gen.toNat != hGen sender || !po.asked then s
    else
      match (s.core c).waitsOn q fun w => match w with | .credit n => some n | _ => none with
      | some w =>
        let s := s.setPort c q { po with asked := false }
        (s.modCore c fun co => co.modUid w.uid fun p => { p with answer := some { status := st, value := 0 } }).reissue c w.uid
      | none => s.setPort c q { po with asked := false, refused := true }
  | _, _ => s

/-- A bind answer: the port is BOUND, or back in its earlier state (R204). -/
def State.bindAnswer (s : State) (c q st : Nat) (target : Word) (mode : Bool) : State :=
  match s.port c q, (s.core c).waitsOn q fun w => match w with | .bind n => some n | _ => none with
  | some po, some p =>
    let po' := if st == 0 then { po with state := 3, peer := target, peerBuf := mode } else { po with state := po.prev }
    (s.setPort c q po').resumeStatus c p.uid st
  | _, _ => s

/-- CHANNEL_ANSWER: packet `n` reaches the sending port that it names (R203, R217). -/
def execChannelAnswer (s : State) : Out :=
  .next (s.onPacket s.ev.n fun s pk =>
    match pk.body with
    | .chanAns sender target kind st off mode data self =>
      let c := pk.dst
      let q := hPort sender
      let s := if st == 1 && mode && kind != 0 && kind != 6 then s.deadLetter sender target data self else s
      some (
        if kind == 0 then s.creditArrives c q sender target off mode true
        else if kind == 6 then s.creditArrives c q sender target off mode false
        else if kind == 1 then s.creditFails c q st sender
        else if kind == 2 then s.bindAnswer c q st target mode
        else
          match (s.core c).waitsOn q fun w => match w with
            | .sendAck n => if kind == 3 then some n else none
            | .tileSend n _ => if kind == 4 then some n else none
            | _ => none with
          | some p => if p.gen.toNat == hGen sender then s.resumeStatus c p.uid st else s
          | none => s)
    | _ => none)

/-- One list entry removed. -/
def eraseHandle (h : Word) : List Word → List Word
  | [] => []
  | a :: l => if hSame a h then l else a :: eraseHandle h l

/-- MESSAGE_ARRIVE: packet `n` is checked at its port and buffered, or dropped; a dropped rendezvous message answers its
sender (R203, R209, R217). -/
def execMessageArrive (s : State) : Out :=
  .next (s.onPacket s.ev.n fun s pk =>
    match pk.body with
    | .chanMsg target sender type words self _ =>
      let c := pk.dst
      let q := hPort target
      let drop := fun st => some (s.answerPort c sender target 3 st 0 (st == 1) (words.headD 0) self)
      let st := s.portCheck c target sender type 0
      if st != 0 then drop st
      else match s.port c q with
        | none => drop 1
        | some po =>
          let owed := eraseHandle sender po.owed
          if po.buffered && owed.length == po.owed.length && decide (po.depth ≤ po.held.length + po.owed.length) then drop 4
          else some (s.setPort c q
            { po with owed := owed, held := po.held ++ [{ sender := sender, words := words, self := self }] })
    | _ => none)

/-- CREDIT_RETURN: packet `n` gives buffers back to the port that granted them (R202). -/
def execCreditReturn (s : State) : Out :=
  .next (s.onPacket s.ev.n fun s pk =>
    match pk.body with
    | .creditRet target sender m =>
      let c := pk.dst
      let q := hPort target
      match s.port c q, (s.core c).owner q with
      | some po, some p =>
        if p.gen.toNat != hGen target then some s
        else
          let owed := (List.range m).foldl (fun l _ => eraseHandle sender l) po.owed
          -- A RECVT whose grant comes back waits for the next request.
          let s := s.modCore c fun co => co.modUid p.uid fun p => { p with wait := p.wait.map fun w =>
            match w.kind with
            | .tileData n _ => if p.ports[n]? == some q then { w with kind := .tileRecv n } else w
            | _ => w }
          some ((s.setPort c q { po with owed := owed }).grantHead c q)
      | _, _ => some s
    | _ => none)

/-- BIND_QUERY_ARRIVE: packet `n` is checked at the receiving port and answered with the port's MODE (R203, R204). -/
def execBindQueryArrive (s : State) : Out :=
  .next (s.onPacket s.ev.n fun s pk =>
    match pk.body with
    | .bindQuery target sender type tlen self _ =>
      let st := s.portCheck pk.dst target sender type tlen
      let mode := match s.port pk.dst (hPort target) with | some po => po.buffered | none => false
      some (s.answerPort pk.dst sender target 2 st 0 (if st == 0 then mode else st == 1) 0 self)
    | _ => none)

/-- Write a flit of a tile transfer and set its granules full in address order (R211). -/
def State.tileWrite (s : State) (c off : Nat) (data : List Byte) : State :=
  (s.modCore c fun co => { co with spad := co.spad.put off data }).fillGranules c (granulesOf off data.length)

/-- TILE_TRANSFER_DATA: packet `n` is written at the receiver; the last one ends the RECVT and is acknowledged (R211). A granule
that an engine owns delays it (R118), and so does a save of the receiver (R377). A sender of another context is refused (R220). -/
def execTileTransferData (s : State) : Out :=
  .next (s.onPacket s.ev.n fun s pk =>
    match pk.body with
    | .tileData target sender off data last self _ =>
      let c := pk.dst
      let q := hPort target
      let co := s.core c
      let ends := fun (st : Nat) => if last then some (s.answerPort c sender target 4 st 0 (st == 1) 0 self) else some s
      match co.owner q with
      | none => ends 1
      | some p =>
        if p.gen.toNat != hGen target then ends 1
        else if p.ctx.toNat != hCtx sender then ends 5
        else match co.waitsOn q fun w => match w with | .tileData n _ => some n | _ => none with
          | none =>
            let pending := match s.port c q with | some po => !po.owed.isEmpty | none => false
            if pending then none else ends 1
          | some p =>
            if (co.ownedIn off data.length).isSome then none
            else
              let s := (s.tileWrite c off data).tileBegun target
              if !last then some s
              else
                let s := match s.port c q with
                  | some po => s.setPort c q { po with owed := [] }
                  | none => s
                some (((s.countFor c p.uid 13 1).answerStatus c p.uid 0).answerPort c sender target 4 0 0 false 0 self)
    | _ => none)

/-! ### Deadlock probes (R218, R219) -/

/-- The guards of an ALT as (e-register, KIND, guard word), kind 4 taking two registers (R215). -/
def altGuards (e : Vector Word 8) (n : Nat) : Nat → Nat → List (Nat × Nat × Word)
  | 0, _ => []
  | fuel + 1, i =>
    if n ≤ i then []
    else
      let w := e[i]?.getD 0
      let kind := bits w.toNat 60 4
      (i, kind, w) :: altGuards e n fuel (if kind == 4 then i + 2 else i + 1)

/-- The guards of an ALT of `n` registers. -/
def Proc.guards (p : Proc) (n : Nat) : List (Nat × Nat × Word) := altGuards p.e n 8 0

/-- The channel edges of a process blocked in an instruction of the SEND, RECV or CHBIND family, or in an ALT on channels alone: process
port, and whether it sends (R218); none when it is not blocked on a channel. -/
def Proc.channelWait (p : Proc) : Option (List (Nat × Bool)) :=
  p.wait.bind fun w =>
    match w.instr with
    | .send _ _ n _ _ | .sendv _ _ n _ _ | .sendt _ _ n _ _ => some [(n.toNat, true)]
    | .cSend n _ => some [(n.toNat, true)]
    | .recv _ _ n _ _ | .recvv _ _ n _ _ | .recvt _ _ n _ _ => some [(n.toNat, false)]
    | .cRecv n _ => some [(n.toNat, false)]
    | .chbind _ _ _ _ _ => some []
    | .alt _ n _ =>
      let gs := p.guards (n.toNat + 1)
      if w.kind == .alt && gs.all fun g => decide (g.2.1 ≤ 1) then some (gs.map fun g => (bits g.2.2.toNat 0 6, g.2.1 == 1)) else none
    | _ => none

/-- The edges of a process that is blocked on a channel: its port's handle, the handle it waits for and the tag of a probe (R218,
R220). -/
def State.edges (s : State) (c : Nat) (p : Proc) : List (Word × Word × ChanTag) :=
  ((p.channelWait).getD []).filterMap fun e =>
    match s.procPort c p e.1 with
    | some (q, po) => if po.state == 3 then some (s.handle p q po.type, po.peer, p.tagOf po) else none
    | none => none

/-- Every process of a core with the beginning of its wait. -/
def Core.waiting (co : Core) : List (Proc × Nat) :=
  (co.procs.map fun e => (e.2, (co.slot e.1).since)) ++ co.parked.map fun r => (r.proc, r.since)

/-- Is every process of a context on a core blocked on a channel for DLWINDOW cycles, and is a round due (R218)? None is with DLWINDOW
zero (R20), nor on a halted core (R388). -/
def State.probeDue (s : State) (c ctx : Nat) : Bool :=
  let co := s.core c
  let ps := co.waiting.filter fun e => e.1.ctx.toNat == ctx
  let w := co.probeLimit s.now
  w != 0 && !co.halted && !ps.isEmpty && ps.all (fun e => e.1.channelWait.isSome && decide (e.2 + w ≤ s.now))
    && (match kget co.probes ctx with | some t => decide (t + w ≤ s.now) | none => true)

/-- DEADLOCK_PROBE_START: core `c` sends a round of probes for context `n` (R218). -/
def execDeadlockProbeStart (s : State) : Out :=
  let c := s.ev.c
  let ctx := s.ev.n
  if !s.probeDue c ctx then .next s
  else
    let co := s.core c
    let s := s.setCore c { co with probes := kset co.probes ctx s.now }
    .next ((co.waiting.filter fun e => e.1.ctx.toNat == ctx).foldl (fun s e =>
      (s.edges c e.1).foldl (fun s g => s.sendTo c (s.handleDest g.2.1) 0 (.probe g.1 [g.1] g.2.1 g.2.2)) s) s)

/-- A cycle's records: entries three to a record (R219). -/
def cycleWords (path : List Word) : Nat → Nat → List (List Word)
  | 0, _ => []
  | n + 1, i =>
    if path.length ≤ i then []
    else
      let w := fun j => path[i + j]?.getD 0
      [kindWord (if i == 0 then 0x12 else 0x13) (if i == 0 then path.length else i), w 0, w 1, w 2] :: cycleWords path n (i + 3)

/-- Report a cycle that a probe closed, each once for the origin's wait, when the origin's handle is the smallest (R218, R219). -/
def State.closeCycle (s : State) (c : Nat) (p : Proc) (origin : Word) (path : List Word) : State :=
  let co := s.core c
  let since := ((co.waiting.find? fun e => e.1.uid == p.uid).map (·.2)).getD 0
  if path.any (fun h => BitVec.ult h origin) || co.reported.contains (origin, since, path)
      || !(s.edges c p).any (fun e => e.1 == origin) then s
  else
    (cycleWords path 6 0).foldl (fun s w => s.post c p.ctx.toNat w)
      (s.setCore c { co with reported := (origin, since, path) :: co.reported })

/-- DEADLOCK_PROBE: packet `n` closes a cycle at its origin, goes on along every edge of the process it names, or is dropped: a probe
of another context, one at a halted core, and one whose path would grow too long (R218, R220, R388). -/
def execDeadlockProbe (s : State) : Out :=
  .next (s.onPacket s.ev.n fun s pk =>
    match pk.body with
    | .probe origin path at_ _ =>
      let c := pk.dst
      match (s.core c).owner (hPort at_) with
      | none => some s
      | some p =>
        if (s.core c).halted || p.gen.toNat != hGen at_ || p.ctx.toNat != hCtx origin || p.channelWait.isNone then some s
        else if hPkg origin == s.pkgid.toNat && hVcore origin == p.vcore.toNat && hGen origin == p.gen.toNat
            && (p.ports.contains (hPort origin)) then some (s.closeCycle c p origin path)
        else if 16 ≤ path.length then some s
        else some ((s.edges c p).foldl (fun s e =>
          s.sendTo c (s.handleDest e.2.1) 0 (.probe origin (path ++ [e.1]) e.2.1 e.2.2)) s)
    | _ => none)

end Sys2Proof.Machine
end

