-- ==== Sys2Proof/Machine/Physical.lean ====
section
/-! DEFINITION. Sys2Proof/Machine/Physical.lean: what a home does with a request (R269, R270, R290, R311): its checks, the
galley overlay of a draft's reads and its writes (R350 to R353), the write that watches and monitors see (R295, R435), and the
arithmetic of atomics (R310). -/

namespace Sys2Proof.Machine

/-! ### Homes -/

/-- The galley byte of a tag at a physical address (R350, R353). -/
def State.galleyByte (s : State) (tag : Nat × Nat) (pa : Nat) : Option Byte :=
  ((s.home (homeOf pa)).galley.find? fun g => g.tag == tag && g.seg == pa / 64).bind fun g =>
    (g.data.find? fun e => e.1 == pa % 64).map (·.2)

/-- `bs` from address `pa` up as a reader sees them: a draft's own galley bytes come first (R353). -/
def State.overlay (s : State) (tag : Option (Nat × Nat)) (pa : Nat) (bs : List Byte) : List Byte :=
  match tag with
  | none => bs
  | some t => (List.range bs.length).map fun i => (s.galleyByte t (pa + i)).getD ((bs[i]?).getD 0)

/-- `n` bytes at a request's address, for a reader with a draft's tag or without (R353). -/
def State.readHome (s : State) (r : HomeReq) (tag : Option (Nat × Nat)) (n : Nat) : List Byte :=
  if r.ap == 0 then s.overlay tag r.pa (s.hbm.bytes r.pa n) else s.globalBytes r n

/-- Put bytes into a memory of this package and tell its watchers (R295, R435). -/
def State.putPhys (s : State) (ap pa : Nat) (bs : List Byte) : State :=
  (s.setPhys ap ((s.phys ap).put pa bs)).notifyWatch ap pa bs.length

/-- A write of the device to a memory of this package: the host loses its copies of HBM lines first (R433). -/
def State.writePhys (s : State) (ap pa : Nat) (bs : List Byte) : State :=
  (if ap == 0 then s.backInvalidate pa bs.length else s).putPhys ap pa bs

/-- The aperture code of a request of a peer that lend entry `e` has admitted (R426). -/
def lentAp (e : Nat) : Nat := 16 + e

/-- A request comes to its home: none while it must wait there (R359, R421), after a LAPSE (R290), or before a lend entry admits it
(R426); else the request as a local one, with its lend entry released. -/
def State.atHome (s : State) (h : Nat) (r : HomeReq) (n : Nat) : Option (HomeReq × State) :=
  if 16 ≤ r.ap then
    if s.locked 0 r.pa n then none
    else
      let e := r.ap - 16
      some ({ r with ap := 0 }, { s with lends := match kget s.lends e with
        | some l => kset s.lends e { l with inUse := l.inUse - 1 }
        | none => s.lends })
  else if r.ap == 3 || s.lapses (agentDie h) r.exp || s.homeHeld r.ap r.pa n then none
  else some (r, s)

/-! ### The galley (R350 to R352) -/

/-- A draft's tag (R350). -/
def Proc.tag (p : Proc) : Nat × Nat := (p.launch.getD 0, bits p.index.toNat 0 32)

/-- The tag under which a process reads global memory (R353). -/
def Proc.readTag (p : Proc) : Option (Nat × Nat) := if p.isDraft then some p.tag else none

/-- One list of galley bytes with one byte written. -/
def putByte (i : Nat) (b : Byte) (l : List (Nat × Byte)) : List (Nat × Byte) := kset l i b

/-- Write bytes into a galley store of 2,048 entries (R350); none when a new entry finds it full (R352). -/
def galleyPut (tag : Nat × Nat) (exp : BitVec 48) : Nat → List Byte → List Galley → Option (List Galley)
  | _, [], l => some l
  | pa, b :: bs, l =>
    if l.any (fun g => g.tag == tag && g.seg == pa / 64) then
      galleyPut tag exp (pa + 1) bs (l.map fun g =>
        if g.tag == tag && g.seg == pa / 64 then { g with data := putByte (pa % 64) b g.data } else g)
    else if 2048 ≤ l.length then none
    else galleyPut tag exp (pa + 1) bs (l ++ [{ tag := tag, seg := pa / 64, data := [(pa % 64, b)], exp := exp }])

/-- Charge `n` bytes to a draft's quota; none when it is exceeded, and then QUOTA is set (R351). -/
def Proc.charge (p : Proc) (n : Nat) : Bool × Proc :=
  match p.draft with
  | none => (true, p)
  | some d =>
    if 256 * p.record.glim < d.gused + n then (false, { p with draft := some { d with quota := true } })
    else (true, { p with draft := some { d with gused := d.gused + n } })

/-- Note that a home has received galley writes of the draft (R357). -/
def Proc.noteHome (p : Proc) (h : Nat) : Proc :=
  { p with draft := p.draft.map fun d => { d with homes := insertNat h d.homes } }

/-! ### Atomics (R310) -/

/-- What an AMO or CAS writes: none when it writes nothing (R310). -/
def amoResult (op : Nat) (wide : Bool) (old v c : Nat) : Option Nat :=
  let w := if wide then 64 else 32
  let f := if wide then f64 else f32
  if op == 0 then none
  else if op == 1 || op == 2 then some v
  else if op == 3 then (if old == c then some v else none)
  else if op == 4 then some ((old + v) % 2 ^ w)
  else if op == 5 then some (old &&& v)
  else if op == 6 then some (old ||| v)
  else if op == 7 then some (old ^^^ v)
  else if op == 8 then some (if sInt w v < sInt w old then v else old)
  else if op == 9 then some (if sInt w old < sInt w v then v else old)
  else if op == 10 then some (min old v)
  else if op == 11 then some (max old v)
  else if op == 12 then some (f.add 0 old v Fp.none).1
  else some (f.minMax (op == 14) old v Fp.none).1

/-- The operation width in bytes. -/
def amoBytes (wide : Bool) : Nat := if wide then 8 else 4

/-- One indivisible step at the home (R310): the old value, and the state after it. -/
def State.amoStep (s : State) (r : HomeReq) (op : Nat) (wide : Bool) (v c : Word) (tag : Option (Nat × Nat)) :
    Nat × State :=
  let n := amoBytes wide
  let old := ofLe (s.readHome r tag n)
  (old, match amoResult op wide old (v.toNat % 2 ^ (8 * n)) (c.toNat % 2 ^ (8 * n)) with
    | some w => s.writePhys r.ap r.pa (leBytes w n)
    | none => s)

end Sys2Proof.Machine
end

