-- ==== Sys2Proof/Machine/Atomics.lean ====
section
/-! DEFINITION. Sys2Proof/Machine/Atomics.lean: AMO and CAS (R309 to R315), the replay queue (R312, R372), FENCE (R308), NEXTT
(R252), their steps at the home, their replies and refusals (R311, R464), and rejected leases (R290). -/

namespace Sys2Proof.Machine

/-! ### Requests -/

/-- A request of the process in slot `k` for a translated address: `f` runs on it, or a walk begins; in boot mode it faults at
once (R285, R449). -/
def State.request (s : State) (c k : Nat) (p : Proc) (i : Instr) (va : Word) (need source : Nat)
    (f : HomeReq → State → Act) : Act :=
  if s.inBoot c then .done (s.suspend c k p i source va need 1 false)
  else match s.lookup c p.uid p.ctx.toNat va need 0 with
    | some t => f { t.req p.ctx.toNat va with self := some (s.selfWord k p) } (s.spend c p.uid)
    | none => s.startWalk c p va need source

/-- A refusal of a request with another status. -/
def Body.withStatus (st : Nat) : Body → Body
  | .refusal who _ r data kind mark => .refusal who st r data kind mark
  | .copyAck job off len old => .copyAck job off len (old / 32 * 32 + st)
  | .loadAns who data _ => .loadAns who data st
  | .storeAck who _ ea data hostp self => .storeAck who st ea data hostp self
  | .ringAns job memop _ place => .ringAns job memop st place
  | .spawnAns who _ => .spawnAns who 2
  | b => b

/-- Send a request to its home (R270) on a virtual channel: one through APERTURE 3 to a package that is not in the scale-up domain is
refused, with PROT when the package is reached by scale-out (R422, R430). -/
def State.sendHomeOn (s : State) (vc c : Nat) (r : HomeReq) (b : Body) : State :=
  if r.ap != 3 then s.send c (homeOf r.pa) vc b
  else if s.routeKind r.peer == 3 then
    (match b.dead with
     | some a => s.send netUnit c 2 (a.withStatus 5)
     | none => s)
  else s.sendTo c (s.dest r.peer (homeOf r.pa)) vc b

/-- Send a request to its home on the virtual channel of requests (R270, R396). -/
def State.sendHome (s : State) (c : Nat) (r : HomeReq) (b : Body) : State := s.sendHomeOn 1 c r b

/-- The name of a request that belongs to no job. -/
def noJob : Job := { core := 0, id := 0 }

/-! ### AMO.store and the replay queue (R312) -/

/-- The 64 KiB page of an address (R300, R312). -/
def pageOf (a : Word) : Nat := a.toNat / 65536

/-- Does the replay queue hold a store to the page of an address? -/
def Proc.pageQueued (p : Proc) (a : Word) : Bool := p.replay.any fun q => pageOf q.va == pageOf a

/-- Has the process stores to a page that are queued, or that were sent again and have not been performed (R312, R372)? -/
def Proc.pageWaits (p : Proc) (page : Nat) : Bool :=
  p.replay.any (fun q => pageOf q.va == page) || p.drain.any fun e => e.2 == page

/-- A store takes its place in program order among the queued ones. -/
def insertStore (q : QStore) : List QStore → List QStore
  | [] => [q]
  | e :: l => if q.born < e.born then q :: e :: l else e :: insertStore q l

/-- Put a store issued in cycle `born` into the replay queue: with a record of its own, or with a store of its page whose record and
release it shares. -/
def Proc.enqueue (p : Proc) (a v : Word) (wide : Bool) (cookie : Half) (pc : Word) (born : Nat) : Proc :=
  let (cookie, go) := match p.replay.find? fun q => pageOf q.va == pageOf a with
    | some q => (q.cookie, q.go)
    | none => (cookie, false)
  { p with replay := insertStore { va := a, data := v, wide := wide, cookie := cookie, go := go, pc := pc, born := born } p.replay }

/-- A posted store leaves for its home, or as a draft's write for its galley (R301, R310, R351). -/
def State.sendStore (s : State) (c : Nat) (p : Proc) (r : HomeReq) (v : Word) (wide : Bool) (born : Nat) : State :=
  let n := amoBytes wide
  let who : Who := { core := c, uid := p.uid }
  let s := s.modCore c fun co => co.modUid p.uid fun q =>
    let q := { q with sack := q.sack + 1 }
    if p.isDraft then q.noteHome (homeOf r.pa) else q
  if p.isDraft then s.send c (homeOf r.pa) 1 (.galley r p.tag (leBytes v.toNat n) who 0 noJob born)
  else s.sendHome c r
    (.amo r 1 wide (BitVec.ofNat 64 (v.toNat % 2 ^ (8 * n))) (BitVec.ofNat 64 born) who true none)

/-- The mark of an AMO.store.rel that has been sent or queued, and that of a request that its home rejected with LAPSE. -/
def storeSent : Answer := { status := 1024, value := 0 }
def amoLapsed : Answer := { status := 2048, value := 0 }

/-- The process's posted store has left: the instruction retires, or, as AMO.store.rel, when its home has acknowledged the store
(R292, log entry 50). -/
def State.storeLeft (s : State) (c k : Nat) (rel : Bool) : Act :=
  if rel then
    match s.proc c k with
    | some q => .hold (s.setProc c k { q with answer := some storeSent }) .storeAck
    | none => .done s
  else .go s

/-- AMO.store (R301, R312): refused for a draft's quota (R351), queued behind its page's stores, or sent. -/
def State.postStore (s : State) (c k : Nat) (p : Proc) (i : Instr) (a v : Word) (wide rel : Bool) : Act :=
  let (ok, q) := p.charge (amoBytes wide)
  if !ok then .go (s.setProc c k q)
  else if p.pageQueued a then
    if 8 ≤ p.replay.length then .hold s .replayRoom
    else (s.setProc c k ((q.enqueue a v wide 0 p.pc s.now).count s.now 10 1)).storeLeft c k rel
  else s.request c k p i a needW 1 fun r s =>
    if p.isDraft && r.ap != 0 then .barred
    else if 32 ≤ p.sack then .hold s .sackFull
    else ((s.setProc c k (q.count s.now 10 1)).sendStore c q r v wide s.now).storeLeft c k rel

/-- A store of the replay queue is sent again: it waits for its acknowledgement (R372). -/
def State.resendStore (s : State) (c : Nat) (p : Proc) (r : HomeReq) (q : QStore) : State :=
  (s.modCore c fun co => co.modUid p.uid fun p =>
    { p with replay := p.replay.erase q, drain := p.drain ++ [(q.born, pageOf q.va)] }).sendStore c p r q.data q.wide q.born

/-- Send again what a RETRY has released of the replay queue of process `uid`, in program order, while SACK is below 32 (R372):
`stuck` are the pages whose first store must stay. -/
def State.replayFrom (s : State) (c uid : Nat) : List QStore → List Nat → State
  | [], _ => s
  | q :: qs, stuck =>
    match (s.core c).find uid with
    | none => s
    | some p =>
      if stuck.contains (pageOf q.va) || !q.go then s.replayFrom c uid qs (pageOf q.va :: stuck)
      else if 32 ≤ p.sack then s
      else
        let self := s.selfWord ((s.core c).slotFor uid) p
        match s.reach c noUid p.ctx.toNat q.va needW with
        | .ok r s' =>
          if p.isDraft && r.ap != 0 then s'.barred c p q.pc
          else (s'.resendStore c p { r with self := some self } q).replayFrom c uid qs stuck
        | .fault kind rap s =>
          let (s, cookie) := s.raiseFault c uid 2 (pageOf q.va) kind needW rap self q.va q.data
          let s := s.modCore c fun co => co.modUid uid fun p => { p with replay := p.replay.map fun e =>
            (if pageOf e.va == pageOf q.va then { e with go := false, cookie := cookie } else e) }
          s.replayFrom c uid qs (pageOf q.va :: stuck)
        | .later s => s.replayFrom c uid qs (pageOf q.va :: stuck)
        | .noPhys _ => s.replayFrom c uid qs (pageOf q.va :: stuck)

/-- Send again what can be sent of a process's replay queue. -/
def State.replayGo (s : State) (c : Nat) (p : Proc) : State :=
  if p.replay.any (fun q => q.go) then s.replayFrom c p.uid p.replay [] else s

/-- A store whose walk has faulted goes to the replay queue: the first of its page with a record (R312, R368). -/
def State.queueStore (s : State) (c : Nat) (p : Proc) (self a v : Word) (wide : Bool) (kind : Nat) (rap : Bool) (pc : Word)
    (born : Nat) : State :=
  let (s, cookie) := if p.pageQueued a then (s, 0) else s.raiseFault c p.uid 2 (pageOf a) kind needW rap self a v
  s.modCore c fun co => co.modUid p.uid fun q => q.enqueue a v wide cookie pc born

/-- An AMO.store whose own walk faults enters the replay queue and retires; with the queue full it suspends (R312, R368). -/
def State.storeFault (s : State) (c k : Nat) (p : Proc) (i : Instr) (a v : Word) (wide rel : Bool) (kind : Nat) (rap : Bool) :
    State :=
  if 8 ≤ p.replay.length then s.suspend c k p i 1 a needW kind rap
  else
    let q := ((p.charge (amoBytes wide)).2).count s.now 10 1
    let s := (s.setProc c k q).queueStore c q (s.selfWord k p) a v wide kind rap p.pc s.now
    s.resume c p.uid fun s k _ _ => s.storeLeft c k rel

/-! ### AMO and CAS (R309, R310, R313, R315) -/

/-- An atomic: OP, width and ordering, and its registers. -/
structure Amo where
  op   : Nat
  wide : Bool
  rel  : Bool
  a    : BitVec 5
  b    : BitVec 5
  d    : BitVec 5

/-- The registers that an atomic names. -/
def Amo.uses (m : Amo) : List Use :=
  [ux m.a] ++ (if m.op == 0 then [] else [ux m.b]) ++ (if m.op == 1 then [] else [ux m.d])

/-- The request of an AMO, CAS or NEXTT counts once, however often it is resent (R409). -/
def State.countRequest (s : State) (c : Nat) (p : Proc) : State :=
  if p.answer == some amoLapsed then s else s.countFor c p.uid 10 1

/-- An AMO or CAS (R310). Every form but load and store is barred in a draft (R354). -/
def amoInstr (i : Instr) (g : BitVec 4) (m : Amo) (s : State) : Out :=
  instr i s (fun _ p => { uses := m.uses, guard := p.guardBit g 0 }) fun s c k p =>
    let a := p.xr m.a
    if p.answer == some storeSent then (if p.released false then .go s else .hold s .storeAck)
    else if p.isDraft && decide (2 ≤ m.op) then .barred
    else match globalCheck a (amoBytes m.wide) with
      | some cause => .trap cause a
      | none =>
        if m.rel && !p.released true then .hold s (.release true)
        else if m.op == 1 then s.postStore c k p i a (p.xr m.b) m.wide m.rel
        else if p.pageWaits (pageOf a) then .hold s (.replayPage (pageOf a))
        else s.request c k p i a (if m.op == 0 then needR else needRmw) 1 fun r s =>
          .hold ((s.countRequest c p).sendHome c r
            (.amo r m.op m.wide (if m.op == 0 then 0 else p.xr m.b) (p.xr m.d) { core := c, uid := p.uid } false p.readTag))
            .amoReply

/-- AMO.load (R309, R310). -/
def execAmoLoad (g : BitVec 4) (r w : BitVec 1) (a d : BitVec 5) (s : State) : Out :=
  amoInstr (.amoLoad g r w a d) g { op := 0, wide := w == 1, rel := r == 1, a := a, b := 0, d := d } s

/-- AMO.store (R309, R310, R312). -/
def execAmoStore (g : BitVec 4) (r w : BitVec 1) (b a : BitVec 5) (s : State) : Out :=
  amoInstr (.amoStore g r w b a) g { op := 1, wide := w == 1, rel := r == 1, a := a, b := b, d := 0 } s

/-- AMO.swap (R309, R310). -/
def execAmoSwap (g : BitVec 4) (r w : BitVec 1) (b a d : BitVec 5) (s : State) : Out :=
  amoInstr (.amoSwap g r w b a d) g { op := 2, wide := w == 1, rel := r == 1, a := a, b := b, d := d } s

/-- CAS (R309, R310). -/
def execCas (g : BitVec 4) (r w : BitVec 1) (b a d : BitVec 5) (s : State) : Out :=
  amoInstr (.cas g r w b a d) g { op := 3, wide := w == 1, rel := r == 1, a := a, b := b, d := d } s

/-- AMO.add on integers (R309, R310). -/
def execAmoAdd (g : BitVec 4) (r w : BitVec 1) (b a d : BitVec 5) (s : State) : Out :=
  amoInstr (.amoAdd g r w b a d) g { op := 4, wide := w == 1, rel := r == 1, a := a, b := b, d := d } s

/-- AMO.and (R309, R310). -/
def execAmoAnd (g : BitVec 4) (r w : BitVec 1) (b a d : BitVec 5) (s : State) : Out :=
  amoInstr (.amoAnd g r w b a d) g { op := 5, wide := w == 1, rel := r == 1, a := a, b := b, d := d } s

/-- AMO.or (R309, R310). -/
def execAmoOr (g : BitVec 4) (r w : BitVec 1) (b a d : BitVec 5) (s : State) : Out :=
  amoInstr (.amoOr g r w b a d) g { op := 6, wide := w == 1, rel := r == 1, a := a, b := b, d := d } s

/-- AMO.xor (R309, R310). -/
def execAmoXor (g : BitVec 4) (r w : BitVec 1) (b a d : BitVec 5) (s : State) : Out :=
  amoInstr (.amoXor g r w b a d) g { op := 7, wide := w == 1, rel := r == 1, a := a, b := b, d := d } s

/-- AMO.min on signed integers (R309, R310). -/
def execAmoMinSigned (g : BitVec 4) (r w : BitVec 1) (b a d : BitVec 5) (s : State) : Out :=
  amoInstr (.amoMinSigned g r w b a d) g { op := 8, wide := w == 1, rel := r == 1, a := a, b := b, d := d } s

/-- AMO.max on signed integers (R309, R310). -/
def execAmoMaxSigned (g : BitVec 4) (r w : BitVec 1) (b a d : BitVec 5) (s : State) : Out :=
  amoInstr (.amoMaxSigned g r w b a d) g { op := 9, wide := w == 1, rel := r == 1, a := a, b := b, d := d } s

/-- AMO.min on unsigned integers (R309, R310). -/
def execAmoMinUnsigned (g : BitVec 4) (r w : BitVec 1) (b a d : BitVec 5) (s : State) : Out :=
  amoInstr (.amoMinUnsigned g r w b a d) g { op := 10, wide := w == 1, rel := r == 1, a := a, b := b, d := d } s

/-- AMO.max on unsigned integers (R309, R310). -/
def execAmoMaxUnsigned (g : BitVec 4) (r w : BitVec 1) (b a d : BitVec 5) (s : State) : Out :=
  amoInstr (.amoMaxUnsigned g r w b a d) g { op := 11, wide := w == 1, rel := r == 1, a := a, b := b, d := d } s

/-- AMO.add on floating-point values (R309, R310). -/
def execAmoFadd (g : BitVec 4) (r w : BitVec 1) (b a d : BitVec 5) (s : State) : Out :=
  amoInstr (.amoFadd g r w b a d) g { op := 12, wide := w == 1, rel := r == 1, a := a, b := b, d := d } s

/-- AMO.min on floating-point values (R309, R310). -/
def execAmoFmin (g : BitVec 4) (r w : BitVec 1) (b a d : BitVec 5) (s : State) : Out :=
  amoInstr (.amoFmin g r w b a d) g { op := 13, wide := w == 1, rel := r == 1, a := a, b := b, d := d } s

/-- AMO.max on floating-point values (R309, R310). -/
def execAmoFmax (g : BitVec 4) (r w : BitVec 1) (b a d : BitVec 5) (s : State) : Out :=
  amoInstr (.amoFmax g r w b a d) g { op := 14, wide := w == 1, rel := r == 1, a := a, b := b, d := d } s

/-! ### At the home, and back -/

/-- Is the home of a request the host interface unit (R311)? -/
def isHostAp (ap : Nat) : Bool := ap == 1 || ap == 2

/-- AMO_AT_HOME: packet `n` is performed in one step at its home (R310, R311); a peer's own read is answered (R425). A store accepted by
the host interface unit counts in HOSTP until it is written back. -/
def execAmoAtHome (s : State) : Out :=
  .next (s.onPacket s.ev.n fun s pk =>
    match pk.body with
    | .amo r op wide v c who posted tag =>
      match s.atHome pk.dst r (amoBytes wide) with
      | none => none
      | some (r, s) =>
        let (old, s) := s.amoStep r op wide v c tag
        if posted then
          let s := if isHostAp r.ap then
              { (s.modCore who.core fun co => co.modUid who.uid fun p => { p with hostp := p.hostp + 1 }) with
                hostWrites := s.hostWrites ++ [(who, r.ap, r.pa, leBytes v.toNat (amoBytes wide))] }
            else s
          some (s.send pk.dst pk.src 2 (.storeAck who 0 r.va c false 0))
        else some (s.send pk.dst pk.src 2 (.amoAns who (BitVec.ofNat 64 old)))
    | .farRead r n who =>
      match s.atHome pk.dst r n with
      | none => none
      | some (r, s) => some (s.send pk.dst pk.src 2 (.farAns who ((s.phys r.ap).bytes r.pa n)))
    | _ => none)

/-- The destination register of an AMO or CAS. -/
def amoDest : Instr → BitVec 5
  | .amoLoad _ _ _ _ d => d
  | .amoSwap _ _ _ _ _ d | .cas _ _ _ _ _ d | .amoAdd _ _ _ _ _ d | .amoAnd _ _ _ _ _ d | .amoOr _ _ _ _ _ d
  | .amoXor _ _ _ _ _ d | .amoMinSigned _ _ _ _ _ d | .amoMaxSigned _ _ _ _ _ d | .amoMinUnsigned _ _ _ _ _ d
  | .amoMaxUnsigned _ _ _ _ _ d | .amoFadd _ _ _ _ _ d | .amoFmin _ _ _ _ _ d | .amoFmax _ _ _ _ _ d => d
  | _ => 0

/-- The table step register and count register of a NEXTT. -/
def nexttRegs : Instr → BitVec 5 × BitVec 5 × BitVec 5
  | .nextt _ _ b a d => (b, a, d)
  | _ => (0, 0, 0)

/-- The answer of NEXTT reaches its slot: a status, and with OK the first index taken (R252). -/
def State.nexttDone (s : State) (who : Who) (st : Nat) (v : Word) : State :=
  s.resume who.core who.uid fun s k p i =>
    let s := if st == 0 then s.setProc who.core k (p.setX (nexttRegs i).2.2 v) else s
    statusAct i st s who.core k

/-! ### Polls of ALT guards (R295, R464) -/

/-- The doubleword that a kind 4 guard names. -/
def guardAddr (w : Word) : Word := BitVec.ofNat 64 (bits w.toNat 0 52)

/-- The guards of a waiting ALT. -/
def Proc.altGuardsOf (p : Proc) : List (Nat × Nat × Word) :=
  match p.wait with
  | some w => (match w.instr with | .alt _ n _ => p.guards (n.toNat + 1) | _ => [])
  | none => []

/-- The guard whose word a process in ALT is reading through APERTURE 3 (R295): `Answer.status` is 256 plus its
e-register. -/
def Proc.polling (p : Proc) : Option Nat := p.answer.bind fun e => if 256 ≤ e.status then some (e.status - 256) else none

/-- The first guard of a list whose word lies in a peer package, with its request. -/
def State.altFar (s : State) (c : Nat) (p : Proc) : List (Nat × Nat × Word) → Option (Nat × HomeReq × State)
  | [] => none
  | (i, kind, w) :: gs =>
    if kind != 4 || p.altDead.contains i || p.altDone.contains i then s.altFar c p gs
    else match s.reach c p.uid p.ctx.toNat (guardAddr w) needR with
      | .ok r s' => if r.ap == 3 then some (i, r, s') else s.altFar c p gs
      | _ => s.altFar c p gs

/-- Read the word of the first guard, from e-register `first` on, that lies in a peer package (R295); the others follow in
turn. -/
def State.altPoll (s : State) (c uid first : Nat) (gs : List (Nat × Nat × Word)) : State :=
  match (s.core c).find uid with
  | none => s
  | some p =>
    if p.polling.isSome then s
    else match s.altFar c p (gs.filter fun g => decide (first ≤ g.1)) with
      | none => s
      | some (i, r, s) =>
        let r := { r with self := some (s.selfWord ((s.core c).slotFor uid) p) }
        (s.modCore c fun co => co.modUid uid fun q => { q with answer := some { status := 256 + i, value := 0 } }).sendHome
          c r (.amo r 0 true 0 0 { core := c, uid := uid } false none)

/-- The value of a poll comes back, or its refusal, after which the guard is never ready (R464). The tick evaluates the guards
again. -/
def State.pollAnswer (s : State) (who : Who) (old : Option Word) : State :=
  match (s.core who.core).find who.uid with
  | none => s
  | some p =>
    match p.polling with
    | none => s
    | some i =>
      (s.modCore who.core fun co => co.modUid who.uid fun p =>
        let p := { p with answer := none }
        match old with
        | none => { p with altDead := i :: p.altDead }
        | some v => if v != (p.e[i + 1]?).getD 0 then { p with altDone := i :: p.altDone } else p).altPoll
        who.core who.uid (i + 1) p.altGuardsOf

/-! ### Replies -/

/-- AMO_REPLY: the reply of an AMO, CAS or NEXTT is written to its slot (R310, R313, R252); a fetched unit of a peer package is
kept (R464), and so is what an agent has read there. -/
def execAmoReply (s : State) : Out :=
  .next (s.onPacket s.ev.n fun s pk =>
    match pk.body with
    | .amoAns who old =>
      match s.waitOf who.core who.uid with
      | some .amoReply =>
        some (s.resume who.core who.uid fun s k p i => .go (s.setProc who.core k (p.setX (amoDest i) old)))
      | some (.fetchFar tag pa fresh) =>
        some ((if fresh then s.modCore who.core fun co => co.keepUnit tag pa (old.truncate 32) else s).reissue who.core who.uid)
      | some .alt => some (s.pollAnswer who (some old))
      | _ => some s
    | .nexttAns who st v =>
      match s.waitOf who.core who.uid with
      | some .nexttReply => some (s.nexttDone who st v)
      | _ => some s
    | .farAns who data => some (s.farAnswer who (some data))
    | _ => none)

/-- HOST_WRITEBACK_DONE: store `n` of those that the host interface unit has accepted is written back, and leaves HOSTP (R302,
R311, R434). -/
def execHostWritebackDone (s : State) : Out :=
  match s.hostWrites[s.ev.n]? with
  | none => .next s
  | some e =>
    let s := { s with hostWrites := s.hostWrites.eraseIdx s.ev.n }
    .next (s.modCore e.1.core fun co => co.modUid e.1.uid fun p => { p with hostp := p.hostp - 1 })

/-- A posted store to global memory is acknowledged: one that was sent again is performed (R372). -/
def State.storeAcked (s : State) (who : Who) (mark : Nat) (f : Proc → Proc) : State :=
  s.acked who fun p => f { p with drain := p.drain.filter fun e => e.1 != mark }

/-- The record of a refused or failed request (R314, R464): one without SELF draws none. -/
def State.requestRecord (s : State) (r : HomeReq) (kind status : Nat) (data : Word) : State :=
  match r.self with
  | some self => s.refusal r.ctx kind status self r.va data
  | none => s

/-- APERTURE3_REFUSAL: packet `n` tells its issuer that a request through APERTURE 3 was refused (R464): a posted store counts as
acknowledged, an AMO writes 0, NEXTT returns the status, a guard is dead, and a fetch ends its process. A fenced or unreachable
home answers in the same way. The record is posted although the issuer may have ended. -/
def execAperture3Refusal (s : State) : Out :=
  .next (s.onPacket s.ev.n fun s pk =>
    match pk.body with
    | .refusal who st r data kind mark =>
      if kind == 3 then some (s.farAnswer who none)
      else
        let s := s.requestRecord r 0x14 st data
        if kind == 1 then some (s.storeAcked who mark id)
        else match (s.core who.core).find who.uid, s.waitOf who.core who.uid with
          | some p, some (.fetchFar _ _ _) => some (s.fault who.core p 0 r.va r.va)
          | _, some .amoReply =>
            some (s.resume who.core who.uid fun s k p i => .go (s.setProc who.core k (p.setX (amoDest i) 0)))
          | _, some .nexttReply => some (s.nexttDone who st 0)
          | _, some .alt => some (s.pollAnswer who none)
          | _, _ => some s
    | _ => none)

/-! ### Rejected leases (R290, R291) -/

/-- The request that a packet carries to a home. -/
def Body.homeReq : Body → Option HomeReq
  | .amo r _ _ _ _ _ _ _ => some r
  | .nextt r _ _ _ => some r
  | .farRead r _ _ => some r
  | .galley r _ _ _ _ _ _ => some r
  | .copyRead _ _ _ _ (.mem r) _ _ _ => some r
  | .copyWrite _ _ _ (.mem r) => some r
  | _ => none

/-- A packet with another request. -/
def Body.withReq (r : HomeReq) : Body → Body
  | .amo _ op wide v c who posted tag => .amo r op wide v c who posted tag
  | .nextt _ st tag who => .nextt r st tag who
  | .farRead _ n who => .farRead r n who
  | .galley _ tag d who kind job off => .galley r tag d who kind job off
  | .copyRead j off len order _ dst uid tag => .copyRead j off len order (.mem r) dst uid tag
  | .copyWrite j off d _ => .copyWrite j off d (.mem r)
  | b => b

/-- The process that waits for the answer of a request. -/
def Body.waiter : Body → Option Who
  | .amo _ _ _ _ _ who false _ => some who
  | .nextt _ _ _ who => some who
  | _ => none

/-- Does the home, or the I/O die before a request leaves the package, reject a packet with LAPSE (R290, R291)? -/
def State.rejects (s : State) (pk : Packet) : Bool :=
  match pk.body.homeReq with
  | none => false
  | some r =>
    if r.ap == 3 then decide (65536 ≤ pk.dst) && s.ioLapses (senderIo pk.src) r.exp
    else decide (r.ap < 3) && s.lapses (agentDie pk.dst) r.exp

/-- The issuing process of a request, when one is known. -/
def Body.issuer : Body → Option Nat
  | .amo _ _ _ _ _ who _ _ => some who.uid
  | .nextt _ _ _ who => some who.uid
  | .galley _ _ _ who _ _ _ => some who.uid
  | _ => none

/-- A slot whose request was rejected issues its instruction again (R290); an ALT reads its guard again. -/
def State.relapse (s : State) (who : Who) : State :=
  match s.waitOf who.core who.uid with
  | some .alt =>
    match (s.core who.core).find who.uid with
    | some p =>
      (s.modCore who.core fun co => co.modUid who.uid fun p => { p with answer := none }).altPoll who.core who.uid
        (p.polling.getD 0) p.altGuardsOf
    | none => s
  | some (.fetchFar _ _ _) => s.reissue who.core who.uid
  | _ => (s.modCore who.core fun co => co.modUid who.uid fun p => { p with answer := some amoLapsed }).reissue who.core who.uid

/-- Packet `n` is resent with a new translation in the place that it had, so that the order of overlapping accesses stays (R299). -/
def State.resendAt (s : State) (n c : Nat) (r : HomeReq) (b : Body) : State :=
  let l := s.net.length - 1
  let t := (s.drop n).sendHomeOn ((s.net[n]?.map (·.vc)).getD 1) c r (b.withReq r)
  { t with net := t.net.take n ++ t.net.drop l ++ (t.net.take l).drop n }

/-- The unit, line or store that a packet of a draft carried will not be performed: whoever counts it goes on. -/
def State.unitOff (s : State) (c : Nat) : Body → State
  | .galley _ _ _ who 0 _ mark => s.storeAcked who mark id
  | .galley _ _ d _ _ job off => s.send netUnit c 2 (.copyAck job off d.length 0)
  | _ => s

/-- A draft's rejected write whose new translation leaves aperture 0 is barred; any other goes to its home, which the draft notes
(R353 to R355, R357). -/
def State.resendDraft (s : State) (n c : Nat) (who : Who) (r : HomeReq) (b : Body) : State :=
  if r.ap != 0 then
    let s := s.drop n
    let s := match (s.core who.core).find who.uid with
      | some p => s.barred who.core p p.pc
      | none => s
    s.unitOff c b
  else (s.modCore who.core fun co => co.modUid who.uid fun p => p.noteHome (homeOf r.pa)).resendAt n c r b

/-- The walk of a rejected posted store faults: the store goes to its process's replay queue before later stores, and waits in the
network interface while the queue is full (R290, R312, log entry 51). One of a process that has ended is dropped. -/
def State.storeLapsed (s : State) (n : Nat) (who : Who) (r : HomeReq) (v : Word) (wide : Bool) (mark kind : Nat) (rap : Bool) :
    Option State :=
  match (s.core who.core).find who.uid with
  | none => some (s.drop n)
  | some p =>
    if 8 ≤ p.replay.length then none
    else
      let s := (s.drop n).storeAcked who mark id
      some (s.queueStore who.core p (r.self.getD 0) r.va v wide kind rap p.pc mark)

/-- LAPSE_REJECT: packet `n` is rejected before any effect, and its issuer walks again and resends (R290, R325). A slot that waits
for the answer issues its instruction again. -/
def execLapseReject (s : State) : Out :=
  match s.packet s.ev.n with
  | none => .next s
  | some pk =>
    if !s.rejects pk then .next s
    else match pk.body.homeReq with
      | none => .next s
      | some r =>
        let n := s.ev.n
        let c := pk.src
        let uid := pk.body.issuer.getD noUid
        match pk.body.waiter with
        | some who => .next (((s.countLapse c uid).drop n).relapse who)
        | none =>
          let need := match pk.body with | .copyRead .. | .farRead .. => needR | _ => needW
          match s.reach c noUid r.ctx r.va need with
          | .noPhys pa => .fault (.noSuchPhysical pa)
          | .later _ => .next s
          | .ok r' s' =>
            let s' := s'.countLapse c uid
            let r' := { r' with self := r.self }
            (match pk.body with
             | .galley _ _ _ who _ _ _ => .next (s'.resendDraft n c who r' pk.body)
             | b => .next (s'.resendAt n c r' b))
          | .fault kind rap s' =>
            let s' := s'.countLapse c uid
            let walked := 64 + 2 * kind + bit rap
            match pk.body with
            | .amo _ _ wide v mark who _ _ => .next ((s'.storeLapsed n who r v wide mark.toNat kind rap).getD s)
            | .galley _ _ d who 0 _ mark =>
              .next ((s'.storeLapsed n who r (BitVec.ofNat 64 (ofLe d)) (d.length == 8) mark kind rap).getD s)
            | .galley _ _ d _ _ job off =>
              .next ((s'.drop n).send netUnit job.core 2 (.copyAck job off d.length (32 + walked)))
            | .copyRead job off len _ _ _ _ _ => .next ((s'.drop n).send netUnit c 2 (.copyAck job off len walked))
            | .copyWrite job off d _ => .next ((s'.drop n).send netUnit job.core 2 (.copyAck job off d.length (32 + walked)))
            | .farRead _ _ who => .next ((s'.drop n).modCore who.core fun co => { co with farReads := kdel co.farReads who.uid })
            | _ => .next s

/-! ### NEXTT (R251, R252) -/

/-- NEXTT (R252): what the issuer can refuse it refuses; the rest is decided at the home of CURSOR. -/
def execNextt (g : BitVec 4) (q : BitVec 1) (b a d : BitVec 5) (s : State) : Out :=
  let i := Instr.nextt g q b a d
  instr i s (fun _ p => { uses := [ux b, ux a, ux d], guard := p.guardBit g 0 }) fun s c k p =>
    let e0 := p.er 0
    let w := (p.xr b).toNat
    if p.isDraft then .barred
    else if e0.getLsbD 63 || bits e0.toNat 0 6 != 0 || bits w 8 24 != 0 then statusAct i 2 s c k
    else if p.pageWaits (pageOf e0) then .hold s (.replayPage (pageOf e0))
    else s.request c k p i e0 needRmw 1 fun r s =>
      .hold ((s.countRequest c p).sendHome c r (.nextt r (bits w 32 32) (bits w 0 8) { core := c, uid := p.uid }))
        .nexttReply

/-- The atomic action of NEXTT on the table at `pa` in the memory of an aperture (R252): a status, and with OK the index. -/
def State.nexttStep (s : State) (ap pa step tag : Nat) : Nat × Nat × State :=
  let m := s.phys ap
  let count := m.nat pa 4
  let nslab := m.nat (pa + 4) 1
  let cursor := m.nat (pa + 8) 8
  let sec := pa + 64 + 64 * tag
  let last := sInt 64 (m.nat sec 8)
  let val := sec + 8 + 8 * (step % 4)
  if nslab ≤ tag || decide (65536 < pa % 65536 + 64 + 64 * nslab + 4 * count) then (2, 0, s)
  else if (step : Int) == last + 1 then
    let v := if cursor < count then m.nat (pa + 64 + 64 * nslab + 4 * cursor) 4 else 0xFFFFFFFF
    let s := if cursor < count then s.writePhys ap (pa + 8) (leBytes (cursor + 1) 8) else s
    (0, v, (s.writePhys ap val (leBytes v 8)).writePhys ap sec (leBytes step 8))
  else if decide (last - 3 ≤ (step : Int)) && decide ((step : Int) ≤ last) then (0, m.nat val 8 % 2 ^ 32, s)
  else (2, 0, s)

/-- NEXTT_AT_HOME: packet `n` is performed as one atomic action at its home (R252). -/
def execNexttAtHome (s : State) : Out :=
  .next (s.onPacket s.ev.n fun s pk =>
    match pk.body with
    | .nextt r step tag who =>
      match s.atHome pk.dst r 16 with
      | none => none
      | some (r, s) =>
        let (st, v, s) := s.nexttStep r.ap r.pa step tag
        some (s.send pk.dst pk.src 2 (.nexttAns who st (BitVec.ofNat 64 v)))
    | _ => none)

/-! ### FENCE (R308) -/

/-- FENCE.rel and FENCE.ar: the release wait of the scope (R302, R308). -/
def fenceWait (i : Instr) (g : BitVec 4) (sc : BitVec 2) (s : State) : Out :=
  instr i s (fun _ p => { guard := p.guardBit g 0 }) fun s _ _ p =>
    if p.released (sc == 3) then .go s else .hold s (.release (sc == 3))

/-- FENCE.rel (R308). -/
def execFenceRel (g : BitVec 4) (sx : BitVec 2) (s : State) : Out := fenceWait (.fenceRel g sx) g sx s

/-- FENCE.acq: it orders, and does nothing else (R308). -/
def execFenceAcq (g : BitVec 4) (sx : BitVec 2) (s : State) : Out :=
  instr (.fenceAcq g sx) s (fun _ p => { guard := p.guardBit g 0 }) fun s _ _ _ => .go s

/-- FENCE.ar (R308). -/
def execFenceAr (g : BitVec 4) (sx : BitVec 2) (s : State) : Out := fenceWait (.fenceAr g sx) g sx s

end Sys2Proof.Machine
end

