-- ==== Sys2Proof/Machine/Alt.lean ====
section
/-! DEFINITION. Sys2Proof/Machine/Alt.lean: ALT (R215, R216), its watches, monitors and polls of global words (R295, R435), and
its time-outs. -/

namespace Sys2Proof.Machine

/-- The bits of a guard word that its KIND does not name must be zero (R215). -/
def guardBitsOk (kind w : Nat) : Bool :=
  if kind ≤ 1 then bits w 6 54 == 0
  else if kind ≤ 3 then bits w 18 42 == 0 && bits w 0 4 == 0
  else if kind == 4 then bits w 52 8 == 0 && bits w 0 3 == 0
  else if kind == 5 then bits w 36 24 == 0
  else if kind == 6 then bits w 48 12 == 0
  else kind == 7 && bits w 32 28 == 0

/-- A well-formed identifier (R224). -/
def idOk (id : Nat) : Bool := decide (id < 2 ^ 48) && idKind id != 3 && (idKind id != 2 || bits id 12 24 == 0)

/-- Is a launch, graph or job identifier stale (R224)? One of another package is asked about there. -/
def State.staleId (s : State) (id : Nat) : Bool :=
  !idOk id || (idKind id != 2 && idPkg id == s.pkgid.toNat && (s.launchRec id).isNone)

/-- A launch or graph identifier. -/
def State.launchId (s : State) (die idx : Nat) (r : LaunchRec) : Nat :=
  bit r.graph * 2 ^ 46 + s.pkgid.toNat * 2 ^ 36 + die * 2 ^ 34 + r.seq.toNat * 2 ^ 11 + idx

/-- Every record of the package with its identifier. -/
def State.launches (s : State) : List (Nat × LaunchRec) :=
  [0, 1, 2, 3].flatMap fun d => (s.die d).pool.map fun e => (s.launchId d e.1 e.2, e.2)

/-- Is a record not yet DONE (R229)? -/
def LaunchRec.live (r : LaunchRec) : Bool := r.state != 5

/-- Is a launch of a context live (R233)? -/
def State.jobLive (s : State) (ctx : Nat) : Bool := s.launches.any fun e => !e.2.graph && e.2.live && e.2.ctx == ctx

/-- Is a guard malformed (R216)? `n` is the number of e-registers of the ALT; an identifier is tested once, at decode. -/
def State.guardBad (s : State) (p : Proc) (n : Nat) (g : Nat × Nat × Word) : Bool :=
  let (i, kind, w) := g
  let w := w.toNat
  !guardBitsOk kind w || (kind == 4 && i + 1 == n) || (decide (kind ≤ 1) && decide (p.nports ≤ bits w 0 6))
    || ((kind == 2 || kind == 3) && !p.inWindow (16 * bits w 4 14) 16) || (kind == 6 && !p.altKnown.contains i && s.staleId (bits w 0 48))

/-- Is a guard of a kind other than 4 ready (R215)? -/
def State.guardReady (s : State) (c : Nat) (p : Proc) (g : Nat × Nat × Word) : Bool :=
  let (i, kind, word) := g
  let w := word.toNat
  let co := s.core c
  if kind ≤ 1 then
    match s.procPort c p (bits w 0 6) with
    | none => false
    | some (_, po) =>
      if kind == 1 then po.state != 3 || po.credits != 0
      else po.state == 0 || (!po.buffered && !po.queue.isEmpty)
        || (match po.disp with | some d => d.headReady | none => !po.held.isEmpty)
  else if kind == 2 then co.isFull (bits w 4 14)
  else if kind == 3 then !co.isFull (bits w 4 14)
  else if kind == 5 then
    let k := bits w 32 4
    co.ctrOwner[k]?.getD none == some p.ctx && decide (((co.ctr[k]?).getD 0 - BitVec.ofNat 32 w).toNat < 2 ^ 31)
  else if kind == 6 then
    p.altDone.contains i ||
      (idPkg (bits w 0 48) == s.pkgid.toNat
        && (if idKind (bits w 0 48) == 2 then !s.jobLive (bits w 0 12)
            else match s.launchRec (bits w 0 48) with | some r => r.state == 5 | none => true))
  else if kind == 7 then
    (match p.altEnd with | some t => decide (t + w % 2 ^ 32 ≤ s.now) | none => false)
  else false

/-- What evaluating the guards gives: the e-register of the first ready one, or none, with the addresses read, their translations
and the state after the reads; a fault of a read; a table outside the HBM. -/
inductive AltView where
  | seen (ready : Option Nat) (reads : List (Word × Tlb)) (s : State)
  | fault (va : Word) (kind : Nat) (rap : Bool) (s : State)
  /-- The request at an address must be made again: after a LAPSE, or when no walker was free. -/
  | later (va : Word) (s : State)
  | noPhys (pa : Nat)
  deriving DecidableEq

/-- Read the word of a kind 4 guard (R295) and remember in `acc` whether it differs; a word in a peer package is known from its
last poll. -/
def State.altReads (s : State) (c : Nat) (p : Proc) :
    List (Nat × Nat × Word) → List Nat → List (Word × Tlb) → AltView × List Nat
  | [], acc, ts => (.seen none ts s, acc)
  | (i, kind, w) :: gs, acc, ts =>
    if kind != 4 || p.altDead.contains i then s.altReads c p gs acc ts
    else match s.translate c p.uid p.ctx.toNat (guardAddr w) needR with
      | .fault f rap s' => (.fault (guardAddr w) f rap s', acc)
      | .later => (.later (guardAddr w) s, acc)
      | .noPhys pa => (.noPhys pa, acc)
      | .ok t _ s' =>
        let r := t.req p.ctx.toNat (guardAddr w)
        if r.ap != 3 && s'.lapses (agentDie (homeOf r.pa)) r.exp then (.later (guardAddr w) (s'.countLapse c p.uid), acc)
        else
          let v := BitVec.ofNat 64 (ofLe (s'.readHome r p.readTag 8))
          let ready := if r.ap == 3 then p.altDone.contains i
            else !s'.homeHeld r.ap r.pa 8 && v != (p.e[i + 1]?).getD 0
          s'.altReads c p gs (if ready then i :: acc else acc) (ts ++ [(guardAddr w, t)])

/-- Evaluate every guard in one cycle: the first ready one (R216). -/
def State.altEval (s : State) (c : Nat) (p : Proc) (gs : List (Nat × Nat × Word)) : AltView :=
  match s.altReads c p gs [] [] with
  | (.seen _ ts s', acc) => .seen ((gs.find? fun g => acc.contains g.1 || s'.guardReady c p g).map (·.1)) ts s'
  | (v, _) => v

/-! ### Watches (R295, R435) -/

/-- End every watch and monitor of a process. -/
def State.endWatches (s : State) (uid : Nat) : State :=
  { s with homes := s.homes.map fun h => (h.1, { h.2 with watches := h.2.watches.filter fun w => w.who.uid != uid }),
           monitors := s.monitors.filter fun m => m.who.uid != uid }

/-- Watch words that have been read: at a home with fewer than 64 watches, at the host interface unit with fewer than 1,024
monitors; the others are polled. -/
def State.altWatch (s : State) (c : Nat) (p : Proc) (ts : List (Word × Tlb)) : State :=
  ts.foldl (fun s (e : Word × Tlb) =>
    let r := e.2.req p.ctx.toNat e.1
    let w : Watch := { who := { core := c, uid := p.uid }, va := e.1, ap := r.ap, pa := r.pa, leaf := e.2.leaf, exp := e.2.exp }
    if r.ap == 0 then
      if (s.home (homeOf r.pa)).watches.length < 64 then
        s.modHome (homeOf r.pa) fun h => { h with watches := h.watches ++ [w] }
      else s
    else if r.ap != 3 && decide (s.monitors.length < 1024) then { s with monitors := s.monitors ++ [w] }
    else s) s

/-- Every watch of a process. -/
def State.watchesOf (s : State) (uid : Nat) : List Watch :=
  (s.homes.flatMap fun h => h.2.watches.filter fun w => w.who.uid == uid) ++ s.monitors.filter fun m => m.who.uid == uid

/-- Must some kind 4 guard of a waiting ALT be polled (R295)? -/
def State.altPolled (s : State) (p : Proc) (gs : List (Nat × Nat × Word)) : Bool :=
  gs.any fun g => g.2.1 == 4 && !p.altDead.contains g.1
    && !(s.watchesOf p.uid).any fun w => w.va == guardAddr g.2.2

/-- A kind 1 guard on a BOUND port without credits makes the network interface ask for one (R215); `first` at the first issue of the
ALT, which asks although an earlier request has failed. -/
def State.altCredits (s : State) (c k : Nat) (p : Proc) (first : Bool) (gs : List (Nat × Nat × Word)) : State :=
  gs.foldl (fun s g =>
    if g.2.1 != 1 then s
    else match s.procPort c p (bits g.2.2.toNat 0 6) with
      | some (q, po) =>
        if po.state == 3 && po.credits == 0 && (first || !po.refused) then
          let po := { po with refused := false }
          (s.setPort c q po).askCredit c k p q po 0
        else s
      | none => s) s

/-- Ask another package about a launch (see `Body.launchAsk`). -/
def State.askLaunch (s : State) (c : Nat) (p : Proc) (id mode : Nat) : State :=
  s.sendTo c (s.dest (idPkg id) (launchAgent (idDie id))) 0 (.launchAsk id p.ctx.toNat mode { core := c, uid := p.uid })

/-- What an ALT does when it begins to wait: it asks about launches of other packages, and watches or polls global words. -/
def State.altStart (s : State) (c : Nat) (p : Proc) (gs : List (Nat × Nat × Word)) (ts : List (Word × Tlb)) : State :=
  let s := gs.foldl (fun s g =>
    let id := bits g.2.2.toNat 0 48
    if g.2.1 == 6 && idPkg id != s.pkgid.toNat then s.askLaunch c p id 4 else s) s
  (((s.endWatches p.uid).altWatch c p ts).altPoll c p.uid 0 gs).spend c p.uid

/-! ### The instruction -/

/-- The first kind 4 guard without a translation at hand. -/
def State.altUnwalked (s : State) (c : Nat) (p : Proc) (gs : List (Nat × Nat × Word)) : Option Word :=
  (gs.find? fun g => g.2.1 == 4 && !p.altDead.contains g.1
    && (s.lookup c p.uid p.ctx.toNat (guardAddr g.2.2) needR 0).isNone).map fun g => guardAddr g.2.2

/-- The first kind 6 guard whose identifier another package must be asked about at decode (R216): its e-register and identifier. -/
def State.altStranger (s : State) (p : Proc) (gs : List (Nat × Nat × Word)) : Option (Nat × Nat) :=
  (gs.find? fun g => g.2.1 == 6 && !p.altKnown.contains g.1 && idPkg (bits g.2.2.toNat 0 48) != s.pkgid.toNat).map fun g =>
    (g.1, bits g.2.2.toNat 0 48)

/-- An ALT with its first issue noted: the deadline of a time-out counts from it (R215), and its identifiers of this package have been
tested (R216). -/
def State.altDecoded (s : State) (p : Proc) (gs : List (Nat × Nat × Word)) : Proc :=
  { p with altEnd := some (p.altEnd.getD s.now),
           altKnown := ((gs.filter fun g => g.2.1 == 6 && idPkg (bits g.2.2.toNat 0 48) == s.pkgid.toNat
             && !p.altKnown.contains g.1).map (·.1)) ++ p.altKnown }

/-- The evaluation of an ALT whose identifiers are known (R216). -/
def State.altBody (s : State) (c k : Nat) (p : Proc) (i : Instr) (gs : List (Nat × Nat × Word)) (d : BitVec 5) : Act :=
  match s.altUnwalked c p gs with
  | some va => if s.inBoot c then .done (s.suspend c k p i 1 va needR 1 false) else s.startWalk c p va needR 1
  | none =>
    match s.altEval c p gs with
    | .seen (some e) _ s => .go (((s.endWatches p.uid).spend c p.uid).setProc c k (p.setX d (BitVec.ofNat 64 e)))
    | .seen none ts s => .hold (s.altStart c p gs ts) .alt
    | .later va s => s.startWalk c p va needR 1
    | .fault va kind rap s => .done (s.suspend c k p i 1 va needR kind rap)
    | .noPhys _ => .hold (s.altStart c p gs []) .alt

/-- ALT (R216). -/
def execAlt (g : BitVec 4) (n : BitVec 3) (d : BitVec 5) (s : State) : Out :=
  let i := Instr.alt g n d
  instr i s (fun _ p => { uses := [ux d], guard := p.guardBit g 0 }) fun s c k p =>
    let gs := p.guards (n.toNat + 1)
    if gs.any (s.guardBad p (n.toNat + 1)) then .trap 7 (BitVec.ofNat 64 (0xFF * 256 + 2))
    else
      let q := s.altDecoded p gs
      let s := s.setProc c k q
      match s.altStranger q gs with
      | some (reg, id) => .hold (s.askLaunch c q id 2) (.altAsk reg)
      | none => (s.altCredits c k q p.altEnd.isNone gs).altBody c k q i gs d

/-- A waiting ALT whose guards may have changed: it returns, or goes on waiting (R216). A process that is being parked or is
parked issues it again. -/
def State.altTry (s : State) (c uid : Nat) : Option Out :=
  match (s.core c).find uid with
  | none => some (.next s)
  | some p =>
    let gs := p.altGuardsOf
    match s.altEval c p gs with
    | .noPhys pa => some (.fault (.noSuchPhysical pa))
    | .later _ _ => none
    | .fault va kind rap s =>
      (match (s.core c).slotOf uid, p.wait with
       | some k, some w =>
         if (s.slot c k).state == .blocked then some (.next ((s.endWatches uid).suspend c k p w.instr 5 va needR kind rap))
         else some (.next (s.reissue c uid))
       | _, _ => some (.next (s.reissue c uid)))
    | .seen none ts s => some (.next (((s.endWatches uid).altWatch c p ts).spend c uid))
    | .seen (some e) _ s =>
      let s := s.endWatches uid
      match (s.core c).slotOf uid with
      | some k =>
        if (s.slot c k).state == .blocked then
          some (.next ((s.spend c uid).resume c uid fun s k p i => .go (s.setProc c k (match i with
            | .alt _ _ d => p.setX d (BitVec.ofNat 64 e)
            | _ => p))))
        else some (.next (s.reissue c uid))
      | none => some (.next (s.reissue c uid))

/-! ### Events -/

/-- The process in slot `k` of a core, or from 16 up in its park records. -/
def Core.procAt (co : Core) (k : Nat) : Option Proc := if k < 16 then (co.slot k).proc else (co.parked[k - 16]?).map (·.proc)

/-- Is a process waiting in ALT? -/
def Proc.inAlt (p : Proc) : Bool := match p.wait with | some w => w.kind == .alt | none => false

/-- Does a time-out guard of a waiting ALT expire now (R215)? -/
def State.altExpired (s : State) (c : Nat) (p : Proc) : Bool :=
  p.inAlt && p.altGuardsOf.any fun g => g.2.1 == 7 && s.guardReady c p g

/-- The answer to an ALT's question at decode whether the launch of its guard is stale (R216): the ALT issues again, or traps. -/
def State.altTold (s : State) (who : Who) (id st : Nat) : State :=
  match (s.core who.core).find who.uid, s.waitOf who.core who.uid with
  | some p, some (.altAsk reg) =>
    let mine := match p.wait with
      | some w => (match w.instr with
        | .alt _ n _ => (p.guards (n.toNat + 1)).any fun g => g.1 == reg && bits g.2.2.toNat 0 48 == id
        | _ => false)
      | none => false
    if !mine then s
    else if st == 0 then
      (s.modCore who.core fun co => co.modUid who.uid fun p => { p with altKnown := reg :: p.altKnown }).reissue who.core who.uid
    else if ((s.core who.core).blockedSlot who.uid).isSome then
      s.resume who.core who.uid fun _ _ _ _ => .trap 7 (BitVec.ofNat 64 (0xFF * 256 + 2))
    else s.reissue who.core who.uid
  | _, _ => s

/-- ALT_TIMEOUT: a time-out guard of the ALT in slot `k` of core `c` is ready (R215). Numbers from 16 up name park records. -/
def execAltTimeout (s : State) : Out :=
  match (s.core s.ev.c).procAt s.ev.k with
  | some p => if s.altExpired s.ev.c p then (s.altTry s.ev.c p.uid).getD (.next s) else .next s
  | none => .next s

/-- WATCH_NOTIFY: packet `n` tells a watching network interface that a watched line has been written; it reads the word again
(R295). -/
def execWatchNotify (s : State) : Out :=
  s.onPacketOut s.ev.n fun s pk =>
    match pk.body with
    | .watchNote who _ =>
      match s.waitOf who.core who.uid with
      | some .alt => s.altTry who.core who.uid
      | _ => some (.next s)
    | _ => none

/-- Is a poll of a waiting ALT due: 1,024 cycles, or a multiple, since it began to wait (R295)? -/
def State.pollDue (s : State) (p : Proc) (since : Nat) : Bool :=
  p.inAlt && decide (since < s.now) && (s.now - since) % 1024 == 0 && s.altPolled p p.altGuardsOf

/-- The beginning of the wait of the process in slot or park record `k`. -/
def Core.sinceAt (co : Core) (k : Nat) : Nat :=
  if k < 16 then (co.slot k).since else ((co.parked[k - 16]?).map (·.since)).getD 0

/-- WATCH_POLL: the ALT in slot `k` of core `c` reads its unwatched words again, each 1,024 cycles (R295). Numbers from 16 up name
park records. -/
def execWatchPoll (s : State) : Out :=
  let c := s.ev.c
  match (s.core c).procAt s.ev.k with
  | none => .next s
  | some p =>
    if !s.pollDue p ((s.core c).sinceAt s.ev.k) then .next s
    else match s.altTry c p.uid with
      | some (.next s) =>
        (match (s.core c).find p.uid with
         | some p => if p.inAlt then .next (s.altPoll c p.uid 0 p.altGuardsOf) else .next s
         | none => .next s)
      | some o => o
      | none => .next s

end Sys2Proof.Machine
end

