-- ==== Sys2Proof/Machine/Launch.lean ====
section
/-! DEFINITION. Sys2Proof/Machine/Launch.lean: launches, graphs and jobs (R224 to R238), proof blocks (R343, R344), the states
and counters of launch agents, completion records (R231, R365), and cancels. -/

namespace Sys2Proof.Machine

/-! ### Identifiers and pools (R224, R225) -/

/-- Word 0 of a completion (R231). -/
def completionWord (outcome id : Nat) : Word := BitVec.ofNat 64 (outcome * 2 ^ 56 + id)

/-- Word 0 of a job's completion (R233). -/
def State.jobWord (s : State) (id : Nat) : Word :=
  let f := (kget s.jobs (bits id 0 12)).getD 0
  completionWord (if bits f 1 1 == 1 then 2 else bits f 0 1) id

/-- Is `id` the record `r` or one above it: its parents, and graphs that hold it or one of them (R234)? -/
def State.under (s : State) (id : Nat) : Nat → Nat → Bool
  | 0, _ => false
  | fuel + 1, r =>
    r == id || (match s.launchRec r with
      | none => false
      | some l => (match l.above.head? with | some q => s.under id fuel q | none => false)
          || (match l.member with | some g => s.under id fuel g | none => false))

/-- The parent of a record. -/
def LaunchRec.parent (r : LaunchRec) : Option Nat := r.above.head?

/-! ### Completion (R230 to R233) -/

/-- A pair of 32-bit counts in one word. -/
def pair32 (a b : Nat) : Word := BitVec.ofNat 64 (a % 2 ^ 32 * 2 ^ 32 + b % 2 ^ 32)

/-- The sixteen words of a completion record (R231, R365). -/
def LaunchRec.record (r : LaunchRec) (id outcome : Nat) : List Word :=
  let (fi, fv, fc, tpc, tval) := r.first.getD (0, 0, 0, 0, 0)
  let d := fun i => (r.drafts[i]?).getD 0
  let proof := (r.e[1]).getLsbD 33
  let (xi, xc) := r.fd.getD (2 ^ 32 - 1, 0)
  [completionWord outcome id, pair32 r.nfault r.nok, pair32 r.nlost r.ncancel,
   BitVec.ofNat 64 (fi % 2 ^ 32 * 2 ^ 32 + fv % 2 ^ 13 * 2 ^ 8 + fc % 256), tpc, tval, pair32 r.reroutes r.drops,
   pair32 r.children r.spills]
  ++ (if proof then
        [pair32 (d 0) (d 1), pair32 (d 2) (d 3), pair32 (d 4) (d 5), pair32 (d 6) (d 7), pair32 (d 8) (d 9),
         BitVec.ofNat 64 r.gcommit, BitVec.ofNat 64 r.gdiscard,
         BitVec.ofNat 64 (xi % 2 ^ 32 * 2 ^ 32 + xc % 256 * 2 ^ 24)]
      else List.replicate 8 0)

/-- Every process that waits in LWAIT for an identifier. -/
def State.lwaiters (s : State) (id : Nat) : List (Nat × Nat) :=
  s.cores.flatMap fun e =>
    (((e.2.procs.map (·.2)) ++ e.2.parked.map (·.proc)).filter fun p =>
      (match p.wait with | some w => w.kind == .lwait id | none => false)).map fun p => (e.1, p.uid)

/-- Every LWAIT on an identifier may return (R233). -/
def State.tellWaiters (s : State) (id st : Nat) (w : Word) : State :=
  (s.lwaiters id).foldl (fun s e =>
    (s.modCore e.1 fun co => co.modUid e.2 fun p => { p with answer := some { status := st, value := w } }).reissue e.1 e.2) s

/-- A dependence on a record that is DONE and need not be looked at again. -/
def spentDep : Nat := 2 ^ 48

/-- A record of which a dependence has been freed (R235). -/
def LaunchRec.freedDep (id outcome : Nat) (r : LaunchRec) : LaunchRec :=
  if r.deps.contains id then
    { r with deps := r.deps.map (fun i => if i == id then spentDep else i), bad := r.bad || outcome != 0 }
  else r

/-- Free a record (R232): launches that depend on it keep what it meant to them (R235). -/
def State.freeRecord (s : State) (id : Nat) : State :=
  match s.launchRec id with
  | none => s
  | some r =>
    let dies := s.dies.map fun d => { d with pool := d.pool.map fun e => (e.1, e.2.freedDep id r.outcome) }
    { s with dies := dies }.modDie (idDie id) fun d => { d with pool := kdel d.pool (idIndex id) }

/-- The records whose parent has become DONE are freed (R232). -/
def State.freeChildren (s : State) (id : Nat) : State :=
  (s.launches.filter fun e => e.2.parent == some id).foldl (fun s e => s.freeRecord e.1) s

/-- A record of the launch agent that its own store was refused (R231, R464). The spec names no SELF of an agent: ORIGIN is free
(log entry 23). -/
def State.agentRefusal (s : State) (a ctx st : Nat) (addr data : Word) : State :=
  { s.post a ctx [kindWord 0x14 st, Config.freeWord (2 * s.tick), addr, data] with tick := s.tick + 1 }

/-- How the write of a completion record ends. -/
inductive Written where
  | done (s : State)
  | later (s : State)
  | noPhys (pa : Nat)
  deriving DecidableEq

/-- The name of a launch agent's write of a completion record to a peer package. -/
def recordKey (id : Nat) : Nat := 2 ^ 200 + id

/-- Write the completion record under the launch context's translation (R231). One in a peer package is written before the launch is
DONE (R230), or refused there (R464). -/
def State.writeRecord (s : State) (id outcome : Nat) (r : LaunchRec) : Written :=
  let crec := r.e[7]
  let a := launchAgent (idDie id)
  let key := recordKey id
  let ws := r.record id outcome
  if r.graph || crec == 0 then .done s
  else match kget (s.core a).farReads key with
    | some none => .later s
    | some (some st) =>
      let st := ofLe (st.getD [])
      let s := s.modCore a fun co => { co with farReads := kdel co.farReads key }
      .done (if st == 0 then s else s.agentRefusal a r.ctx st crec (completionWord outcome id))
    | none => match s.reach a noUid r.ctx crec needW with
      | .later s => .later s
      | .noPhys pa => .noPhys pa
      | .fault _ _ s => .done (s.agentRefusal a r.ctx 5 crec (completionWord outcome id))
      | .ok q s' =>
        if q.ap == 3 then
          .later ((s'.modCore a fun co => { co with farReads := kset co.farReads key none }).sendHome a q
            (.copyWrite { core := a, id := key } 0 (wordBytes ws) (.mem q)))
        else if s'.homeHeld q.ap q.pa 128 then .later s
        else .done (s'.writePhys q.ap q.pa (wordBytes ws))

/-- The OUTCOME of a record that ends (R231, R233, R235). -/
def LaunchRec.ending (r : LaunchRec) : Nat :=
  if r.cancelled then 2
  else if r.graph then (if r.bad then 1 else 0)
  else if r.state == 1 && r.bad then 3
  else if r.nfault + r.nlost != 0 then 1 else 0

/-- The packages of the scale-up domain (R422). -/
def State.domain (s : State) : List Nat := (s.routes.filter fun e => bits e.2.w0.toNat 62 2 == 2).map (·.1)

/-- Tell a launch agent of every package of the scale-up domain. -/
def State.tellDomain (s : State) (a : Nat) (b : Body) : State :=
  s.domain.foldl (fun s p => s.send a (peerAgent p (launchAgent 0)) 0 b) s

/-- A record becomes DONE (R230): its completion record is written, its parent and its graph are told, its children's records are
freed, here and on other packages, and its waiters go on. Until the record is written it only stands as `r`. -/
def State.finish (s : State) (id : Nat) (r : LaunchRec) : Out :=
  let o := r.ending
  match s.writeRecord id o r with
  | .later s => .next (s.setLaunch id r)
  | .noPhys pa => .fault (.noSuchPhysical pa)
  | .done s =>
    let s := s.setLaunch id { r with state := 5, outcome := o }
    let s := if o == 0 || r.graph then s
      else { s with jobs := kset s.jobs r.ctx (((kget s.jobs r.ctx).getD 0) ||| 1) }
    let s := s.report (launchAgent (idDie id)) r.parent { kind := 4, cause := o }
    let s := s.report (launchAgent (idDie id)) r.member { kind := 4, cause := o }
    let s := if r.depth == 0 && !r.graph then
        s.post (launchAgent (idDie id)) r.ctx [kindWord 0x19 0, BitVec.ofNat 64 id, completionWord o id, 0] else s
    let s := (s.freeChildren id).tellWaiters id 0 (completionWord o id)
    let s := if r.far then s.tellDomain (launchAgent (idDie id)) (.launchDone id) else s
    let job := 2 ^ 47 + s.pkgid.toNat * 2 ^ 36 + r.ctx
    .next (if s.jobLive r.ctx then s else s.tellWaiters job 0 (s.jobWord job))

/-! ### LAUNCH (R226, R227, R343, R344) -/

/-- Are the operands of a LAUNCH well-formed (R227)? -/
def launchOk (e0 e1 e7 : Word) : Bool :=
  let w := e1.toNat
  bits e0.toNat 0 6 == 0 && bits w 38 26 == 0 && bits w 30 2 == 0 && bits w 13 13 != 0
    && decide (bits w 0 13 + bits w 13 13 ≤ 3968) && !e7.getLsbD 63 && bits e7.toNat 0 7 == 0

/-- An open graph of a process (R227, R236). -/
def State.openGraph (s : State) (id uid : Nat) : Bool :=
  match s.launchRec id with
  | some r => r.graph && r.opener == uid && !r.closed
  | none => false

/-- LAUNCH (R227); barred in a draft (R354). -/
def execLaunch (g : BitVec 4) (q : BitVec 1) (b d : BitVec 5) (s : State) : Out :=
  let i := Instr.launch g q b d
  instr i s (fun _ p => { uses := [ux b, ux d], guard := p.guardBit g 0 }) fun s c k p =>
    let e6 := (p.er 6).toNat
    if p.isDraft then .barred
    else if !launchOk (p.er 0) (p.er 1) (p.er 7) || (e6 != 0 && !s.openGraph e6 p.uid) || decide (16 < p.line.length) then
      statusAct i 2 s c k
    else if s.cancelling p.launch then statusAct i 8 s c k
    else if !p.released false then .hold s (.release false)
    else
      .hold (s.sendTo c (s.live (launchAgent (agentDie c))) 0
        (.launchReq p.e.toList p.ctx.toNat p.line p.priv (if e6 == 0 then none else some e6) { core := c, uid := p.uid }))
        .launchAns

/-- What a launch agent reads of a header or proof block. -/
inductive LaunchHead where
  /-- Privileged, PRIO of the header, the draft or only header, and the exact header, TOL and GLIM of a proofed launch. -/
  | ok (priv : Bool) (prio : BitVec 2) (hdr : Word) (exact : Option Word) (tol : Word) (glim : Nat) (s : State)
  | refused (s : State)
  | later (s : State)
  | noPhys (pa : Nat)
  deriving DecidableEq

/-- Read `n` words under the issuer's context with need R, and go on with them (R227, R284). -/
def State.agentRead (s : State) (c ctx : Nat) (va : Word) (n : Nat) (f : List Word → State → LaunchHead) : LaunchHead :=
  match s.ownRead c ctx va needR (8 * n) with
  | .ok bs s' => f (bytesWords bs n) s'
  | .fault _ _ s' => .refused s'
  | .refused s' => .refused s'
  | .later s' => .later s'
  | .noPhys pa => .noPhys pa

/-- Is a proof block malformed (R343, R344)? -/
def proofBad (ws : List Word) : Bool :=
  let w := fun i => ((ws[i]?).getD 0).toNat
  bits (w 0) 0 6 != 0 || bits (w 1) 0 6 != 0 || bits (w 2) 16 48 != 0 || bits (w 2) 8 8 != 1 || bits (w 2) 4 4 != 0
    || bits (w 2) 0 3 != 0 || bits (w 3) 63 1 == 1 || decide (0x7FF * 2 ^ 52 < w 3) || bits (w 4) 24 40 != 0
    || w 5 != 0 || w 6 != 0 || w 7 != 0

/-- Word 2 of the header at `hdr`. -/
def State.headWord2 (s : State) (c ctx : Nat) (hdr : Word) (f : Nat → State → LaunchHead) : LaunchHead :=
  s.agentRead c ctx (hdr + 16) 1 fun ws s => f (ws.headD 0).toNat s

/-- Read what a LAUNCH names (R227, R344). -/
def State.launchHead (s : State) (c ctx : Nat) (e0 e1 : Word) : LaunchHead :=
  if !e1.getLsbD 33 then
    s.headWord2 c ctx e0 fun w s => .ok (bits w 3 1 == 1) (BitVec.ofNat 2 (bits w 4 2)) e0 none 0 0 s
  else s.agentRead c ctx e0 8 fun ws s =>
    let w := fun i => (ws[i]?).getD 0
    s.headWord2 c ctx (w 0) fun d s => s.headWord2 c ctx (w 1) fun x s =>
      let priv := bits (w 2).toNat 3 1
      if proofBad ws || bits d 2 1 == 0 || bits x 2 1 == 1 || bits d 3 1 != priv || bits x 3 1 != priv then .refused s
      else .ok (priv == 1) (BitVec.ofNat 2 (bits d 4 2)) (w 0) (some (w 1)) (w 3) (bits (w 4).toNat 0 24) s

/-- Free places of a die's pool (R225). -/
def Die.freePool (d : Die) : List Nat := (List.range 2048).filter fun i => (kget d.pool i).isNone

/-- An empty record (R225, R231, R365). -/
def LaunchRec.fresh (graph : Bool) (seq : BitVec 23) (line : List Nat) (ctx : Nat) (member : Option Nat) (opener born : Nat)
    (e : Vector Word 8) : LaunchRec :=
  { graph := graph, state := 1, seq := seq, depth := line.length, ctx := ctx, above := line, member := member,
    opener := opener, born := born, e := e, hdrPrio := 0, exactHdr := none, tol := 0, glim := 0, held := e[1].getLsbD 34,
    closed := false, deps := [], counter := if graph then 0 else 1, cancelled := false, outcome := 0, nok := 0,
    nfault := 0, nlost := 0, ncancel := 0, first := none, reroutes := 0, drops := 0, children := 0, spills := 0,
    drafts := Vector.replicate 10 0, gcommit := 0, gdiscard := 0, fd := none, bad := false, far := false, joining := none,
    unread := 0 }

/-- A record counts a child launch or graph, or a process (R227, R230, R231). -/
def LaunchRec.join (r : LaunchRec) (child far : Bool) : LaunchRec :=
  { r with counter := r.counter + 1, children := r.children + bit child, far := r.far || far }

/-- Does another package hold the launch of a process or of a parent? -/
def State.farLaunch (s : State) (l : Option Nat) : Bool := l.any fun id => idPkg id != s.pkgid.toNat

/-- Allocate a record on a die: which free place it takes is free (log entry 2). A launch of a context of which none is live
begins a new job (log entry 25). A parent on another package is asked to count it, and `who` waits (R227). -/
def State.allocate (s : State) (die : Nat) (graph : Bool) (line : List Nat) (ctx : Nat) (member : Option Nat) (who : Who)
    (e : Vector Word 8) (f : LaunchRec → LaunchRec) : Nat × State :=
  let far := s.farLaunch line.head?
  let free := (s.die die).freePool
  let (n, s) := s.choose free.length
  let idx := (free[n]?).getD 0
  let s := if !graph && !s.jobLive ctx then { s with jobs := kset s.jobs ctx 0 } else s
  let n := (s.die die).seqs
  let r := f (LaunchRec.fresh graph (Config.seqBase die + BitVec.ofNat 23 n) line ctx member who.uid n e)
  let r := if far then { r with joining := some who } else r
  let s := s.modDie die fun d => { d with seqs := n + 1, pool := kset d.pool idx r }
  let id := s.launchId die idx r
  match line.head? with
  | none => (id, match member with | some g => s.modLaunch g fun r => r.join false false | none => s)
  | some l =>
    if far then
      (id, s.sendTo (launchAgent die) (s.dest (idPkg l) (launchAgent (idDie l))) 0 (.launchJoin l (bit graph) id who))
    else
      let s := s.modLaunch l fun r => r.join true false
      (id, match member with | some g => s.modLaunch g fun r => r.join false false | none => s)

/-- The parent on another package has counted a record, or has not (R227, R236): the record is created, or freed again. -/
def State.joined (s : State) (id st : Nat) : State :=
  match s.launchRec id with
  | none => s
  | some r =>
    match r.joining with
    | none => s
    | some who =>
      let a := launchAgent (idDie id)
      if st == 0 then
        let s := s.setLaunch id { r with joining := none }
        let s := match r.member with | some g => s.modLaunch g fun r => r.join false false | none => s
        s.send a who.core 0 (.launchAns who 0 id)
      else
        (s.modDie (idDie id) fun d => { d with pool := kdel d.pool (idIndex id) }).send a who.core 0
          (.launchAns who (if st == 8 then 8 else 2) 0)

/-- How a launch request is answered. -/
inductive Created where
  | answer (st id : Nat) (s : State)
  /-- The answer comes once the parent on another package has counted the launch. -/
  | joining (s : State)
  | later (s : State)
  | noPhys (pa : Nat)
  deriving DecidableEq

/-- A launch agent serves a request (R227). -/
def State.createLaunch (s : State) (die : Nat) (e : Vector Word 8) (ctx : Nat) (line : List Nat) (priv : Bool)
    (graph : Option Nat) (who : Who) : Created :=
  if (s.die die).freePool.isEmpty then .answer 2 0 s
  else match s.launchHead (launchAgent die) ctx e[0] e[1] with
    | .refused s => .answer 2 0 s
    | .later s => .later s
    | .noPhys pa => .noPhys pa
    | .ok hp prio hdr exact tol glim s =>
      if hp && !priv then .answer 5 0 s
      else if s.cancelling line.head? then .answer 8 0 s
      else
        let (id, s) := s.allocate die false line ctx graph who (e.set 0 hdr) fun r =>
          { r with hdrPrio := prio, exactHdr := exact, tol := tol, glim := glim }
        if s.farLaunch line.head? then .joining s else .answer 0 id s

/-- A launch of this package counts a child or a process of another one, in one step with the test of its state (R227, R230). -/
def State.countJoin (s : State) (id kind : Nat) : Nat × State :=
  match s.launchRec id with
  | none => (2, s)
  | some r =>
    if kind == 0 && (r.state == 4 || !r.live) then (8, s)
    else (0, s.setLaunch id (r.join (decide (kind < 2)) true))

/-- LAUNCH_REQUEST_ARRIVE: the launch agent serves packet `n` and answers (R227, R344); a request of another package to be counted by
its launch is answered at once. -/
def execLaunchRequestArrive (s : State) : Out :=
  let n := s.ev.n
  s.onPacketKept n fun s pk =>
    match pk.body with
    | .launchReq e ctx line priv graph who =>
      match s.createLaunch (agentDie pk.dst) (Vector.ofFn fun i : Fin 8 => (e[i.val]?).getD 0) ctx line priv graph who with
      | .later s => some (.next s)
      | .noPhys pa => some (.fault (.noSuchPhysical pa))
      | .joining s => some (.next (s.drop n))
      | .answer st id s => some (.next ((s.drop n).send pk.dst pk.src 0 (.launchAns who st id)))
    | .launchJoin id kind child who =>
      let (st, s) := (s.drop n).countJoin id kind
      some (.next (s.send pk.dst pk.src 0 (.launchJoined kind child st who)))
    | _ => none

/-! ### Waking (R228, R235, R236) -/

/-- Number of processes per core, and the range, of a launch. -/
def LaunchRec.perCore (r : LaunchRec) : Nat := bits r.e[1].toNat 26 4 + 1
def LaunchRec.firstCore (r : LaunchRec) : Nat := bits r.e[1].toNat 0 13
def LaunchRec.coreCount (r : LaunchRec) : Nat := bits r.e[1].toNat 13 13

/-- Is every dependence met (R235)? One whose record was freed was met, or has failed the launch already. -/
def State.depsMet (s : State) (r : LaunchRec) : Bool :=
  r.deps.all fun d => match s.launchRec d with
    | some q => q.state == 5 && q.outcome == 0
    | none => true

/-- Has a dependence failed (R235)? -/
def State.depFailed (s : State) (r : LaunchRec) : Bool :=
  r.bad || r.deps.any fun d => match s.launchRec d with
    | some q => q.state == 5 && q.outcome != 0
    | none => false

/-- Is a PENDING launch released (R235, R236)? A member of a graph is held until the graph closes. -/
def State.released (s : State) (r : LaunchRec) : Bool :=
  match r.member with
  | some g => (match s.launchRec g with | some q => q.closed | none => true)
  | none => !r.held

/-- The wake of a launch (R228): one message for each record; the processes of a core that is fenced, with no spare, are lost. -/
def State.flood (s : State) (id : Nat) (r : LaunchRec) : State :=
  let a := launchAgent (idDie id)
  (List.range r.coreCount).foldl (fun s i =>
    match s.live (r.firstCore + i) with
    | some c => (List.range r.perCore).foldl (fun s j => s.send a c 4 (.wakeLaunch id j)) s
    | none => (List.range r.perCore).foldl (fun s _ => s.report a (some id) { kind := 3 }) s) s

/-- Are all records of a launch placed? -/
def State.placed (s : State) (id : Nat) : Bool :=
  !s.net.any fun p => match p.body with | .wakeLaunch l _ => l == id | _ => false

/-- Tell the agent once every record is placed (R229, R230). -/
def State.notePlaced (s : State) (id : Nat) : State :=
  if s.placed id then s.report (launchAgent (idDie id)) (some id) { kind := 5 } else s

/-- LAUNCH_RELEASE: launch or graph `n` wakes, or goes to DONE because a dependence failed, it was cancelled, the graph is closed and
every member is DONE, or its completion record has been written at last (R229, R230, R235, R236). -/
def execLaunchRelease (s : State) : Out :=
  let id := s.ev.n
  match s.launchRec id with
  | none => .next s
  | some r =>
    if r.joining.isSome then .next s
    else if r.graph then
      if r.live && r.closed && r.counter == 0 then s.finish id r else .next s
    else if r.state != 1 then
      if r.live && r.counter == 0 then s.finish id r else .next s
    else if r.cancelled then s.finish id r
    else if s.depFailed r then s.finish id { r with bad := true }
    else if s.released r && s.depsMet r then
      let s := s.setLaunch id { r with state := 2, counter := r.counter + r.coreCount * r.perCore }
      .next ((s.flood id r).notePlaced id)
    else .next s

/-- LAUNCH_WAKE: packet `n` places a record in its core's spawn queue (R228, R460). The records of a launch that is being
cancelled are counted and removed at once (R234); those of a core fenced meanwhile are lost. -/
def execLaunchWake (s : State) : Out :=
  match s.packet s.ev.n with
  | none => .next s
  | some pk =>
    match pk.body with
    | .wakeLaunch id j =>
      let c := pk.dst
      let s1 := s.drop s.ev.n
      match s.launchRec id with
      | none => .next s1
      | some r =>
        if s.fenced c then .next ((s1.report (launchAgent (idDie id)) (some id) { kind := 3 }).notePlaced id)
        else
          let v := s.vcoreOf c
          let index := (v - r.firstCore) * r.perCore + j
          if r.state == 4 then .next ((s1.report c (some id) { kind := 2, index := index }).notePlaced id)
          else if queueSize ≤ (s.core c).queue.length then .next s
          else match s.readHeader c r.ctx r.e[0] with
            | .later s => .next s
            | .noPhys pa => .fault (.noSuchPhysical pa)
            | .ok h s =>
              let s1 := s.drop s.ev.n
              let rec_ : Record :=
                { hdr := r.e[0], args := Vector.ofFn fun i : Fin 4 => (r.e[2 + i.val]?).getD 0, exact := false,
                  index := BitVec.ofNat 32 index, ctx := BitVec.ofNat 12 r.ctx,
                  prio := if r.e[1].getLsbD 35 then BitVec.ofNat 2 (bits r.e[1].toNat 36 2) else r.hdrPrio,
                  launch := some id, since := s.now, header := h, exactHdr := r.exactHdr, tol := r.tol, glim := r.glim,
                  reserved := false, above := r.above }
              let s1 := s1.modCore c fun co =>
                { co with queue := co.queue ++ [rec_],
                          tileWake := if co.tileIdle s.now then some (s.now + v % 64 % 16 * 32) else co.tileWake }
              .next (s1.notePlaced id)
    | _ => .next s

/-! ### Ends (R230, R365) -/

/-- Add one to a count of words 8 to 12 (R365). -/
def LaunchRec.tally (r : LaunchRec) (i : Nat) : LaunchRec :=
  { r with drafts := r.drafts.setIfInBounds i ((r.drafts[i]?).getD 0 + 1) }

/-- The proof accounting of a report (R365): a commit, or a discard with its cause. -/
def LaunchRec.proofCounts (r : LaunchRec) (e : EndReport) : LaunchRec :=
  if !r.e[1].getLsbD 33 then r
  else
    let r := if e.kind == 0 && e.commit then { r.tally 0 with gcommit := r.gcommit + e.gused } else r
    let r := if e.kind == 6 then r.tally 1 else r
    let r := if e.kind == 7 then r.tally 9 else r
    let r := if e.cause != 0 && e.kind != 4 then
        { r.tally (e.cause + 1) with fd := some (r.fd.getD (e.index, e.cause)) } else r
    if e.commit then r else { r with gdiscard := r.gdiscard + (if e.kind == 4 then 0 else e.gused) }

/-- A record with a report counted (R230, R231, R250). -/
def LaunchRec.counted (r : LaunchRec) (e : EndReport) : LaunchRec :=
  let r := { r.proofCounts e with drops := r.drops + e.drops, reroutes := r.reroutes + e.reroutes,
                                  spills := r.spills + e.spills, far := r.far || e.far }
  let less := fun r : LaunchRec => { r with counter := r.counter - 1 }
  if e.kind == 0 then less { r with nok := r.nok + 1 }
  else if e.kind == 1 then
    less { r with nfault := r.nfault + 1, first := some (r.first.getD (e.index, e.vcore, e.tcause, e.tpc, e.tval)) }
  else if e.kind == 2 then less { r with ncancel := r.ncancel + 1 }
  else if e.kind == 3 then less { r with nlost := r.nlost + 1 }
  else if e.kind == 4 then less { r with bad := if r.graph then r.bad || e.cause != 0 else r.bad }
  else if e.kind == 5 then less { r with state := if r.state == 2 then 3 else r.state }
  else if e.kind == 8 || e.kind == 10 then less r
  else r

/-- LAUNCH_COUNTER_DECREMENT: packet `n` tells a launch agent of an end; at zero the record completes (R230, R231). -/
def execLaunchCounterDecrement (s : State) : Out :=
  s.onPacketOut s.ev.n fun s pk =>
    match pk.body with
    | .ended id e =>
      match s.launchRec id with
      | none => some (.next s)
      | some r =>
        let r' := r.counted e
        some (if r'.counter == 0 && r'.live && (!r'.graph || r'.closed) && r'.state != 1 then s.finish id r'
          else .next (s.setLaunch id r'))
    | _ => none

/-! ### Cancels (R234, R237) -/

/-- Does a launch, or a context, belong to what a cancel names? A job identifier names a context. -/
def cancelHits (id : Nat) (launch : Option Nat) (ctx : Nat) : Bool :=
  if idKind id == 2 then ctx == bits id 0 12 else launch == some id

/-- Does a core hold anything of what a cancel names? -/
def Core.holds (co : Core) (id : Nat) : Bool :=
  let r := fun q : Record => cancelHits id q.launch q.ctx.toNat
  let p := fun q : Proc => r q.record
  co.queue.any r || co.rerun.any r || co.procs.any (fun e => p e.2) || co.parked.any (fun e => p e.proc)
    || co.saved.any (fun v => v.procs.any (fun e => p e.1) || v.records.any r
        || (idKind id == 2 && v.ctx == bits id 0 12))
    || (idKind id == 2 && co.combine.any fun e => e.2.valid && e.2.ctx == bits id 0 12)

/-- Send a cancel to every core that holds something of it. -/
def State.floodCancel (s : State) (a id : Nat) : State :=
  (s.cores.filter fun e => e.2.holds id).foldl (fun s e => s.send a e.1 0 (.cancel id)) s

/-- Cancel one record (R229, R234): restart records held for it are dropped. -/
def State.cancelOne (s : State) (id : Nat) (r : LaunchRec) : State :=
  let a := launchAgent (idDie id)
  if r.state == 5 || r.state == 4 then s
  else if r.graph then s.setLaunch id { r with cancelled := true, closed := true, state := 4 }
  else if r.state == 1 then s.setLaunch id { r with cancelled := true }
  else
    let s := s.setLaunch id { r with cancelled := true, state := 4 }
    let hits := fun x : Restart => x.item.launch == some id
    let s := [0, 1, 2, 3].foldl (fun s d =>
      let s := ((s.die d).restarts.filter hits).foldl (fun s x =>
        s.report a (some id) { kind := 2, index := x.item.index.toNat, vcore := x.vcore }) s
      s.modDie d fun e => { e with restarts := e.restarts.filter fun x => !hits x }) s
    let s := s.floodCancel a id
    if r.far then s.tellDomain a (.cancel id) else s

/-- Cancel a record together with all its descendants (R234). -/
def State.cancelTree (s : State) (id : Nat) : State :=
  (s.launches.filter fun e => s.under id 40 e.1).foldl (fun s e =>
    match s.launchRec e.1 with
    | some r => s.cancelOne e.1 r
    | none => s) s

/-- Cancel a job (R237): every launch and graph of the context, and every process and entry that it holds. -/
def State.cancelJob (s : State) (a ctx : Nat) : State :=
  let job := 2 ^ 47 + s.pkgid.toNat * 2 ^ 36 + ctx
  let s := if s.jobLive ctx then { s with jobs := kset s.jobs ctx (((kget s.jobs ctx).getD 0) ||| 2) } else s
  let s := (s.launches.filter fun e => e.2.ctx == ctx).foldl (fun s e =>
    match s.launchRec e.1 with
    | some r =>
      -- what could not be read on a fenced core leaves the counter uncounted (R390)
      let s := (List.range r.unread).foldl (fun s _ => s.report a (some e.1) { kind := 10 }) s
      let r := { r with unread := 0 }
      (s.setLaunch e.1 r).cancelOne e.1 r
    | none => s) s
  let cut := fun d : Die => { d with restarts := d.restarts.filter fun x : Restart => x.item.ctx.toNat != ctx }
  let s := { s with dies := s.dies.map cut }
  s.floodCancel a job

/-- Cancel a process (R234, R363): it ends at its next instruction boundary; a draft's galley is discarded unless it is being
published. -/
def State.cancelProc (s : State) (c : Nat) (p : Proc) : State :=
  let starting := match (s.core c).slotOf p.uid with
    | some k => (s.slot c k).state == .starting
    | none => false
  let later := s.modCore c fun co => co.modUid p.uid fun p => { p with dying := 1 }
  match p.draft with
  | some d =>
    if d.state == .publishing then s
    else if d.state == .discarding then
      s.modCore c fun co => co.modUid p.uid fun p => { p with draft := some { d with fate := 1 } }
    else if starting || (!p.stoppable && d.state == .opened) then later
    else s.discardDraft c p d 0 1 p.pc 0
  | none => if starting || !p.stoppable then later else s.endProc c p { kind := 2 }

/-- A record that is removed by a cancel counts in NCANCEL (R234). -/
def State.cancelRecord (s : State) (c : Nat) (r : Record) : State :=
  s.report c r.launch { kind := 2, index := r.index.toNat, vcore := s.vcoreOf c }

/-- What a cancel does at a core (R234, R237, R382). -/
def State.cancelAt (s : State) (c id : Nat) : State :=
  let hr := fun r : Record => cancelHits id r.launch r.ctx.toNat
  let co := s.core c
  let s := ((co.queue ++ co.rerun ++ co.saved.flatMap (·.records)).filter hr).foldl (fun s r => s.cancelRecord c r) s
  let gone := (co.saved.flatMap fun v => v.procs.map (·.1)).filter fun p => hr p.record
  let rings := co.saved.flatMap fun v => (v.procs.filter fun e => hr e.1.record).flatMap fun e =>
    e.2.2.map fun r => (e.1.ctx.toNat, r.2)
  let s := s.modCore c fun co =>
    { co with queue := co.queue.filter (fun r => !hr r), rerun := co.rerun.filter (fun r => !hr r),
              saved := (co.saved.filter fun v => !(idKind id == 2 && v.ctx == bits id 0 12)).map fun v =>
                { v with records := v.records.filter (fun r => !hr r), procs := v.procs.filter fun e => !hr e.1.record },
              combine := co.combine.map fun e =>
                (e.1, if idKind id == 2 && e.2.ctx == bits id 0 12 then { e.2 with valid := false, seqs := [], creds := 0 } else e.2) }
  let s := rings.foldl (fun s e => s.letGoRing c e.1 e.2) s
  let s := gone.foldl (fun s p => s.endProc c { p with rings := [] } { kind := 2 }) s
  let ps := ((s.core c).procs.map (·.2)) ++ (s.core c).parked.map (·.proc)
  (ps.filter fun p => hr p.record).foldl (fun s p => s.cancelProc c p) s

/-- The cancel of a launch of another package has come: its processes and records here, its child launches and graphs held here, and
the records that come later, are cancelled (R234). -/
def State.cancelFar (s : State) (a id : Nat) : State :=
  let s := { s with farCancels := if s.farCancels.contains id then s.farCancels else s.farCancels ++ [id] }
  let s := (s.launches.filter fun e => e.2.parent == some id).foldl (fun s e => s.cancelTree e.1) s
  s.floodCancel a id

/-- CANCEL_ARRIVE: the cancel in packet `n` takes effect at its core (R234); one from another package is passed on to the cores
that hold its processes. -/
def execCancelArrive (s : State) : Out :=
  .next (s.onPacket s.ev.n fun s pk =>
    match pk.body with
    | .cancel id => some (if 65536 ≤ pk.src then s.cancelFar pk.dst id else s.cancelAt pk.dst id)
    | _ => none)

/-! ### LWAIT, LCANCEL, LDEP, GRAPH, JCANCEL -/

/-- The wait for a record or job: its word once it is DONE (R233). -/
def State.doneWord (s : State) (id : Nat) : Option Word :=
  if idKind id == 2 then if s.jobLive (bits id 0 12) then none else some (s.jobWord id)
  else match s.launchRec id with
    | some r => if r.state == 5 then some (completionWord r.outcome id) else none
    | none => none

/-- The status with which an identifier of this package is refused to a context, 0 for none (R233, R234). -/
def State.idStatus (s : State) (id ctx : Nat) : Nat :=
  if !idOk id then 2
  else if idKind id == 2 then 0
  else match s.launchRec id with
    | none => 2
    | some r => if r.ctx != ctx then 5 else 0

/-- LWAIT (R233). -/
def execLwait (g : BitVec 4) (q : BitVec 1) (b a d : BitVec 5) (s : State) : Out :=
  let i := Instr.lwait g q b a d
  instr i s (fun _ p => { uses := [ux b, ux a, ux d], guard := p.guardBit g 0 }) fun s c k p =>
    let id := (p.xr a).toNat
    let far := idPkg id != s.pkgid.toNat
    match p.answer with
    | some e => statusAct i e.status (if e.status == 0 then s.setProc c k (p.setX d e.value) else s) c k
    | none =>
      let st := if far then (if idOk id then 0 else 2) else s.idStatus id p.ctx.toNat
      if p.line.contains id then statusAct i 2 s c k
      else if st != 0 then statusAct i st s c k
      else if idKind id == 2 && !p.priv then statusAct i 5 s c k
      else if far then .hold (s.askLaunch c p id 0) (.lwait id)
      else match s.doneWord id with
        | some w => statusAct i 0 (s.setProc c k (p.setX d w)) c k
        | none => .hold s (.lwait id)

/-- LCANCEL (R234); barred in a draft. -/
def execLcancel (g : BitVec 4) (q : BitVec 1) (a d : BitVec 5) (s : State) : Out :=
  let i := Instr.lcancel g q a d
  instr i s (fun _ p => { uses := [ux a, ux d], guard := p.guardBit g 0 }) fun s c k p =>
    let id := (p.xr a).toNat
    if p.isDraft then .barred
    else if !idOk id || idKind id == 2 then statusAct i 2 s c k
    else if idPkg id != s.pkgid.toNat then
      .hold (s.askLaunch c p id 1) .launchAns
    else
      let st := s.idStatus id p.ctx.toNat
      statusAct i st (if st == 0 then s.cancelTree id else s) c k

/-- What LDEP finds out about x[B], or about an x[A] of another package: a status, 0 when it is DONE or may become so before x[A]
wakes, and for one of another package the word of its completion; none when another package must be asked first (R235). -/
def State.depStatus (s : State) (p : Proc) (r : LaunchRec) (ib : Nat) : Option (Nat × Option Word) :=
  match s.launchRec ib with
  | some t =>
    some (if t.ctx != p.ctx.toNat then (5, none)
      else (if t.state == 5 || (t.opener == p.uid && decide (t.born < r.born)) then 0 else 2, none))
  | none =>
    if idPkg ib == s.pkgid.toNat || !idOk ib || idKind ib == 2 then some (2, none)
    else p.answer.map fun e => (e.status, some e.value)

/-- LDEP (R235); barred in a draft. -/
def execLdep (g : BitVec 4) (q : BitVec 1) (b a d : BitVec 5) (s : State) : Out :=
  let i := Instr.ldep g q b a d
  instr i s (fun _ p => { uses := [ux b, ux a, ux d], guard := p.guardBit g 0 }) fun s c k p =>
    let ia := (p.xr a).toNat
    let ib := (p.xr b).toNat
    if p.isDraft then .barred
    else match s.launchRec ia with
      | none =>
        if idPkg ia == s.pkgid.toNat || !idOk ia || idKind ia == 2 then statusAct i 2 s c k
        else match p.answer with
          | some e => statusAct i (if e.status == 5 then 5 else 2) s c k
          | none => .hold (s.askLaunch c p ia 3) (.lwait ia)
      | some r =>
        if r.ctx != p.ctx.toNat then statusAct i 5 s c k
        else
          let mine := match r.member with
            | some m => (match s.launchRec m with | some q => q.opener == p.uid | none => false)
            | none => r.e[1].getLsbD 34
          let ok := !r.graph && r.state == 1 && !r.cancelled && r.opener == p.uid && mine
          if b == 0 then
            if ok && r.member.isNone then statusAct i 0 (s.setLaunch ia { r with held := false }) c k
            else statusAct i 2 s c k
          else match s.depStatus p r ib with
            | none => .hold (s.askLaunch c p ib 3) (.lwait ib)
            | some (st, w) =>
              if st != 0 then statusAct i st s c k
              else if ok && decide (r.deps.length < 8) then
                statusAct i 0 (s.setLaunch ia (match w with
                  | none => { r with deps := r.deps ++ [ib] }
                  | some w => { r with deps := r.deps ++ [spentDep], bad := r.bad || bits w.toNat 56 8 != 0 })) c k
              else statusAct i 2 s c k

/-- GRAPH.open (R236); barred in a draft. -/
def execGraphOpen (g : BitVec 4) (q : BitVec 1) (a d : BitVec 5) (s : State) : Out :=
  let i := Instr.graphOpen g q a d
  instr i s (fun _ p => { uses := [ux a, ux d], guard := p.guardBit g 0 }) fun s c k p =>
    let die := agentDie c
    if p.isDraft then .barred
    else if (s.die die).freePool.isEmpty || decide (16 < p.line.length) then statusAct i 2 s c k
    else
      let (id, s) := s.allocate die true p.line p.ctx.toNat none { core := c, uid := p.uid } (Vector.replicate 8 0) id
      if s.farLaunch p.launch then .hold s .launchAns
      else statusAct i 0 (s.setProc c k (p.setX d (BitVec.ofNat 64 id))) c k

/-- GRAPH.close (R236); barred in a draft. -/
def execGraphClose (g : BitVec 4) (q : BitVec 1) (a d : BitVec 5) (s : State) : Out :=
  let i := Instr.graphClose g q a d
  instr i s (fun _ p => { uses := [ux a, ux d], guard := p.guardBit g 0 }) fun s c k p =>
    let id := (p.xr a).toNat
    if p.isDraft then .barred
    else match s.launchRec id with
      | none => statusAct i 2 s c k
      | some r =>
        if r.ctx != p.ctx.toNat then statusAct i 5 s c k
        else if r.graph && r.opener == p.uid && !r.closed then statusAct i 0 (s.setLaunch id { r with closed := true }) c k
        else statusAct i 2 s c k

/-- JCANCEL (R237); privileged, and barred in a draft. -/
def execJcancel (g : BitVec 4) (q : BitVec 1) (a d : BitVec 5) (s : State) : Out :=
  let i := Instr.jcancel g q a d
  instr i s (fun _ p => { priv := true, uses := [ux a, ux d], guard := p.guardBit g 0 }) fun s c k p =>
    let w := (p.xr a).toNat
    if p.isDraft then .barred
    else if bits w 12 52 != 0 then statusAct i 2 s c k
    else statusAct i 0 (s.cancelJob (launchAgent (agentDie c)) w) c k

/-! ### Answers -/

/-- A launch or graph has been created for the process that waits, or not: x[D] names it only with OK (R227, R236). -/
def State.created (s : State) (who : Who) (st id : Nat) : State :=
  s.resume who.core who.uid fun s k p i =>
    statusAct i st (if st == 0 then
      (match i with
       | .launch _ _ _ d => s.setProc who.core k (p.setX d (BitVec.ofNat 64 id))
       | .graphOpen _ _ _ d => s.setProc who.core k (p.setX d (BitVec.ofNat 64 id))
       | _ => s) else s) who.core k

/-- Another package has told about a launch (R216, R233 to R235). A guard's launch that has become stale was DONE (R216); one whose
package cannot be reached is not heard of. -/
def State.launchTold (s : State) (who : Who) (id st : Nat) (w : Word) : State :=
  if 2 ^ 48 ≤ id then s.altTold who (id - 2 ^ 48) st
  else if who.core == hostUnit then
    { s with rings := s.rings.map fun x => if x.busy && x.asked == some id then { x with told := some st } else x }
  else match s.waitOf who.core who.uid with
    | some .launchAns => s.resumeStatus who.core who.uid st
    | some (.lwait l) =>
      if l == id then
        (s.modCore who.core fun co => co.modUid who.uid fun p =>
          { p with answer := some { status := st, value := w } }).reissue who.core who.uid
      else s
    | some .alt =>
      if st == 1 then s
      else s.modCore who.core fun co => co.modUid who.uid fun p =>
        { p with altDone := ((p.altGuardsOf.filter fun g => g.2.1 == 6 && bits g.2.2.toNat 0 48 == id).map (·.1)) ++ p.altDone }
    | _ => s

/-- The answer to a question of another package (see `Body.launchAsk`): a status, word 0 of the completion and the state after it; none
while the answer is not due. -/
def State.tellOf (s : State) (id ctx mode : Nat) : Option (Nat × Word × State) :=
  let st := if mode == 2 || mode == 4 then bit (s.staleId id) * 2 else s.idStatus id ctx
  if st != 0 || mode == 2 then some (st, 0, s)
  else if mode == 1 then some (0, 0, s.cancelTree id)
  else match s.doneWord id with
    | some w => some (0, w, s)
    | none => if mode == 3 then some (2, 0, s) else none

/-- LAUNCH_ANSWER: packet `n` brings the answer of a launch agent to the slot that waits (R227, R233); a question of another
package is answered here, a wait once its record is DONE; a record or a SPAWN that the launch of another package has counted goes on
(R227, R230); the children of a launch that is DONE there are freed (R232). -/
def execLaunchAnswer (s : State) : Out :=
  .next (s.onPacket s.ev.n fun s pk =>
    match pk.body with
    | .launchAns who st id =>
      match s.waitOf who.core who.uid with
      | some .launchAns => some (s.created who st id)
      | _ => some s
    | .launchTold who id st w => some (s.launchTold who id st w)
    | .launchAsk id ctx mode who =>
      (s.tellOf id ctx mode).map fun r =>
        r.2.2.send pk.dst pk.src 0 (.launchTold who (if mode == 2 then id + 2 ^ 48 else id) r.1 r.2.1)
    | .launchJoined kind child st who =>
      if kind < 2 then some (s.joined child st)
      else match (s.core who.core).find who.uid, s.waitOf who.core who.uid with
        | some p, some .spawnAns =>
          some (if st == 0 then s.sendSpawn who.core p else s.resumeStatus who.core who.uid 1)
        | _, _ => some s
    | .launchDone id => some (({ s with farCancels := s.farCancels.erase id } : State).freeChildren id)
    | _ => none)

end Sys2Proof.Machine
end

