-- ==== Sys2Proof/Machine/Combine.lean ====
section
/-! DEFINITION. Sys2Proof/Machine/Combine.lean: combine groups (R86, R240 to R244): the table entries, sequences, contributions
and results, with the credits between routers. -/

namespace Sys2Proof.Machine

/-! ### Entries (R240) -/

/-- An entry at reset. -/
def Combine.reset : Combine := { valid := false, ctx := 0, base := 0, word := 0, seqs := [], creds := 0 }

def State.group (s : State) (c g : Nat) : Combine := (kget (s.core c).combine g).getD Combine.reset

def State.setGroup (s : State) (c g : Nat) (e : Combine) : State :=
  s.modCore c fun co => { co with combine := kset co.combine g e }

def Combine.xpkg (e : Combine) : Bool := e.word.getLsbD 34
def Combine.lrecv (e : Combine) : Nat := bits e.word.toNat 29 5
def Combine.lsend (e : Combine) : Nat := bits e.word.toNat 24 5
def Combine.mode (e : Combine) : Nat := bits e.word.toNat 22 2
def Combine.wm1 (e : Combine) : Nat := bits e.word.toNat 19 3
def Combine.type (e : Combine) : Nat := bits e.word.toNat 16 3
def Combine.oper (e : Combine) : Nat := bits e.word.toNat 13 3
def Combine.child (e : Combine) : Nat := bits e.word.toNat 4 9
def Combine.parent (e : Combine) : Nat := bits e.word.toNat 0 4

/-- Word 0 of an entry as the management agent reads it (R240). -/
def Combine.word0 (e : Combine) : Word :=
  BitVec.ofNat 64 (bit e.valid * 2 ^ 63 + e.ctx % 2 ^ 12 * 2 ^ 51 + e.base % 2 ^ 8 * 2 ^ 43 + e.seqs.length % 8 * 2 ^ 40)

/-- Does the entry form the result of the tree within a package (R242)? -/
def Combine.root (e : Combine) : Bool := e.parent == 0

/-- The non-local children in port order (R86): north, east, south, west, then the die links. -/
def Combine.kids (e : Combine) : List Nat := [1, 2, 3, 4, 5, 6, 7, 8].filter fun d => e.child / 2 ^ d % 2 == 1

/-- The port of a neighbour that faces port `d`. -/
def facing (d : Nat) : Nat := if d == 1 then 3 else if d == 2 then 4 else if d == 3 then 1 else 2

/-- The vcore next to `v` in direction `d`. -/
def neighbour (v d : Nat) : Option Nat :=
  if d == 1 then (if 64 ≤ v then some (v - 64) else none)
  else if d == 2 then (if v % 64 < 63 then some (v + 1) else none)
  else if d == 3 then (if v / 64 < 61 then some (v + 64) else none)
  else if d == 4 then (if v % 64 == 0 then none else some (v - 1))
  else none

/-- The router next to that of agent `c` in direction `d`. -/
def State.nextRouter (s : State) (c d : Nat) : Option Nat := (neighbour (s.vcoreOf c) d).bind fun v => s.agent v

/-- Traffic between routers, which a fence does not stop (R389). -/
def State.route (s : State) (src dst : Nat) (b : Body) : State :=
  { s with net := s.net ++ [{ src := src, dst := dst, vc := 2, since := s.now, body := b }] }

/-- A router's packet `n` is taken when `f` can take it. -/
def State.onRouted (s : State) (n : Nat) (f : State → Packet → Option State) : State :=
  match s.net[n]? with
  | none => s
  | some p => if s.held p then s else (f (s.drop n) p).getD s

/-! ### Arithmetic (R86) -/

/-- The lane width of a TYPE, and its format when it is a float. -/
def combineType (t : Nat) : Nat × Option Fmt :=
  if t == 0 then (64, some f64) else if t == 1 then (32, some f32) else if t == 2 then (16, some bf16)
  else if t == 3 then (64, none) else (32, none)

/-- One step of the fold on one lane (R86, R240). -/
def combineLane (t oper a b : Nat) : Nat :=
  let w := (combineType t).1
  if oper == 3 then a &&& b else if oper == 4 then a ||| b else if oper == 5 then a ^^^ b
  else match (combineType t).2 with
    | some f =>
      if oper == 1 || oper == 2 then (f.minMax (oper == 2) a b Fp.none).1 else (f.add 0 a b Fp.none).1
    | none =>
      if oper == 1 then (if sInt w b < sInt w a then b else a)
      else if oper == 2 then (if sInt w a < sInt w b then b else a)
      else (a + b) % 2 ^ w

/-- The lanes of a word. -/
def wordLanes (w : Nat) (x : Word) : List Nat := (List.range (64 / w)).map fun i => x.toNat / 2 ^ (w * i) % 2 ^ w

/-- One step of the fold on one word. -/
def combineWord (t oper : Nat) (a b : Word) : Word :=
  let w := (combineType t).1
  BitVec.ofNat 64 (packElements w (List.zipWith (combineLane t oper) (wordLanes w a) (wordLanes w b)))

/-- The fold of contributions in order, word by word. -/
def combineFold (t oper : Nat) : List (List Word) → List Word
  | [] => []
  | x :: xs => xs.foldl (fun acc y => List.zipWith (combineWord t oper) acc y) x

/-- Insert by the key of R86: index, then SELF.GEN; equal keys in order of arrival. -/
def insertLoc (x : Nat × Nat × List Word) : List (Nat × Nat × List Word) → List (Nat × Nat × List Word)
  | [] => [x]
  | y :: ys => if x.2.1 < y.2.1 then x :: y :: ys else y :: insertLoc x ys

/-- A word whose lanes all count 1 (R243). -/
def countWord (t : Nat) : Word :=
  let w := (combineType t).1
  BitVec.ofNat 64 (packElements w ((List.range (64 / w)).map fun _ => 1))

/-- The value of a complete sequence (R86, R242): locals by key, then the children in port order. -/
def Combine.value (e : Combine) (q : Sequence) : List Word :=
  let locs := (q.loc.foldl (fun l x => insertLoc x l) []).map fun x => x.2.2
  let kids := e.kids.filterMap fun d => (q.kids.find? fun k => k.1 == d).map (·.2)
  (combineFold e.type e.oper (locs ++ kids)).take (e.wm1 + 1)

/-! ### Sequences (R242) -/

/-- A sequence with no contribution yet. -/
def Sequence.opened (n : Nat) : Sequence := { seq := n, loc := [], kids := [], sent := false, result := none, taken := [] }

/-- The number of the next sequence to open. -/
def Combine.next (e : Combine) : Nat := (e.base + e.seqs.length) % 256

/-- The entry with sequence `n` open: none when it cannot be open yet. -/
def Combine.openTo (e : Combine) (n : Nat) : Option Combine :=
  if e.seqs.any fun q => q.seq == n then some e
  else if n == e.next && decide (e.seqs.length < 4) then some { e with seqs := e.seqs ++ [Sequence.opened n] }
  else none

/-- Change sequence `n`. -/
def Combine.modSeq (e : Combine) (n : Nat) (f : Sequence → Sequence) : Combine :=
  { e with seqs := e.seqs.map fun q => if q.seq == n then f q else q }

/-- Have all contributions of a sequence arrived (R242)? In mode 2 a root waits for its local one alone. -/
def Combine.complete (e : Combine) (q : Sequence) : Bool :=
  decide (e.lsend ≤ q.loc.length) && (e.mode == 2 || e.kids.all fun d => q.kids.any fun k => k.1 == d)

/-- Does the entry send values up, and does it wait for a result (R242)? -/
def Combine.sendsUp (e : Combine) : Bool := !e.root && (e.mode != 2 || e.lsend != 0)
def Combine.hasResult (e : Combine) : Bool := e.root || e.mode != 0 || decide (5 ≤ e.parent)

/-- Is a sequence done (R242)? -/
def Combine.done (e : Combine) (q : Sequence) : Bool :=
  (q.sent || !(e.root || e.sendsUp)) && (!e.hasResult || (q.result.isSome && decide (e.lrecv ≤ q.taken.length)))

/-- BASE advances past the freed sequences at the head: the entry, and how many it freed. -/
def Combine.advance : Nat → Combine → Combine × Nat
  | 0, e => (e, 0)
  | n + 1, e =>
    match e.seqs with
    | [] => (e, 0)
    | q :: qs =>
      if e.done q then
        let (e', k) := Combine.advance n { e with seqs := qs, base := (e.base + 1) % 256 }
        (e', k + 1)
      else (e, 0)

/-- Give `n` credits to every non-local child of an entry that sends values up (R242). -/
def State.creditKids (s : State) (c g n : Nat) (e : Combine) : State :=
  if e.mode == 2 then s
  else e.kids.foldl (fun s d =>
    match s.nextRouter c d with
    | some k => (List.range n).foldl (fun s _ => s.route c k (.combineCred g (facing d))) s
    | none => s) s

/-- Write an entry whose freed sequences leave (R242). -/
def State.putGroup (s : State) (c g : Nat) (e : Combine) : State :=
  let (e, n) := Combine.advance 4 e
  (s.setGroup c g e).creditKids c g n e

/-- A result reaches a router: it waits for local receivers and goes down (R242). -/
def State.groupResult (s : State) (c g n : Nat) (e : Combine) (words : List Word) (status : Nat) : State :=
  let e := e.modSeq n fun q => { q with result := some (words, status) }
  let s := s.putGroup c g e
  if e.mode == 0 then s
  else e.kids.foldl (fun s d =>
    match s.nextRouter c d with
    | some k => s.route c k (.combineRes g n words status)
    | none => s) s

/-! ### GSEND and GRECV (R243, R244) -/

/-- The sequence into which a process's next contribution goes: an open one, or a new one. -/
def Combine.sendSlot (e : Combine) (uid : Nat) : Option Nat :=
  match e.seqs.find? fun q => decide (q.loc.length < e.lsend) && !q.loc.any fun l => l.1 == uid with
  | some q => some q.seq
  | none => if e.seqs.length < 4 then some e.next else none

/-- The sequence whose result a process takes next. -/
def Combine.recvSlot (e : Combine) (uid : Nat) : Option Sequence :=
  e.seqs.find? fun q => q.result.isSome && decide (q.taken.length < e.lrecv) && !q.taken.contains uid

/-- May a process that waits in GSEND or GRECV go on? -/
def State.groupReady (s : State) (c g uid : Nat) (send : Bool) : Bool :=
  let e := s.group c g
  !e.valid || (if send then (e.sendSlot uid).isSome else (e.recvSlot uid).isSome)

/-- The number of vector registers of a group (R243). -/
def Combine.regs (e : Combine) : Nat := e.wm1 / 4 + 1

/-- The status checks of GSEND and GRECV (R243, R244): `count` is LSEND or LRECV, `r` the vector register. -/
def groupStatus (p : Proc) (e : Combine) (count : Nat) (r : Option (BitVec 5)) : Nat :=
  if !e.valid then 4
  else if e.ctx != p.ctx.toNat then 5
  else if count == 0 then 2
  else match r with
    | none => if e.wm1 != 0 then 2 else 0
    | some r => if 32 < r.toNat + e.regs || p.vregs < r.toNat + e.regs then 2 else 0

/-- GSEND of words (R243). -/
def gsendBody (i : Instr) (g : Nat) (r : Option (BitVec 5)) (words : Combine → Proc → List Word) (s : State) (c k : Nat)
    (p : Proc) : Act :=
  let e := s.group c g
  let st := groupStatus p e e.lsend r
  if p.isDraft then .barred
  else if st != 0 then statusAct i st s c k
  else if !p.released e.xpkg then .hold s (.release e.xpkg)
  else match e.sendSlot p.uid with
    | none => .hold s (.gsend g)
    | some n =>
      match e.openTo n with
      | none => .hold s (.gsend g)
      | some e =>
        let ws := if e.oper == 6 then (List.range (e.wm1 + 1)).map fun _ => countWord e.type else words e p
        let key := p.index.toNat * 256 + p.gen.toNat
        statusAct i 0 (s.putGroup c g (e.modSeq n fun q => { q with loc := q.loc ++ [(p.uid, key, ws)] })) c k

/-- The words of a register group (R243). -/
def groupWords (e : Combine) (p : Proc) (a : BitVec 5) : List Word :=
  ((List.range e.regs).flatMap fun j => vwords (p.vr (a + BitVec.ofNat 5 j))).take (e.wm1 + 1)

/-- GSEND of a scalar (R243). -/
def execGsendScalar (g : BitVec 4) (q : BitVec 1) (p : BitVec 6) (a d : BitVec 5) (s : State) : Out :=
  let i := Instr.gsendScalar g q p a d
  instr i s (fun _ pr => { uses := [(5, p.toNat), ux a, ux d], guard := pr.guardBit g 0 }) fun s c k pr =>
    gsendBody i p.toNat none (fun _ pr => [pr.xr a]) s c k pr

/-- GSEND of a vector group (R243). -/
def execGsendVector (g : BitVec 4) (q : BitVec 1) (p : BitVec 6) (a d : BitVec 5) (s : State) : Out :=
  let i := Instr.gsendVector g q p a d
  instr i s (fun _ pr => { uses := [(5, p.toNat), uv a, ux d], guard := pr.guardBit g 0 }) fun s c k pr =>
    gsendBody i p.toNat (some a) (fun e pr => groupWords e pr a) s c k pr

/-- GRECV: take the oldest result (R244). An entry cleared meanwhile gives CANCELLED (R241). -/
def grecvBody (i : Instr) (g : Nat) (r : Option (BitVec 5)) (f : Combine → Proc → List Word → Proc) (s : State) (c k : Nat)
    (p : Proc) : Act :=
  match p.answer with
  | some a => statusAct i a.status s c k
  | none =>
    let e := s.group c g
    let st := groupStatus p e e.lrecv r
    if st != 0 then statusAct i st s c k
    else match e.recvSlot p.uid with
      | none => .hold s (.grecv g)
      | some q =>
        match q.result with
        | none => .hold s (.grecv g)
        | some (ws, st) =>
          let s := s.putGroup c g (e.modSeq q.seq fun q => { q with taken := p.uid :: q.taken })
          match statusAct i st s c k with
          | .go _ => statusAct i st (s.setProc c k (f e p ws)) c k
          | a => a

/-- The words of a result in a register group, zero above WM1 (R244). -/
def putGroupWords (e : Combine) (p : Proc) (d : BitVec 5) (ws : List Word) : Proc :=
  (List.range e.regs).foldl (fun p j =>
    p.setV (d + BitVec.ofNat 5 j) (ofLanes 64 ((List.range 4).map fun i => (ws[4 * j + i]?.getD 0).toNat))) p

/-- GRECV of a scalar (R244). -/
def execGrecvScalar (g : BitVec 4) (q : BitVec 1) (p : BitVec 6) (a d : BitVec 5) (s : State) : Out :=
  let i := Instr.grecvScalar g q p a d
  instr i s (fun _ pr => { uses := [(5, p.toNat), ux a, ux d], guard := pr.guardBit g 0 }) fun s c k pr =>
    grecvBody i p.toNat none (fun _ pr ws => pr.setX d (ws.headD 0)) s c k pr

/-- GRECV of a vector group (R244). -/
def execGrecvVector (g : BitVec 4) (q : BitVec 1) (p : BitVec 6) (a d : BitVec 5) (s : State) : Out :=
  let i := Instr.grecvVector g q p a d
  instr i s (fun _ pr => { uses := [(5, p.toNat), ux a, uv d], guard := pr.guardBit g 0 }) fun s c k pr =>
    grecvBody i p.toNat (some d) (fun e pr ws => putGroupWords e pr d ws) s c k pr

/-! ### Between routers (R242, R428) -/

/-- COMBINE_CONTRIBUTION_ARRIVE: packet `n` brings a child's value, which waits while its sequence cannot be open (R242). -/
def execCombineContributionArrive (s : State) : Out :=
  .next (s.onRouted s.ev.n fun s pk =>
    match pk.body with
    | .combine g dir n words =>
      let e := s.group pk.dst g
      if !e.valid || !e.kids.contains dir then none
      else (e.openTo n).map fun e =>
        s.putGroup pk.dst g (e.modSeq n fun q => { q with kids := q.kids ++ [(dir, words)] })
    | _ => none)

/-- The reduction entry that takes a root's contributions (R428): one of the I/O die that serves the compute die of the
router. -/
def State.reductionFor (s : State) (v g : Nat) (e : Combine) : Option (Nat × Reduction) :=
  s.reductions.find? fun r =>
    r.1 / 256 == dieOf v / 2 && r.2.w0.getLsbD 63 && bits r.2.w0.toNat 51 12 == e.ctx && bits r.2.w0.toNat 38 13 == v
      && bits r.2.w0.toNat 36 2 + 5 == e.parent && bits r.2.w0.toNat 30 6 == g

/-- Count a contribution that came after its sequence had closed (R428, R429). -/
def State.countLate (s : State) (i : Nat) (r : Reduction) : State :=
  let r := { r with w2 := BitVec.ofNat 64 (r.w2.toNat / 2 ^ 32 * 2 ^ 32 + min (r.w2.toNat % 2 ^ 32 + 1) (2 ^ 32 - 1)) }
  { s with reductions := kset s.reductions i r }

/-- The oldest sequence of an entry that is complete and not yet sent, after which every later one waits. -/
def Combine.ready (e : Combine) : Option Sequence :=
  match e.seqs.find? fun q => !q.sent with
  | some q => if (e.root || e.sendsUp) && e.complete q then some q else none
  | none => none

/-- COMBINE_SEQUENCE: group `n` of the router of core `c` combines its oldest complete sequence: a root forms the result, another
router sends the value up against a credit, and a package's root sends it to the switches (R86, R242, R428, R429). -/
def execCombineSequence (s : State) : Out :=
  let c := s.ev.c
  let g := s.ev.n
  let e := s.group c g
  if !e.valid then .next s
  else match e.ready with
    | none => .next s
    | some q =>
      let ws := e.value q
      let sent := e.modSeq q.seq fun q => { q with sent := true }
      if e.root then .next (s.groupResult c g q.seq sent ws 0)
      else if 5 ≤ e.parent then
        -- A paused bridge to the I/O die holds the contribution (R421).
        if !((s.bridges[4 + agentDie c]?).getD Bridge.reset).carries then .next s
        else match s.reductionFor (s.vcoreOf c) g e with
        | none => .next s
        | some (i, r) =>
          if q.result.isSome then .next ((s.countLate i r).putGroup c g sent)
          else .next ((s.route c ioUnit (.contribution (bits r.w0.toNat 0 16) (bits r.w0.toNat 20 10) q.seq ws)).putGroup c g sent)
      else if e.creds == 0 then .next s
      else match s.nextRouter c e.parent with
        | none => .next s
        | some up =>
          .next ((s.route c up (.combine g (facing e.parent) q.seq ws)).putGroup c g { sent with creds := sent.creds - 1 })

/-- COMBINE_RESULT_ARRIVE: packet `n` brings a result down (R242). -/
def execCombineResultArrive (s : State) : Out :=
  .next (s.onRouted s.ev.n fun s pk =>
    match pk.body with
    | .combineRes g n words status =>
      let e := s.group pk.dst g
      if !e.valid then none
      else (e.openTo n).map fun e => s.groupResult pk.dst g n e words status
    | _ => none)

/-- COMBINE_CREDIT_ARRIVE: packet `n` is a credit of the parent; it waits for an entry whose PARENT lies that way (R242). -/
def execCombineCreditArrive (s : State) : Out :=
  .next (s.onRouted s.ev.n fun s pk =>
    match pk.body with
    | .combineCred g dir =>
      let e := s.group pk.dst g
      if !e.valid || e.parent != dir then none else some (s.setGroup pk.dst g { e with creds := e.creds + 1 })
    | _ => none)

/-! ### GCFG gN (R241) -/

/-- Is word 1 of a configuration block acceptable (R241)? A root is an entry whose PARENT is 0 or a die link, which R240 and R428 call
the root of its package's tree (log entry 52). -/
def groupWordOk (w : Nat) : Bool :=
  let parent := bits w 0 4
  let child := bits w 4 9
  let oper := bits w 13 3
  let type := bits w 16 3
  let mode := bits w 22 2
  let lsend := bits w 24 5
  let lrecv := bits w 29 5
  let root := parent == 0 || decide (5 ≤ parent)
  bits w 35 29 == 0 && decide (parent ≤ 8) && decide (type ≤ 4) && oper != 7
    && (parent == 0 || child / 2 ^ parent % 2 == 0)
    && !(decide (3 ≤ oper) && decide (oper ≤ 6) && decide (type ≤ 2))
    && (mode != 3 || (oper == 6 && bits w 19 3 == 0))
    && (mode != 2 || lsend == bit root)
    && (mode != 0 || root || lrecv == 0)
    && decide (lsend ≤ 16) && decide (lrecv ≤ 16)

/-- Processes that wait in GRECV on a cleared entry return CANCELLED (R241). -/
def State.cancelReceivers (s : State) (c g : Nat) : State :=
  let co := s.core c
  let ps := ((co.procs.map (·.2)) ++ co.parked.map (·.proc)).filter fun p =>
    match p.wait with | some w => w.kind == .grecv g | none => false
  ps.foldl (fun s p =>
    (s.modCore c fun co => co.modUid p.uid fun p => { p with answer := some { status := 8, value := 0 } }).reissue c p.uid) s

/-- Credits between an entry and its neighbours end with its configuration: those it holds wait again for an entry of its
place, and those that it has given are void (R242). -/
def State.clearCredits (s : State) (c g : Nat) (e : Combine) : State :=
  let keep := fun p : Packet => match p.body with
    | .combineCred h _ => !(h == g && p.src == c)
    | _ => true
  let s := { s with net := s.net.filter keep }
  let s := if e.mode == 2 then s else e.kids.foldl (fun s d =>
    match s.nextRouter c d with
    | some k =>
      let f := s.group k g
      if f.valid && f.parent == facing d then s.setGroup k g { f with creds := 0 } else s
    | none => s) s
  match s.nextRouter c e.parent with
  | some up => (List.range e.creds).foldl (fun s _ => s.route up c (.combineCred g e.parent)) s
  | none => s

/-- Write or clear an entry (R241). -/
def State.configGroup (s : State) (c g ctx : Nat) (w : Word) : State :=
  let old := s.group c g
  let s := if old.valid then s.clearCredits c g old else s
  if w == 0 then (s.setGroup c g Combine.reset).cancelReceivers c g
  else
    let e : Combine := { valid := true, ctx := ctx, base := 0, word := w, seqs := [], creds := 0 }
    (s.setGroup c g e).creditKids c g 4 e

/-- The status of a kind 0 block (R241). -/
def State.groupConfigStatus (s : State) (g ctx : Nat) (ws : List Word) : Nat :=
  let w0 := (ws.headD 0).toNat
  let w1 := ws[1]?.getD 0
  match s.agent (bits w0 0 13) with
  | none => 2
  | some c =>
    if bits w0 13 51 != 0 || 3968 ≤ bits w0 0 13 then 2
    else
      let e := s.group c g
      if e.valid && e.ctx != ctx then 5
      else if !e.seqs.isEmpty || (ws.drop 2).any (fun w => w != 0) || !(w1 == 0 || groupWordOk w1.toNat) then 2
      else 0

/-- The configuration block of GCFG, read under LocalCheck (R112, R118, R241). -/
def blockInstr (i : Instr) (g : BitVec 4) (u : Use) (a : BitVec 5) (f : State → Nat → Nat → Proc → List Word → Act)
    (s : State) : Out :=
  instr i s (fun _ p => { uses := [u, ux a], guard := p.guardBit g 0 }) fun s c k p =>
    if p.isDraft then .barred
    else match s.localCheck c p (p.xr a) 64 64 true true with
      | .bad cause => .trap cause (p.xr a)
      | .remote => .trap 4 (p.xr a)
      | .own off =>
        match (s.core c).ownedIn off 64 with
        | some gr => s.waitGranule c k p 2 false gr none
        | none => f s c k p (bytesWords (s.localBytes c off 64) 8)

/-- GCFG gN (R241). -/
def execGcfg (g : BitVec 4) (p : BitVec 6) (a : BitVec 5) (s : State) : Out :=
  let i := Instr.gcfg g p a
  blockInstr i g (5, p.toNat) a (fun s c k pr ws =>
    let st := s.groupConfigStatus p.toNat pr.ctx.toNat ws
    if st != 0 then statusAct i st s c k
    else match s.agent (bits (ws.headD 0).toNat 0 13) with
      | some t => statusAct i 0 (s.configGroup t p.toNat pr.ctx.toNat (ws[1]?.getD 0)) c k
      | none => statusAct i 2 s c k) s

end Sys2Proof.Machine
end

