-- ==== Sys2Proof/Machine/DispatchPorts.lean ====
section
/-! DEFINITION. Sys2Proof/Machine/DispatchPorts.lean: dispatch senders and sinks (R245 to R250): GCFG chN, DSEND, DSTAT, claims,
rows and spills. -/

namespace Sys2Proof.Machine

/-! ### GCFG chN (R245) -/

/-- A sender with all counts zero. -/
def Dispatch.sender (policy : Nat) (dests : List Word) (spbase : Word) (scap : Nat) : Dispatch :=
  { sink := false, policy := policy, dests := dests, spbase := spbase, scap := scap, sent := dests.map fun _ => 0,
    free := dests.map fun _ => 0, reroutes := 0, drops := 0, spills := 0, cap := 0, base := 0, granted := 0, passed := 0,
    written := [] }

/-- A sink with no slot granted. -/
def Dispatch.sinkOf (cap base : Nat) : Dispatch :=
  { sink := true, policy := 0, dests := [], spbase := 0, scap := 0, sent := [], free := [], reroutes := 0, drops := 0,
    spills := 0, cap := cap, base := base, granted := 0, passed := 0, written := [] }

/-- Is a kind 1 block acceptable (R245)? -/
def senderOk (ws : List Word) (wsize : Nat) : Bool :=
  let w := fun i => (ws[i]?.getD 0).toNat
  let policy := bits (w 1) 26 2
  bits (w 0) 0 60 == 0 && bits (w 1) 28 36 == 0 && policy != 3 && bits (w 1) 0 18 % 8 == 0
    && decide (bits (w 1) 0 18 + 8 * (bits (w 1) 18 8 + 1) ≤ wsize)
    && bits (w 3) 32 32 == 0 && (ws.drop 4).all (fun x => x == 0)
    && (if policy == 2 then w 2 % 128 == 0 && bits (w 2) 63 1 == 0 else w 2 == 0 && w 3 == 0)

/-- Is a kind 2 block acceptable (R245)? -/
def sinkOk (ws : List Word) (wsize : Nat) : Bool :=
  let w := fun i => (ws[i]?.getD 0).toNat
  let cap := bits (w 1) 18 12
  let base := bits (w 1) 0 18
  bits (w 0) 0 60 == 0 && bits (w 1) 30 34 == 0 && decide (1 ≤ cap) && decide (cap ≤ 2688) && base % 64 == 0
    && decide (base + 64 * cap ≤ wsize) && (ws.drop 2).all (fun x => x == 0)

/-- GCFG chN (R245). -/
def execGcfgPort (g : BitVec 4) (p : BitVec 6) (a : BitVec 5) (s : State) : Out :=
  let i := Instr.gcfgPort g p a
  blockInstr i g (4, p.toNat) a (fun s c k pr ws =>
    let w := fun i => (ws[i]?.getD 0).toNat
    match s.procPort c pr p.toNat with
    | none => statusAct i 2 s c k
    | some (q, po) =>
      if po.state != 0 then statusAct i 2 s c k
      else if bits (w 0) 60 4 == 1 && senderOk ws pr.wsize then
        let off := pr.wbase + bits (w 1) 0 18
        let n := bits (w 1) 18 8 + 1
        match (s.core c).ownedIn off (8 * n) with
        | some gr => s.waitGranule c k pr 2 false gr none
        | none =>
          let dests := bytesWords (s.localBytes c off (8 * n)) n
          let d := Dispatch.sender (bits (w 1) 26 2) dests (ws[2]?.getD 0) (w 3)
          statusAct i 0 (s.setPort c q { Port.closed po.owner with state := 1, type := 3, seq := po.seq, disp := some d }) c k
      else if bits (w 0) 60 4 == 2 && sinkOk ws pr.wsize then
        let d := Dispatch.sinkOf (bits (w 1) 18 12) (bits (w 1) 0 18)
        statusAct i 0 (s.setPort c q { Port.closed po.owner with state := 1, type := 3, buffered := true, seq := po.seq,
                                                                 disp := some d }) c k
      else statusAct i 2 s c k) s

/-! ### DSEND (R248) -/

/-- Answers of a DSEND in progress: the row is held, or it is to be spilled. -/
def rowHeld : Nat := 512
def rowSpill : Nat := 513

/-- Does a handle name another core or package (R354)? -/
def State.handleAway (s : State) (p : Proc) (h : Word) : Bool :=
  !(hPkg h == s.pkgid.toNat && hVcore h == p.vcore.toNat)

/-- The sender of a process port (R248). -/
def Port.sender (po : Port) : Option Dispatch := po.disp.bind fun d => if d.sink then none else some d

/-- Send a claim for a row (R248). -/
def State.claimDest (s : State) (c : Nat) (p : Proc) (q : Nat) (d : Dispatch) (n : Nat) (second : Bool) : Act :=
  let h := d.dests[n]?.getD 0
  if p.isDraft && s.handleAway p h then .barred
  else .hold (s.sendTo c (s.handleDest h) 0 (.claimRow h (s.handle p q 3) { core := c, uid := p.uid })) (.claim n second)

/-- The 128 bytes of a spill entry (R248). -/
def spillBytes (row : List Byte) (key : Nat) : List Byte :=
  row ++ [BitVec.ofNat 8 key] ++ List.replicate 63 0

/-- The job name under which a process waits for its spill. -/
def spillJob (c uid : Nat) : Job := { core := c, id := noUid + uid }

/-- Change the dispatch state of a core port. -/
def State.modDisp (s : State) (c q : Nat) (f : Dispatch → Dispatch) : State :=
  match s.port c q with
  | some po => s.setPort c q { po with disp := po.disp.map f }
  | none => s

/-- Write the spill entry of a held row (R248): a draft's goes to its galley (R351). -/
def State.spillRow (s : State) (c k : Nat) (p : Proc) (i : Instr) (d : Dispatch) (e : Answer) : Act :=
  let va := d.spbase + BitVec.ofNat 64 (128 * d.spills)
  let s := s.setProc c k { p with answer := some { e with status := rowSpill } }
  s.request c k { p with answer := some { e with status := rowSpill } } i va needW 1 fun r s =>
    if p.isDraft && r.ap != 0 then .barred
    else
      let data := spillBytes e.row e.value.toNat
      let job := spillJob c p.uid
      let s := if p.isDraft then s.modCore c fun co => co.modUid p.uid fun q => q.noteHome (homeOf r.pa) else s
      .hold (if p.isDraft then s.send c (homeOf r.pa) 1 (.galley r p.tag data { core := c, uid := p.uid } 1 job 0)
        else s.sendHome c r (.copyWrite job 0 data (.mem r))) .spill

/-- DSEND (R248). The row is read once, at issue, and kept while the release wait lasts. -/
def execDsend (g : BitVec 4) (q : BitVec 1) (p : BitVec 6) (a d : BitVec 5) (s : State) : Out :=
  let i := Instr.dsend g q p a d
  portInstr i g p [ux a, ux d] (fun s c k pr cp po =>
    let key := (pr.xr d).toNat
    if po.state == 0 then statusAct i 4 s c k
    else match po.sender with
      | none => statusAct i 2 s c k
      | some e =>
        match pr.answer.filter fun x => x.status == rowSpill with
        | some x => s.spillRow c k pr i e x
        | none =>
          if e.dests.length ≤ key then statusAct i 2 s c k
          else if pr.isDraft && s.handleAway pr (e.dests[key]?.getD 0) then .barred
          else match s.localCheck c pr (pr.xr a) 64 64 true true with
            | .bad cause => .trap cause (pr.xr a)
            | .remote => .trap 4 (pr.xr a)
            | .own off =>
              match (s.core c).ownedIn off 64, pr.answer with
              | some gr, none => s.waitGranule c k pr 2 false gr none
              | _, _ =>
                let row := match pr.answer.filter fun x => x.status == rowHeld with
                  | some x => x.row
                  | none => s.localBytes c off 64
                let pr := { pr with answer := some { status := rowHeld, value := BitVec.ofNat 64 key, row := row } }
                let s := s.setProc c k pr
                let sys := hPkg (e.dests[key]?.getD 0) != s.pkgid.toNat
                if !pr.released sys then .hold s (.release sys) else s.claimDest c pr cp e key false) s

/-- The process port of a waiting DSEND. -/
def dsendPort : Instr → Nat
  | .dsend _ _ p _ _ => p.toNat
  | _ => 0

/-- One element of a list of counts changed. -/
def bump (n : Nat) (f : Nat → Nat) (l : List Nat) : List Nat := l.modify n f

/-- A row is dropped (R248). -/
def State.dropRow (s : State) (c k q : Nat) (i : Instr) : Act :=
  statusAct i 6 (s.modDisp c q fun d => { d with drops := min (d.drops + 1) (2 ^ 32 - 1) }) c k

/-- A sink has refused a claim with FULL: the POLICY decides (R248). -/
def State.fullAnswer (s : State) (c k : Nat) (p : Proc) (i : Instr) (q : Nat) (d : Dispatch) (second : Bool) : Act :=
  if second || d.policy == 0 then s.dropRow c k q i
  else if d.policy == 1 then
    let n := bits (p.er 0).toNat 0 8
    if d.dests.length ≤ n then statusAct i 2 s c k else s.claimDest c p q d n true
  else if d.scap ≤ d.spills then s.dropRow c k q i
  else match p.answer with
    | some e => s.spillRow c k p i d e
    | none => s.dropRow c k q i

/-- A row has been written at its sink (R248). -/
def State.rowDone (s : State) (c k q n : Nat) (second : Bool) (i : Instr) : Act :=
  statusAct i 0 (s.modDisp c q fun d =>
    { d with sent := bump n (fun m => min (m + 1) (2 ^ 32 - 1)) d.sent,
             reroutes := if second then min (d.reroutes + 1) (2 ^ 32 - 1) else d.reroutes }) c k

/-- A spill has been written, or has failed with a status (R248): a refusal through APERTURE 3 leaves a record (R464), and a full galley
store sets STFULL (R352). -/
def State.spillDone (s : State) (c uid st : Nat) : State :=
  s.resume c uid fun s k p i =>
    match s.procPort c p (dsendPort i) with
    | none => statusAct i st s c k
    | some (q, po) =>
      if st == 0 || st == 2 then
        let p := if st == 2 then { p with draft := p.draft.map fun d => { d with stfull := true } } else p
        statusAct i 0 ((s.setProc c k p).modDisp c q fun d => { d with spills := d.spills + 1 }) c k
      else
        let va := (po.disp.map fun d => d.spbase + BitVec.ofNat 64 (128 * d.spills)).getD 0
        statusAct i st (s.refusal p.ctx.toNat (if st == 7 then 0x15 else 0x14) st (s.selfWord k p) va 0) c k

/-! ### At the sink (R246) -/

/-- The status of a claim at the port that a handle names (R203, R246). -/
def State.sinkCheck (s : State) (c : Nat) (target sender : Word) : Nat :=
  match s.port c (hPort target), (s.core c).owner (hPort target) with
  | some po, some p =>
    if p.gen.toNat != hGen target then 1
    else if p.ctx.toNat != hCtx sender then 5
    else if po.state == 0 then 4
    else match po.disp with
      | some d => if d.sink then 0 else 2
      | none => 2
  | _, _ => 1

/-- DISPATCH_CLAIM_ARRIVE: packet `n` claims a slot of a sink (R246). -/
def execDispatchClaimArrive (s : State) : Out :=
  .next (s.onPacket s.ev.n fun s pk =>
    match pk.body with
    | .claimRow target sender who =>
      let c := pk.dst
      let st := s.sinkCheck c target sender
      if st != 0 then some (s.send c pk.src 0 (.claimAns who 2 st 0))
      else match (s.port c (hPort target)).bind (·.disp) with
        | none => some (s.send c pk.src 0 (.claimAns who 2 2 0))
        | some d =>
          if d.cap ≤ d.granted then some (s.send c pk.src 0 (.claimAns who 1 0 0))
          else
            let s := s.modDisp c (hPort target) fun d => { d with granted := d.granted + 1 }
            some (s.send c pk.src 0 (.claimAns who 0 d.granted (d.cap - d.granted - 1)))
    | _ => none)

/-- DISPATCH_CLAIM_ANSWER: packet `n` brings the sink's answer, or the acknowledgement of a written row (R248). -/
def execDispatchClaimAnswer (s : State) : Out :=
  .next (s.onPacket s.ev.n fun s pk =>
    match pk.body with
    | .claimAns who kind slot free =>
      match s.waitOf who.core who.uid with
      | some (.claim n second) =>
        some (s.resume who.core who.uid fun s k p i =>
          let c := who.core
          match s.procPort c p (dsendPort i) with
          | none => statusAct i 1 s c k
          | some (q, po) =>
            if kind == 2 then statusAct i slot s c k
            else
              let s := s.modDisp c q fun d => { d with free := d.free.modify n fun _ => free }
              match po.sender with
              | none => statusAct i 2 s c k
              | some d =>
                if kind == 1 then s.fullAnswer c k p i q d second
                else
                  let h := d.dests[n]?.getD 0
                  let row := (p.answer.map (·.row)).getD []
                  .hold (s.sendTo c (s.handleDest h) 3 (.row h (s.handle p q 3) slot row who)) (.row n second))
      | some (.row n second) =>
        if kind != 3 then some s
        else some (s.resume who.core who.uid fun s k p i =>
          let c := who.core
          match s.procPort c p (dsendPort i) with
          | none => statusAct i slot s c k
          | some (q, _) => if slot != 0 then statusAct i slot s c k else s.rowDone c k q n second i)
      | _ => some s
    | _ => none)

/-- DISPATCH_ROW_ARRIVE: packet `n` is written into its slot, its four granules are set full, and it is acknowledged (R246). A
granule that an engine owns delays it (R118), and so does a save of the sink's process, whose window is not there (R377). -/
def execDispatchRowArrive (s : State) : Out :=
  .next (s.onPacket s.ev.n fun s pk =>
    match pk.body with
    | .row target sender slot data who =>
      let c := pk.dst
      let st := s.sinkCheck c target sender
      if st != 0 then some (s.send c pk.src 2 (.claimAns who 3 st 0))
      else match (s.port c (hPort target)).bind (·.disp), (s.core c).owner (hPort target) with
        | some d, some p =>
          let off := p.wbase + d.base + 64 * slot
          if ((s.core c).ownedIn off 64).isSome || (s.core c).isSaved p.uid then none
          else
            let s := s.tileWrite c off data
            let s := s.modDisp c (hPort target) fun d => { d with written := insertNat slot d.written }
            some (s.send c pk.src 2 (.claimAns who 3 0 0))
        | _, _ => some (s.send c pk.src 2 (.claimAns who 3 1 0))
    | _ => none)

/-! ### DSTAT (R249) -/

/-- The word of a selector (R249). -/
def Dispatch.stat (d : Dispatch) (sel : Nat) : Nat :=
  if d.sink then
    if sel == 0x102 then d.passed % 2 ^ 12 * 2 ^ 12 + d.granted % 2 ^ 12 else 0
  else if sel < 256 then min (d.free[sel]?.getD 0) 0xFFFF * 2 ^ 32 + (d.sent[sel]?.getD 0) % 2 ^ 32
  else if sel == 0x100 then d.reroutes % 2 ^ 32 * 2 ^ 32 + d.drops % 2 ^ 32
  else if sel == 0x101 then d.spills % 2 ^ 32
  else 0

/-- DSTAT (R249). -/
def execDstat (g : BitVec 4) (p : BitVec 6) (a d : BitVec 5) (s : State) : Out :=
  portInstr (.dstat g p a d) g p [ux a, ux d] (fun s c k pr _ po =>
    .go (s.setProc c k (pr.setX d (BitVec.ofNat 64 (match po.disp with
      | some e => e.stat (pr.xr a).toNat
      | none => 0))))) s

end Sys2Proof.Machine
end

