-- ==== Sys2Proof/Machine/Engines.lean ====
section
/-! DEFINITION. Sys2Proof/Machine/Engines.lean: copy engines, trigger counters and transaction barriers (R316 to R342). The copy
status of an acknowledgement: below 32 it concerns the source, below 64 the destination; from 64 up it is a fault of a resent
unit's walk (64, or 96 for the destination, plus twice the kind, plus RAP). -/

namespace Sys2Proof.Machine

/-! ### Descriptors (R317, R318) -/

/-! Fields of R317. -/

def Desc.n0 (d : Desc) : Nat := bits d[2].toNat 0 32
def Desc.n1 (d : Desc) : Nat := bits d[2].toNat 32 16
def Desc.n2 (d : Desc) : Nat := bits d[2].toNat 48 16
def Desc.ss1 (d : Desc) : Int := sInt 32 (bits d[3].toNat 0 32)
def Desc.ss2 (d : Desc) : Int := sInt 32 (bits d[3].toNat 32 32)
def Desc.ds1 (d : Desc) : Int := sInt 32 (bits d[4].toNat 0 32)
def Desc.ds2 (d : Desc) : Int := sInt 32 (bits d[4].toNat 32 32)
def Desc.inc (d : Desc) : Half := BitVec.ofNat 32 (bits d[5].toNat 32 32)
def Desc.ctr (d : Desc) : Bool := d[5].getLsbD 31
def Desc.ck (d : Desc) : Nat := bits d[5].toNat 27 4
def Desc.tbv (d : Desc) : Bool := d[5].getLsbD 26
def Desc.tbn (d : Desc) : Nat := bits d[5].toNat 23 3
def Desc.toRing (d : Desc) : Bool := d[5].getLsbD 22
def Desc.es (d : Desc) : Nat := 2 ^ bits d[5].toNat 19 3
def Desc.tbnx (d : Desc) : Bool := d[5].getLsbD 18

/-- Bytes of a row, and of the copy. -/
def Desc.row (d : Desc) : Nat := d.n0 * d.es
def Desc.len (d : Desc) : Nat := d.row * d.n1 * d.n2

/-- Is a descriptor malformed (R318)? -/
def Desc.malformed (d : Desc) : Bool :=
  bits d[5].toNat 0 18 != 0 || decide (5 < bits d[5].toNat 19 3) || d.n0 == 0 || d.n1 == 0 || d.n2 == 0
    || decide (2 ^ 32 < d.len)
    || [d.ss1, d.ss2, d.ds1, d.ds2].any (fun x => x % (d.es : Int) != 0)
    || (d.toRing && (d[4] != 0 || bits d[1].toNat 25 39 != 0 || decide (3967 < bits d[1].toNat 0 13)
      || decide (65280 < d.len)))

/-- The address of the byte at an offset of copy order, for an operand with a base and two strides (R318). -/
def Desc.at (d : Desc) (base : Word) (s1 s2 : Int) (off : Nat) : Word :=
  let r := off / d.row
  base + BitVec.ofInt 64 ((r / d.n1 : Nat) * s2 + (r % d.n1 : Nat) * s1 + (off % d.row : Nat))

def Desc.src (d : Desc) (off : Nat) : Word := d.at d[0] d.ss1 d.ss2 off
def Desc.dst (d : Desc) (off : Nat) : Word := d.at d[1] d.ds1 d.ds2 off

/-- The lowest byte that an operand touches, and how many bytes lie from there to the highest (R319). -/
def Desc.extent (d : Desc) (base : Word) (s1 s2 : Int) : Word × Nat :=
  let a := ((d.n2 : Int) - 1) * s2
  let b := ((d.n1 : Int) - 1) * s1
  (base + BitVec.ofInt 64 (min a 0 + min b 0), a.natAbs + b.natAbs + d.row)

/-- The operands that are addresses: the address, its lowest byte and its extent, the source first. -/
def Desc.operands (d : Desc) : List (Word × Word × Nat) :=
  let (sl, sn) := d.extent d[0] d.ss1 d.ss2
  let (dl, dn) := d.extent d[1] d.ds1 d.ds2
  (d[0], sl, sn) :: (if d.toRing then [] else [(d[1], dl, dn)])

/-- Is an operand in local space? -/
def isLocal (a : Word) : Bool := a.getLsbD 63

/-! ### Counters and barriers (R329 to R333) -/

/-- Fires (R330). -/
def fires (value target : Half) : Bool := decide ((value - target).toNat < 2 ^ 31)

def Core.ctrAt (co : Core) (k : Nat) : Half := co.ctr[k]?.getD 0
def Core.ctrCtx (co : Core) (k : Nat) : Option (BitVec 12) := (co.ctrOwner[k]?).getD none
def Core.bar (co : Core) (n : Nat) : Barrier := co.tb[n]?.getD Barrier.reset

/-- The class of the ring's core among PEERMASK's bits, and whether the copy is third-party (R320). -/
def State.thirdParty (s : State) (p : Proc) (d : Desc) : Bool :=
  let own := fun a => isLocal a && s.namesOwn p a
  let ringOwn := d.toRing && bits d[1].toNat 0 13 == p.vcore.toNat
  !(own d[0] || (!d.toRing && own d[1]) || ringOwn)
    && (isLocal d[0] || (if d.toRing then true else isLocal d[1]))

/-- Change copy `id` of core `c`. -/
def State.modCopy (s : State) (c id : Nat) (f : Copy → Copy) : State :=
  s.modCore c fun co => { co with copies := co.copies.map fun cp => if cp.id == id then f cp else cp }

/-- A copy into a ring sends its claim (R324). -/
def State.sendClaim (s : State) (c : Nat) (cp : Copy) : State :=
  let v := bits cp.d[1].toNat 0 13
  let own := bits cp.self.toNat 0 13
  let third := v != own && !(isLocal cp.d[0] && (namedVcore s.pkgid.toNat own cp.d[0]) == some (s.pkgid.toNat, own))
  let cls := match s.live v with | some t => peerClass c t | none => 2
  s.sendTo c (s.live v) 0 (.ringClaim cp.d[1] cp.ctx cp.d.len cls third { core := c, id := cp.id } false)

/-- A copy starts; one into a ring sends its claim (R324). -/
def State.startCopy (s : State) (c : Nat) (cp : Copy) : State :=
  let s := s.modCopy c cp.id fun cp => { cp with armed := none, running := true, claim := if cp.d.toRing then 2 else 0 }
  if cp.d.toRing then s.sendClaim c cp else s

/-- After a change of counter `k` every copy armed on it that fires starts, in arming order (R330). -/
def State.testCtr (s : State) (c k : Nat) : State :=
  ((s.core c).copies.filter fun cp =>
    match cp.armed with
    | some (j, t) => j == k && fires ((s.core c).ctrAt k) t
    | none => false).foldl (fun s cp => s.startCopy c cp) s

/-- One change of counter `k` (R330). -/
def State.setCtr (s : State) (c k : Nat) (v : Half) : State :=
  (s.modCore c fun co => { co with ctr := co.ctr.setIfInBounds k v }).testCtr c k

/-- The test of the current phase (R333), at most `fuel` phases. -/
def Barrier.test : Nat → Barrier → Barrier
  | 0, b => b
  | fuel + 1, b =>
    let j : Fin 2 := if b.phase.getLsbD 0 then 1 else 0
    if b.posted[j] && b.arr[j] == b.expa[j] && b.bal[j] == 0 then
      Barrier.test fuel { b with phase := b.phase + 1, expa := b.expa.set j 0, arr := b.arr.set j 0,
                                 posted := b.posted.set j false }
    else b

def State.setBar (s : State) (c n : Nat) (b : Barrier) : State :=
  s.modCore c fun co => { co with tb := co.tb.setIfInBounds n (b.test 3) }

/-- Bytes bound to phase `ph` are charged (R333). -/
def Barrier.charge (b : Barrier) (ph : Half) (n : Nat) : Barrier :=
  if ph == b.phase || ph == b.phase + 1 then
    let j : Fin 2 := if ph.getLsbD 0 then 1 else 0
    { b with bal := b.bal.set j (b.bal[j] - BitVec.ofNat 48 n) }
  else { b with orph := BitVec.ofNat 32 (min (b.orph.toNat + n) (2 ^ 32 - 1)) }

/-- Charge bytes of a copy (R327, R333). -/
def State.chargeCopy (s : State) (c : Nat) (cp : Copy) (n : Nat) : State :=
  if cp.d.tbv then s.setBar c cp.d.tbn (((s.core c).bar cp.d.tbn).charge cp.phase n) else s

/-! ### What a copy still has to write (R323, R326) -/

/-- Ranges of copy order not yet written or abandoned. -/
def Copy.pending (cp : Copy) : List (Nat × Nat) :=
  (cp.next, cp.d.len) :: (cp.flight.filter fun f => !cp.wrote.contains f.1).map (fun f => (f.1, f.1 + f.2))
    ++ cp.fixups.map fun f => (f.off, f.off + f.len)

/-- Local offsets of the destination bytes of the row `r`. -/
def Desc.rowStart (d : Desc) (r : Nat) : Nat := bits (d.dst (r * d.row)).toNat 0 18

/-- Does the range [lo, hi) of copy order write a byte of granule `g`? -/
def Desc.touches (d : Desc) (lo hi g : Nat) : Bool :=
  (List.range (d.n1 * d.n2)).any fun r =>
    let a := max lo (r * d.row)
    let b := min hi ((r + 1) * d.row)
    decide (a < b) && decide (d.rowStart r + (a - r * d.row) < 16 * g + 16)
      && decide (16 * g < d.rowStart r + (b - r * d.row))

/-- The destination granules of a copy (R321). -/
def Desc.granules (d : Desc) : List Nat :=
  (List.range (d.n1 * d.n2)).foldl (fun l r => (granulesOf (d.rowStart r) d.row).foldl (fun l g => insertNat g l) l) []

/-- How many bytes of copy order from `lo` up to `hi` are written in each granule. -/
def Desc.counts (d : Desc) (lo hi : Nat) : KMap Nat :=
  (List.range (d.n1 * d.n2)).foldl (fun m r =>
    let a := max lo (r * d.row)
    let b := min hi ((r + 1) * d.row)
    let x := d.rowStart r + (a - r * d.row)
    if a < b then
      (granulesOf x (b - a)).foldl (fun m g =>
        kset m g ((kget m g).getD 0 + (min (x + (b - a)) (16 * g + 16) - max x (16 * g)))) m
    else m) []

/-- The granules of a written or abandoned range that are complete become full (R323, R326). A destination in another package fills its
granules as it writes them, and is told of abandoned bytes. -/
def State.fillDone (s : State) (c : Nat) (cp : Copy) (off len : Nat) : State :=
  if 65536 ≤ cp.dest then s.send c cp.dest 1 (.copyGive { core := c, id := cp.id } (cp.d.counts off (off + len)) false)
  else
  let job : Job := { core := c, id := cp.id }
  let done := fun g => cp.d.touches off (off + len) g && !cp.pending.any fun r => cp.d.touches r.1 r.2 g
  let gs := ((s.core cp.dest).taken.filter fun t => t.1 == job).flatMap fun t => t.2.2.filter done
  let s := s.modCore cp.dest fun co => { co with taken := co.taken.map fun t =>
    if t.1 == job then (t.1, t.2.1, t.2.2.filter fun g => !done g) else t }
  s.fillGranules cp.dest gs

/-! ### Completion (R327) -/

/-- A copy of core `c` by its number. -/
def Core.copy (co : Core) (id : Nat) : Option Copy := co.copies.find? fun cp => cp.id == id

/-- A copy whose units are all settled completes, or ends if it was stopped (R327, R328). -/
def State.finishCopy (s : State) (c id : Nat) : State :=
  match (s.core c).copy id with
  | none => s
  | some cp =>
    if !cp.flight.isEmpty then s
    else if cp.stopped then s.stopCopy c cp
    else if cp.next < cp.d.len || !cp.fixups.isEmpty || !cp.running then s
    else
      let s := if cp.claim == 3 then s.settlePlace cp.slot else s
      let s := s.modCore c fun co => { co with copies := co.copies.filter fun d => d.id != id }
      let s := if cp.dest < 65536 then s.fillTaken c cp else s
      let s := if cp.status == 0 then s else s.modCore c fun co => co.modUid cp.uid fun p => p.copyFailed cp.status
      if cp.d.ctr then s.setCtr c cp.d.ck ((s.core c).ctrAt cp.d.ck + cp.d.inc) else s

/-- Bytes of a copy are abandoned with a status (R326, R327). -/
def State.abandonCopy (s : State) (c id off len st : Nat) : State :=
  let s := s.modCopy c id fun cp => { cp with status := if cp.status == 0 then st else cp.status }
  match (s.core c).copy id with
  | none => s
  | some cp => ((s.fillDone c cp off len).chargeCopy c cp len).finishCopy c id

/-- A claim of a copy has failed: the copy ends with the claim's status and nothing is sent; its bytes are charged (R324,
R327). -/
def State.failClaim (s : State) (c : Nat) (cp : Copy) : State :=
  let s := s.modCopy c cp.id fun cp => { cp with next := cp.d.len }
  (s.chargeCopy c cp cp.d.len).finishCopy c cp.id

/-! ### COPY and COPYA (R319 to R321, R335) -/

/-- The traps at issue (R319), by cause and then in operand order. -/
def State.copyTrap (s : State) (c : Nat) (p : Proc) (d : Desc) : Option (Nat × Word) :=
  match d.operands.find? fun o => o.1.toNat % d.es != 0 with
  | some o => some (3, o.1)
  | none =>
    (d.operands.filter fun o => isLocal o.1 && s.namesOwn p o.1).findSome? fun o =>
      match s.localCheck c p o.2.1 o.2.2 d.es false false with
      | .own _ => none
      | .remote => some (4, o.2.1)
      | .bad cause => some (cause, o.2.1)

/-- Does a draft's copy write to local space outside its own window (R354)? -/
def State.copyBarred (s : State) (p : Proc) (d : Desc) : Bool :=
  p.isDraft &&
    (if d.toRing then !(bits d[1].toNat 0 13 == p.vcore.toNat && bits d[1].toNat 13 8 == p.gen.toNat)
     else isLocal d[1] &&
       (let (lo, n) := d.extent d[1] d.ds1 d.ds2
        !s.namesOwn p d[1] || !p.inWindow (bits lo.toNat 0 18) n))

/-- Room in the engine's queue (R316). -/
def Core.copyRoom (co : Core) (uid : Nat) : Bool :=
  decide (co.copies.length < 16) && decide ((co.copies.filter fun cp => cp.uid == uid).length < 8)

/-- The agent of a local operand. -/
def State.operandAgent (s : State) (p : Proc) (a : Word) : Option Nat :=
  (namedVcore s.pkgid.toNat p.vcore.toNat a).bind fun e => s.dest e.1 e.2

/-- The remote operands of a copy (R320). -/
def State.remoteOperands (s : State) (p : Proc) (d : Desc) : List (Word × Word × Nat) :=
  d.operands.filter fun o => isLocal o.1 && !s.namesOwn p o.1

/-- The agent whose granules a copy takes, when its destination is local (R321). -/
def State.copyDest (s : State) (c : Nat) (p : Proc) (d : Desc) : Option Nat :=
  if d.toRing || !isLocal d[1] then none
  else if s.namesOwn p d[1] then some c
  else s.operandAgent p d[1]

/-- Are the destination granules free to be taken (R321)? Those of another package are asked for there. -/
def State.copyFree (s : State) (c : Nat) (p : Proc) (d : Desc) : Bool :=
  match s.copyDest c p d with
  | some t => decide (65536 ≤ t) || !d.granules.any fun g => (s.core t).owned g
  | none => true

/-- Take the destination granules: they become empty and engine-owned (R118, R321). -/
def State.takeGranules (s : State) (c t id order : Nat) (gs : List Nat) : State :=
  let s := s.modCore t fun co =>
    gs.foldl Core.setEmpty { co with taken := co.taken ++ [({ core := c, id := id }, order, gs)] }
  gs.foldl (fun s g => s.handOff t g) s

/-- A copy of a process as it enters the queue, with granules of `dest` (R317, R320). -/
def State.newCopy (s : State) (c k : Nat) (p : Proc) (d : Desc) (dest : Option Nat) (claim : Nat) : Copy :=
  { id := (s.core c).nextJob, uid := p.uid, ctx := p.ctx.toNat, self := s.selfWord k p, d := d, wbase := p.wbase, wsize := p.wsize,
    armed := none, running := false, next := 0, flight := [], status := 0, stopped := false, wrote := [],
    dest := dest.getD c, fixups := [], phase := 0, claim := claim, slot := 0, tag := p.readTag, order := s.nextUid,
    pc := p.pc + 4, once := [] }

/-- A copy takes an entry of the queue (R316). -/
def State.queueCopy (s : State) (c : Nat) (cp : Copy) : State :=
  { (s.modCore c fun co => { co with nextJob := cp.id + 1, copies := co.copies ++ [cp] }) with nextUid := cp.order + 1 }

/-- An accepted copy is bound to a phase, and starts or is armed (R321, R332, R335). -/
def State.beginCopy (s : State) (c : Nat) (cp : Copy) (arm : Option (Nat × Half)) : State :=
  let d := cp.d
  let cp := { cp with armed := arm, claim := if d.toRing then 1 else 0,
                      phase := ((s.core c).bar d.tbn).phase + (if d.tbnx then 1 else 0) }
  let s := s.modCopy c cp.id fun _ => cp
  match arm with
  | some (j, _) => s.testCtr c j
  | none => s.startCopy c cp

/-- Acceptance (R321): the copy takes its granules. -/
def State.acceptCopy (s : State) (c k : Nat) (p : Proc) (d : Desc) (arm : Option (Nat × Half)) : State :=
  let dest := s.copyDest c p d
  let cp := s.newCopy c k p d dest 0
  let s := s.queueCopy c cp
  let s := match dest with
    | some t => s.takeGranules c t cp.id cp.order d.granules
    | none => s
  s.beginCopy c cp arm

/-- A copy asks an agent of another package for its destination granules; it is accepted when it has them (R321; log entry 53). -/
def State.askGranules (s : State) (c k : Nat) (p : Proc) (d : Desc) (t : Nat) : State :=
  let cp := s.newCopy c k p d (some t) 6
  (s.queueCopy c cp).send c t 1 (.copyTake { core := c, id := cp.id } (d.counts 0 d.len))

/-- COPY, or COPYA with its counter and target (R335). -/
def State.copyBody (s : State) (c k : Nat) (p : Proc) (i : Instr) (arm : Option (Nat × Half)) : Act :=
  let d : Desc := Vector.ofFn fun j : Fin 6 => p.e[j]
  let co := s.core c
  if d.malformed then statusAct i 2 s c k
  else match s.copyTrap c p d with
    | some (cause, v) => .trap cause v
    | none =>
      if s.copyBarred p d then .barred
      else if (d.ctr && co.ctrCtx d.ck != some p.ctx) || (d.tbv && (co.bar d.tbn).owner != some p.ctx)
          || (match arm with | some (j, _) => co.ctrCtx j != some p.ctx | none => false) then statusAct i 5 s c k
      else if !co.copyRoom p.uid then .hold s .copyQueue
      else if !p.released false then .hold s (.release false)
      else match (s.remoteOperands p d)[p.copyChecks]? with
        | some o =>
          match s.operandAgent p o.1 with
          | none => statusAct i 1 s c k
          | some t =>
            .hold (s.send c t 1 (.access o.2.1 (bits o.2.1.toNat 0 18) o.2.2 none (if s.thirdParty p d then 2 else 1)
              (peerClass c t) (s.selfWord k p) { core := c, uid := p.uid })) .remoteLoad
        | none =>
          if !s.copyFree c p d then .hold s .copyOwn
          else
            let galley := p.isDraft && !d.toRing && !isLocal d[1]
            let (ok, q) := if galley then p.charge d.len else (true, p)
            let s := s.setProc c k q
            if !ok then statusAct i 0 s c k
            else match (s.copyDest c p d).filter fun t => decide (65536 ≤ t) with
              | some t => .hold (s.askGranules c k q d t) .remoteLoad
              | none => statusAct i 0 (s.acceptCopy c k q d arm) c k

/-- COPY (R335). Memory cores have no such instruction (R271). -/
def execCopy (g : BitVec 4) (q : BitVec 1) (d : BitVec 5) (s : State) : Out :=
  let i := Instr.copy g q d
  instr i s (fun c p => { legal := !isMemCore c, uses := [ux d], guard := p.guardBit g 0 }) fun s c k p =>
    s.copyBody c k p i none

/-- COPYA (R335). -/
def execCopya (g : BitVec 4) (q : BitVec 1) (k : BitVec 4) (a d : BitVec 5) (s : State) : Out :=
  let i := Instr.copya g q k a d
  instr i s (fun c p => { legal := !isMemCore c, uses := [ux a, ux d], guard := p.guardBit g 0 }) fun s c sl p =>
    s.copyBody c sl p i (some (k.toNat, (p.xr a).truncate 32))

/-- The counter and target of a waiting COPYA. -/
def Proc.armOf (p : Proc) : Instr → Option (Nat × Half)
  | .copya _ _ k a _ => some (k.toNat, (p.xr a).truncate 32)
  | _ => none

/-- May a process that waits for a queue entry or for ownership go on (R316, R321)? -/
def State.copyReady (s : State) (c : Nat) (p : Proc) : Bool :=
  (s.core c).copyRoom p.uid &&
    (match p.wait with
     | some w => w.kind == .copyQueue || s.copyFree c p (Vector.ofFn fun j : Fin 6 => p.e[j])
     | none => false)

/-- COPY_ACCEPT: the copy of the process in slot `k` of core `c`, which waited for a queue entry or for its destination
granules, is accepted or armed (R316, R321). -/
def execCopyAccept (s : State) : Out :=
  let c := s.ev.c
  match s.proc c s.ev.k with
  | none => .next s
  | some p =>
    match p.wait with
    | some w =>
      if (w.kind == .copyQueue || w.kind == .copyOwn) && s.copyReady c p then
        .next (s.resume c p.uid fun s k p i => s.copyBody c k { p with wait := none } i (p.armOf i))
      else .next s
    | none => .next s

/-! ### CSTAT, CTRADD, CTRSET (R336, R337) -/

/-- The word of a barrier's phase slot (R336, selectors 4 and 6). -/
def Barrier.balWord (b : Barrier) (j : Fin 2) : Nat :=
  bit b.posted[j] * 2 ^ 63 + b.arr[j].toNat * 2 ^ 48 + b.bal[j].toNat

/-- The value of CSTAT (R336). -/
def Core.cstat (co : Core) (p : Proc) (k sel : Nat) : Nat :=
  let b := co.bar k
  let cur : Fin 2 := if b.phase.getLsbD 0 then 1 else 0
  let nxt : Fin 2 := if b.phase.getLsbD 0 then 0 else 1
  let mineC := co.ctrCtx k == some p.ctx
  let mineB := b.owner == some p.ctx
  let mine := co.copies.filter fun cp => cp.uid == p.uid
  if sel == 0 then (if mineC then (co.ctrAt k).toNat else 0)
  else if sel == 1 then
    (if mineC then (co.copies.filter fun cp => match cp.armed with | some (j, _) => j == k | none => false).length else 0)
  else if sel == 2 || sel == 3 then
    (mine.filter fun cp => cp.armed.isNone).length % 16 * 2 ^ 28 + (mine.filter fun cp => cp.armed.isSome).length % 16 * 2 ^ 24
      + p.cfail % 256 * 2 ^ 16 + p.cstatus % 256 * 2 ^ 8
  else if !mineB then 0
  else if sel == 4 then b.balWord cur
  else if sel == 5 then b.phase.toNat * 2 ^ 32 + b.expa[cur].toNat
  else if sel == 6 then b.balWord nxt
  else b.expa[nxt].toNat * 2 ^ 32 + b.orph.toNat

/-- CSTAT (R336). -/
def execCstat (g : BitVec 4) (k : BitVec 4) (sx d : BitVec 5) (s : State) : Out :=
  instr (.cstat g k sx d) s (fun _ p => { uses := [ux d], guard := p.guardBit g 0 }) fun s c sl p =>
    let w := BitVec.ofNat 64 ((s.core c).cstat p k.toNat sx.toNat)
    let p := if sx == 3 then { p with cfail := 0, cstatus := 0 } else p
    .go (s.setProc c sl (p.setX d w))

/-- CTRADD (R337). -/
def execCtradd (g : BitVec 4) (q : BitVec 1) (k : BitVec 4) (a d : BitVec 5) (s : State) : Out :=
  let i := Instr.ctradd g q k a d
  instr i s (fun _ p => { uses := [ux a, ux d], guard := p.guardBit g 0 }) fun s c sl p =>
    let co := s.core c
    if co.ctrCtx k.toNat != some p.ctx then statusAct i 5 s c sl
    else statusAct i 0 (s.setCtr c k.toNat (co.ctrAt k.toNat + (p.xr a).truncate 32)) c sl

/-- Is a counter armed, or named by an uncompleted copy (R337)? -/
def Core.ctrBusy (co : Core) (k : Nat) : Bool :=
  co.copies.any fun cp => (cp.d.ctr && cp.d.ck == k) || (match cp.armed with | some (j, _) => j == k | none => false)

/-- CTRSET and CTRSET.c (R337). -/
def execCtrset (g : BitVec 4) (q : BitVec 1) (c : BitVec 1) (k : BitVec 4) (a d : BitVec 5) (s : State) : Out :=
  let i := Instr.ctrset g q c k a d
  instr i s (fun _ p => { uses := [ux a, ux d], guard := p.guardBit g 0 }) fun s co sl p =>
    let n := k.toNat
    let core := s.core co
    if core.ctrCtx n != some p.ctx && core.ctrBusy n then statusAct i 5 s co sl
    else
      let s := s.setCore co { core with ctrOwner := core.ctrOwner.setIfInBounds n (some p.ctx) }
      let s := if c == 1 then
          (core.copies.filter fun cp => match cp.armed with | some (j, _) => j == n | none => false).foldl
            (fun s cp => s.cancelArmed co cp) s
        else s
      statusAct i 0 (s.setCtr co n ((p.xr a).truncate 32)) co sl

/-! ### TBEXP and TBARR (R338, R339) -/

/-- Does some process of the core wait in TBARR on barrier `n`? -/
def Core.barWaited (co : Core) (n : Nat) : Bool :=
  ((co.procs.map (·.2)) ++ co.parked.map (·.proc)).any fun p =>
    match p.tbPhase with | some (m, _) => m == n | none => false

/-- Post an expectation into a phase slot (R338). -/
def Barrier.post (b : Barrier) (j : Fin 2) (arrv bytes : Nat) : Barrier :=
  { b with bal := b.bal.set j (b.bal[j] + BitVec.ofNat 48 bytes), expa := b.expa.set j (b.expa[j] + BitVec.ofNat 12 arrv),
           posted := b.posted.set j true }

/-- TBEXP (R338). -/
def execTbexp (g : BitVec 4) (q : BitVec 1) (k : BitVec 3) (a d : BitVec 5) (s : State) : Out :=
  let i := Instr.tbexp g q k a d
  instr i s (fun _ p => { uses := [ux a, ux d], guard := p.guardBit g 0 }) fun s c sl p =>
    let n := k.toNat
    let w := (p.xr a).toNat
    let co := s.core c
    let init := bits w 63 1 == 1
    let old := co.bar n
    if bits w 52 10 != 0 then statusAct i 2 s c sl
    else if init && (co.barWaited n || co.copies.any fun cp => cp.d.tbv && cp.d.tbn == n) then statusAct i 2 s c sl
    else if !init && old.owner != some p.ctx then statusAct i 5 s c sl
    else
      let b := if init then { Barrier.reset with owner := some p.ctx } else old
      let j : Fin 2 := if b.phase.getLsbD 0 == (bits w 62 1 == 1) then 0 else 1
      if 4095 < b.expa[j].toNat + bits w 40 12 || decide ((2 : Int) ^ 47 ≤ b.bal[j].toInt + (bits w 0 40 : Nat)) then
        statusAct i 2 s c sl
      else statusAct i 0 (s.setBar c n (b.post j (bits w 40 12) (bits w 0 40))) c sl

/-- An arrival in the current phase (R339). -/
def Barrier.arrive (b : Barrier) : Barrier :=
  let j : Fin 2 := if b.phase.getLsbD 0 then 1 else 0
  { b with arr := b.arr.set j (b.arr[j] + 1) }

/-- Has the phase in which a process arrived completed (R339)? -/
def State.barDone (s : State) (c : Nat) (p : Proc) : Bool :=
  match p.tbPhase with
  | some (n, ph) => ((s.core c).bar n).phase != ph
  | none => true

/-- TBARR (R339): it arrives once, and waits for its phase to complete. -/
def execTbarr (g : BitVec 4) (q : BitVec 1) (k : BitVec 3) (d : BitVec 5) (s : State) : Out :=
  let i := Instr.tbarr g q k d
  instr i s (fun _ p => { uses := [ux d], guard := p.guardBit g 0 }) fun s c sl p =>
    match p.tbPhase with
    | some _ => if s.barDone c p then statusAct i 0 s c sl else .hold s .tbarr
    | none =>
      let n := k.toNat
      let b := (s.core c).bar n
      if b.owner != some p.ctx then statusAct i 5 s c sl
      else
        let s := s.setBar c n b.arrive
        let p := { p with tbPhase := some (n, b.phase) }
        if s.barDone c p then statusAct i 0 s c sl else .hold (s.setProc c sl p) .tbarr

/-! ### Units (R323 to R326) -/

/-- The bytes of the unit that begins at an offset of copy order (R323): a unit to global memory also ends with its destination
line. -/
def Desc.unit (d : Desc) (off : Nat) : Nat :=
  let n := min (min 256 (d.row - off % d.row)) (256 - (d.src off).toNat % 256)
  if !d.toRing && !isLocal (d.dst off) then min n (256 - (d.dst off).toNat % 256) else n

/-- The pages of a unit's operands. -/
def Desc.pages (d : Desc) (off : Nat) : Nat × Nat := (pageOf (d.src off), if d.toRing then 0 else pageOf (d.dst off))

/-- The bytes of the consecutive units from an offset up to `lim` on the same pages (R326). -/
def Desc.run (d : Desc) (pg : Nat × Nat) (lim : Nat) : Nat → Nat → Nat
  | 0, _ => 0
  | fuel + 1, off =>
    if lim ≤ off || d.pages off != pg then 0
    else
      let n := min (d.unit off) (lim - off)
      n + d.run pg lim fuel (off + n)

/-- One operand of a unit made ready. -/
inductive Ready where
  | at (sp : Spot) (s : State)
  | dead
  | fault (kind : Nat) (rap : Bool) (va : Word) (s : State)
  | later (s : State)
  | noPhys (pa : Nat)
  deriving DecidableEq

/-- Is a cached translation of an engine's request within the margin of R294? -/
def State.renewDue (s : State) (c ctx : Nat) (va : Word) (need : Nat) : Bool :=
  match s.lookup c noUid ctx va need 0 with
  | some t => decide (clockDiff t.exp (s.clockOf c) < 8)
  | none => false

/-- An operand of a unit: a local one names its agent, a global one is translated (R320, R325). -/
def State.spotFor (s : State) (c : Nat) (cp : Copy) (va : Word) (need : Nat) : Ready :=
  if isLocal va then
    match (namedVcore s.pkgid.toNat (bits cp.self.toNat 0 13) va).bind fun e => s.dest e.1 e.2 with
    | some t => .at (.spad t (bits va.toNat 0 18)) s
    | none => .dead
  else if s.renewDue c cp.ctx va need then .later s
  else match s.reach c noUid cp.ctx va need with
    | .ok r s' =>
      (match s.walksOnce c cp.ctx va need with
       | some t =>
         if changedFrom cp.once va t then .fault 5 false va s'
         else .at (.mem r) (s'.modCopy c cp.id fun q => { q with once := t :: forgetOnce q.once va })
       | none => .at (.mem r) s')
    | .fault kind rap s' => .fault kind rap va s'
    | .later s' => .later s'
    | .noPhys pa => .noPhys pa

/-- The destination of a unit. -/
def State.destFor (s : State) (c : Nat) (cp : Copy) (off : Nat) : Ready :=
  if cp.d.toRing then .at (.slot cp.slot off) s else s.spotFor c cp (cp.d.dst off) needW

/-- Where a unit is to go next: at a fix-up entry that a wake has released, or at the copy's next byte (R326). -/
def Copy.turn (cp : Copy) : Option (Option Half × Nat × Nat) :=
  match cp.fixups.find? fun f => f.go with
  | some f => some (some f.cookie, f.off, f.off + f.len)
  | none => if cp.next < cp.d.len && decide (cp.fixups.length < 8) then some (none, cp.next, cp.d.len) else none

/-- May a copy send a unit, or end because its claim has failed? -/
def Copy.active (cp : Copy) : Bool :=
  cp.running && !cp.stopped && (cp.claim == 4 || ((cp.claim == 0 || cp.claim == 3) && cp.turn.isSome))

/-- The copy that the engine serves next, round-robin (R316). -/
def Core.nextCopy (co : Core) : Option Copy :=
  match co.copies.find? fun cp => cp.active && decide (co.copyTurn < cp.id) with
  | some cp => some cp
  | none => co.copies.find? Copy.active

/-- Advance past the `n` bytes at `off`: of a fix-up entry, or of the copy. -/
def Copy.advance (cp : Copy) (entry : Option Half) (n : Nat) : Copy :=
  match entry with
  | none => { cp with next := cp.next + n }
  | some ck => { cp with fixups := (cp.fixups.map fun f =>
      if f.cookie == ck && f.go then { f with off := f.off + n, len := f.len - n } else f).filter fun f => f.len != 0 }

/-- A unit's translation has faulted: it and the units after it on the same pages form a fix-up entry (R326); an entry that is
replayed stays. -/
def State.fixup (s : State) (c : Nat) (cp : Copy) (entry : Option Half) (off lim kind need : Nat) (rap : Bool) (va : Word) :
    State :=
  let n := cp.d.run (cp.d.pages off) lim cp.d.len off
  let len := match entry with | some _ => lim - off | none => n
  let (s, cookie) := if s.inBoot c then (s, 0)
    else s.raiseFault c cp.uid 3 cp.id kind need rap cp.self va (BitVec.ofNat 64 (len % 2 ^ 32 * 2 ^ 32 + off % 2 ^ 32))
  s.modCopy c cp.id fun cp =>
    let cp := { cp with once := forgetOnce cp.once va }
    match entry with
    | none => { cp with next := off + n, fixups := cp.fixups ++ [{ kind := kind, off := off, len := n, cookie := cookie, go := false }] }
    | some ck => { cp with fixups := cp.fixups.map fun f =>
        if f.cookie == ck && f.go then { f with kind := kind, cookie := cookie, go := false } else f }

/-- The process of a copy is barred at translation (R354, R355). -/
def State.barCopy (s : State) (c : Nat) (cp : Copy) : State :=
  match (s.core c).find cp.uid with
  | some p => s.barred c p p.pc
  | none => s.stopCopy c cp

/-- Send one unit of a copy: from its source's holder (R323). -/
def State.sendUnit (s : State) (c : Nat) (cp : Copy) (entry : Option Half) (off lim : Nat) : Out :=
  let n := min (cp.d.unit off) (lim - off)
  let job : Job := { core := c, id := cp.id }
  let sent := fun (s : State) => s.modCopy c cp.id fun cp => { cp.advance entry n with flight := cp.flight ++ [(off, n)] }
  let lost := fun (s : State) (st : Nat) => .next ((sent s).send c c 2 (.copyAck job off n st))
  match s.spotFor c cp (cp.d.src off) needR with
  | .noPhys pa => .fault (.noSuchPhysical pa)
  | .later s => .next s
  | .dead => lost s 1
  | .fault kind rap va s => .next (s.fixup c cp entry off lim kind needR rap va)
  | .at src s' =>
    match s'.destFor c cp off with
    | .noPhys pa => .fault (.noSuchPhysical pa)
    | .later s => .next s
    | .dead => lost s' 33
    | .fault kind rap va s' => .next (s'.fixup c cp entry off lim kind needW rap va)
    | .at dst s' =>
      let bar := match dst with | .mem r => cp.tag.isSome && r.ap != 0 | _ => false
      if bar then .next (s'.barCopy c cp)
      else
        let s' := match dst with
          | .mem r => if cp.tag.isSome then s'.modCore c fun co => co.modUid cp.uid fun p => p.noteHome (homeOf r.pa) else s'
          | _ => s'
        let b := Body.copyRead job off n cp.order src dst cp.uid cp.tag
        .next (match src with
          | .spad t _ => (sent s').send c t 1 b
          | .mem r => (sent s').sendHome c r b
          | .slot _ _ => s')

/-- COPY_UNIT_SEND: every four cycles the engine of core `c` sends the next unit of the copy whose turn it is, with at most 32 in
flight (R316, R323, R342). -/
def execCopyUnitSend (s : State) : Out :=
  let c := s.ev.c
  let co := s.core c
  let inFlight := co.copies.foldl (fun n cp => n + cp.flight.length) 0
  if s.now < co.copyAt || 32 ≤ inFlight then .next s
  else match co.nextCopy with
    | none => .next s
    | some cp =>
      let s' := s.setCore c { co with copyTurn := cp.id, copyAt := s.now + 4 }
      if cp.claim == 4 then .next (s'.failClaim c cp)
      else match cp.turn with
        | none => .next s
        | some (entry, off, lim) => s'.sendUnit c cp entry off lim

/-! ### Units at their holders (R322, R323) -/

/-- Must a read of local bytes wait for an engine that was accepted before (R322)? -/
def State.readWaits (s : State) (c off n order : Nat) (job : Job) : Bool :=
  let co := s.core c
  (granulesOf off n).any fun g =>
    co.taken.any (fun t => t.1 != job && decide (t.2.1 < order) && t.2.2.contains g)
      || co.foreign.any (fun t => t.1 != job && decide (t.2.1 < order) && t.2.2.any fun e => e.1 == g)
      || co.memops.any fun m => decide (m.order < order) && m.owned.contains g

/-- Push a unit's bytes to its destination's holder (R323) on the channel of copy and push data (R396): a draft's to its galley
(R351). -/
def State.pushUnit (s : State) (c : Nat) (job : Job) (off : Nat) (data : List Byte) (dst : Spot) (uid : Nat)
    (tag : Option (Nat × Nat)) : State :=
  match dst with
  | .spad t _ => s.send c t 2 (.copyWrite job off data dst)
  | .mem r =>
    (match tag with
     | some t => s.send c (homeOf r.pa) 2 (.galley r t data { core := job.core, uid := uid } 1 job off)
     | none => s.sendHomeOn 2 c r (.copyWrite job off data dst))
  | .slot place o =>
    (match s.placeCore place with
     | some t => s.send c t 2 (.ringData place o data false job false)
     | none => s.send c job.core 2 (.copyAck job off data.length 33))

/-- COPY_UNIT_READ: packet `n` is read by its source's holder and pushed to the destination (R323). -/
def execCopyUnitRead (s : State) : Out :=
  .next (s.onPacket s.ev.n fun s pk =>
    match pk.body with
    | .copyRead job off len order src dst uid tag =>
      match src with
      | .spad t o =>
        if s.readWaits t o len order job then none
        else if 65536 ≤ pk.src && !(s.core t).peermask.getLsbD 4 then some (s.send pk.dst pk.src 2 (.copyAck job off len 5))
        else some (s.pushUnit pk.dst job off ((s.core t).spad.bytes o len) dst uid tag)
      | .mem r =>
        match s.atHome pk.dst r len with
        | none => none
        | some (r, s) => some (s.pushUnit pk.dst job off (s.readHome r tag len) dst uid tag)
      | .slot _ _ => some s
    | _ => none)

/-! ### Lines of memory-core operations that other homes acknowledge (R273, R274, R464) -/

/-- The mark of a line that has been sent and not yet acknowledged. -/
def lineSent (off : Nat) : Nat := off + 2 ^ 40

/-- A line of operation `id` is settled, with a status: the granules of an HLOAD line become full (R273). -/
def State.lineDone (s : State) (c id off len st : Nat) : State :=
  match (s.core c).memops.find? fun m => m.id == id with
  | none => s
  | some m =>
    let gs := if m.op == 0 then granulesOf (m.loc + off) len else []
    let s := s.modCore c fun co => { co with memops := co.memops.map fun q =>
      (if q.id == id then
        { q with todo := q.todo.filter (fun o => o != off && o != lineSent off), owned := q.owned.filter (fun g => !gs.contains g),
                 status := if q.status == 0 then st else q.status }
       else q) }
    s.fillGranules c (gs.filter fun g => m.owned.contains g)

/-- A unit has been written: granules that are complete become full (R323). -/
def State.unitWritten (s : State) (job : Job) (off len : Nat) : State :=
  let s := s.modCopy job.core job.id fun cp => { cp with wrote := off :: cp.wrote }
  match (s.core job.core).copy job.id with
  | some cp => s.fillDone job.core cp off len
  | none => s.lineDone job.core job.id off len 0

/-- COPY_UNIT_WRITE: packet `n` is written by its destination's holder and acknowledged (R323). -/
def execCopyUnitWrite (s : State) : Out :=
  .next (s.onPacket s.ev.n fun s pk =>
    match pk.body with
    | .copyWrite job off data dst =>
      let ack := fun (s : State) (st : Nat) => s.send pk.dst (if 65536 ≤ pk.src then pk.src else job.core) 2
        (.copyAck job off data.length st)
      match dst with
      | .spad t o =>
        if 65536 ≤ pk.src && !(s.core t).peermask.getLsbD 4 then some (ack s 37)
        else
          let s := s.modCore t fun co => { co with spad := co.spad.put o data }
          some (ack (if job.core < 65536 then s.unitWritten job off data.length
            else s.returnGranules t job ((granulesOf o data.length).map fun g =>
              (g, min (o + data.length) (16 * g + 16) - max o (16 * g))) false) 0)
      | .mem r =>
        match s.atHome pk.dst r data.length with
        | none => none
        | some (r, s) => some (ack (s.writePhys r.ap r.pa data) 0)
      | .slot _ _ => some s
    | _ => none)

/-- RING_PUSH_DATA: packet `n` is written into its claimed slot; a copy's slot is filled with its last unit, an HPUSH's with its
last data, and the producer is told (R275, R323, R324). -/
def execRingPushData (s : State) : Out :=
  .next (s.onPacket s.ev.n fun s pk =>
    match pk.body with
    | .ringData place off data last job memop =>
      -- data for a saved ring waits until the resume (R377)
      match s.ringAt place with
      | none =>
        if (s.savedPlace place).isSome then none
        else some (if memop then (if last then s.send pk.dst job.core 2 (.ringAns job true 1 place) else s)
          else s.send pk.dst job.core 2 (.copyAck job off data.length 33))
      | some (c, j, r, slot) =>
        match (s.core c).ringOwner r with
        | none =>
          some (if memop then (if last then s.send pk.dst job.core 2 (.ringAns job true 1 place) else s)
            else s.send pk.dst job.core 2 (.copyAck job off data.length 33))
        | some p =>
          let s := s.modCore c fun co => { co with spad := co.spad.put (r.slotAt p.wbase slot + off) data }
          if memop then
            some (if last then (s.setRing c j (r.complete slot)).send pk.dst job.core 2 (.ringAns job true 0 place) else s)
          else
            let s := s.unitWritten job off data.length
            let whole := match (s.core job.core).copy job.id with
              | some cp => cp.pending.all (fun e => decide (e.2 ≤ e.1)) && cp.claim == 3
              | none => false
            let s := if whole then
                (s.setRing c j (r.complete slot)).modCopy job.core job.id fun cp => { cp with claim := 5 }
              else s
            some (s.send pk.dst job.core 2 (.copyAck job off data.length 0))
    | _ => none)

/-- The record of a unit or line that was refused through APERTURE 3 (R464). -/
def State.apRefused (s : State) (ctx st : Nat) (self va : Word) : State := s.refusal ctx 0x14 (st % 32) self va 0

/-- The acknowledgement of a line with a status (R274, R352, R464). -/
def State.lineAcked (s : State) (job : Job) (off len st : Nat) : State :=
  match (s.core job.core).memops.find? fun m => m.id == job.id with
  | none => s
  | some m =>
    let v := st % 32
    if 64 ≤ st then
      -- The walk of a resent line faulted: it is done again, and faults again there.
      s.modCore job.core fun co => { co with memops := co.memops.map fun q =>
        (if q.id == job.id then { q with todo := q.todo.map fun o => if o == lineSent off then off else o } else q) }
    else if v == 2 then
      (s.modCore job.core fun co => co.modUid m.uid fun p =>
        { p with draft := p.draft.map fun d => { d with stfull := true } }).lineDone job.core job.id off len 0
    else if v == 0 then s.lineDone job.core job.id off len 0
    else
      let va := m.globl + BitVec.ofNat 64 off
      (if v == 7 then s.refusal m.ctx 0x15 7 m.self va 0 else s.apRefused m.ctx st m.self va).lineDone job.core job.id off len v

/-- A resent unit whose walk has faulted joins the fix-up entry that it continues, one of the same kind and pages (R326). -/
def Copy.joinFix (cp : Copy) (kind off len : Nat) : Option Copy :=
  let near := fun f : Fixup => !f.go && f.kind == kind && cp.d.pages f.off == cp.d.pages off
    && (f.off + f.len == off || off + len == f.off)
  match cp.fixups.find? near with
  | none => none
  | some e =>
    let join := fun f : Fixup => if f == e then { f with off := min f.off off, len := f.len + len } else f
    some { cp with fixups := cp.fixups.map join }

/-- The walk of a resent unit has faulted, for the source or the destination: the unit goes to the fix-up list (R326); none while the
list is full. -/
def State.unitFault (s : State) (c : Nat) (cp : Copy) (off len kind need : Nat) (rap : Bool) (va : Word) : Option State :=
  let landed := fun cp : Copy =>
    { cp with flight := cp.flight.filter (fun f => f.1 != off), wrote := cp.wrote.filter fun o => o != off }
  match cp.joinFix kind off len with
  | some _ => some (s.modCopy c cp.id fun cp => landed ((cp.joinFix kind off len).getD cp))
  | none =>
    if 8 ≤ cp.fixups.length then none
    else
      let (s, cookie) := s.raiseFault c cp.uid 3 cp.id kind need rap cp.self va (BitVec.ofNat 64 (len * 2 ^ 32 + off % 2 ^ 32))
      some (s.modCopy c cp.id fun cp =>
        landed { cp with fixups := cp.fixups ++ [{ kind := kind, off := off, len := len, cookie := cookie, go := false }] })

/-- The answer to a copy that has asked another package for its granules: it is accepted, or refused with a status (R320, R321). Granules
that nobody takes any more go back. -/
def State.granulesAnswered (s : State) (job : Job) (from_ st : Nat) : State :=
  let c := job.core
  let give := fun s : State => if st == 0 then s.send c from_ 1 (.copyGive job [] true) else s
  let gone := fun s : State => s.modCore c fun co => { co with copies := co.copies.filter fun d => d.id != job.id }
  match (s.core c).copy job.id with
  | none => give s
  | some cp =>
    if cp.claim != 6 then s
    else match (s.core c).find cp.uid with
      | none => give (gone s)
      | some p =>
        match p.wait with
        | none => give (gone s)
        | some w =>
          if st == 0 then (s.beginCopy c cp (p.armOf w.instr)).resumeStatus c cp.uid 0
          else (gone s).resumeStatus c cp.uid (st % 32)

/-- COPY_UNIT_ACK: packet `n` is the acknowledgement of a unit: its bytes are charged, or abandoned with a status, or go to the
fix-up list when the walk of a resent unit faulted; the last one completes the copy (R325 to R328, R464). -/
def execCopyUnitAck (s : State) : Out :=
  .next (s.onPacket s.ev.n fun s pk =>
    match pk.body with
    | .copyAck job off len st =>
      let c := job.core
      if len == 0 then some (s.granulesAnswered job pk.src st)
      else if 2 ^ 200 ≤ job.id then
        -- the completion record that a launch agent has written to a peer package (R230, R464)
        some (s.farAnswer { core := c, uid := job.id } (some [BitVec.ofNat 8 (if st < 64 then st % 32 else 5)]))
      else if noUid ≤ job.id then
        (if st < 64 then some (s.spillDone c (job.id - noUid) (st % 32)) else some (s.reissue c (job.id - noUid)))
      else match (s.core c).copy job.id with
        | none => some (s.lineAcked job off len st)
        | some cp =>
          let va := if st / 32 % 2 == 1 then cp.d.dst off else cp.d.src off
          if 64 ≤ st && !cp.stopped then
            s.unitFault c cp off len (st % 32 / 2) (if st / 32 % 2 == 1 then needW else needR) (st % 2 == 1) va
          else
          let s := s.modCopy c cp.id fun cp =>
            { cp with flight := cp.flight.filter (fun f => f.1 != off), wrote := cp.wrote.filter fun o => o != off }
          if cp.stopped then some (s.finishCopy c cp.id)
          else if st == 0 then some (((s.countFor c cp.uid 12 len).chargeCopy c cp len).finishCopy c cp.id)
          else
            let s := if !isLocal va && !(cp.d.toRing && st / 32 % 2 == 1) && st % 32 != 2 && st % 32 != 7 then
                s.apRefused cp.ctx st cp.self va else s
            let s := if st % 32 == 2 then s.modCore c fun co => co.modUid cp.uid fun p =>
                { p with draft := p.draft.map fun d => { d with stfull := true } } else s
            if st % 32 == 2 then some ((s.chargeCopy c cp len).finishCopy c cp.id)
            else some (s.abandonCopy c cp.id off len (st % 32))
    | _ => none)

end Sys2Proof.Machine
end

