-- ==== Sys2Proof/Machine/MemCore.lean ====
section
/-! DEFINITION. Sys2Proof/Machine/MemCore.lean: memory-core operations (R271 to R277) and TLBP (R278). -/

namespace Sys2Proof.Machine

/-! ### Issue and acceptance (R272 to R275) -/

/-- Room in the operation queue (R272). -/
def Core.memRoom (co : Core) (uid : Nat) : Bool :=
  decide (co.memops.length < 32) && decide ((co.memops.filter fun m => m.uid == uid).length < 8)

/-- The checks of HLOAD and HSTORE at issue (R273, R274): a trap, or the local offset. -/
def State.memCheck (s : State) (c : Nat) (p : Proc) (glob loc : Word) (n : Nat) : Sum (Nat × Word) Nat :=
  if !isLocal loc then .inl (5, loc)
  else if loc.toNat % 32 != 0 then .inl (3, loc)
  else if glob.toNat % 32 != 0 then .inl (3, glob)
  else if isLocal glob then .inl (4, glob)
  else if n % 32 != 0 || 65536 < n then .inl (4, glob)
  else match s.localCheck c p loc n 32 true false with
    | .own off => .inr off
    | .remote => .inl (4, loc)
    | .bad cause => .inl (cause, loc)

/-- The starts of the lines of `n` bytes at a global address (R273). -/
def lineStarts (g n : Nat) : Nat → Nat → List Nat
  | 0, _ => []
  | fuel + 1, o => if n ≤ o then [] else o :: lineStarts g n fuel (o + (256 - (g + o) % 256))

/-- The bytes of the line that begins at an offset. -/
def MemOp.lineLen (m : MemOp) (off : Nat) : Nat := min (256 - (m.globl.toNat + off) % 256) (m.len - off)

/-- The pages of a range (R272). -/
def rangePages (g : Word) (n : Nat) : List Word :=
  (List.range (pageOf (g + BitVec.ofNat 64 (n - 1)) - pageOf g + 1)).map fun i =>
    if i == 0 then g else BitVec.ofNat 64 ((pageOf g + i) * 65536)

/-- Acceptance of an operation (R272). -/
def State.acceptOp (s : State) (c k : Nat) (p : Proc) (op : Nat) (glob : Word) (loc n : Nat) (ring : Word) : State :=
  let co := s.core c
  let gs := if op == 0 then granulesOf loc n else []
  let m : MemOp :=
    { id := co.nextJob, uid := p.uid, ctx := p.ctx.toNat, self := s.selfWord k p, op := op, globl := glob, loc := loc, len := n,
      ring := ring, todo := if op == 2 then [] else lineStarts glob.toNat n (n / 32 + 1) 0, status := 0, stage := 0, slot := 0,
      wbase := p.wbase, wsize := p.wsize, cookie := none, tag := p.readTag, owned := gs, order := s.nextUid, pc := p.pc, once := [] }
  let s := { (s.setCore c (gs.foldl Core.setEmpty { co with nextJob := co.nextJob + 1, memops := co.memops ++ [m] })) with
    nextUid := s.nextUid + 1 }
  let s := gs.foldl (fun s g => s.handOff c g) s
  if op != 2 then s
  else
    -- The claim of an HPUSH leaves at once; a ring word that names no core fails without sending anything (R275).
    let stage := fun (s : State) (st v : Nat) => s.modCore c fun co => { co with memops := co.memops.map fun q =>
      (if q.id == m.id then { q with stage := st, status := v } else q) }
    if bits ring.toNat 25 39 != 0 || 3967 < bits ring.toNat 0 13 then stage s 4 2
    else (stage s 1 0).sendTo c (s.live (bits ring.toNat 0 13)) 0
      (.ringClaim ring p.ctx.toNat n 5 false { core := c, id := m.id } true)

/-- The kind of an operation, its global address, local address and length, from an instruction's registers. -/
structure MemArgs where
  op   : Nat
  glob : Word
  loc  : Word
  n    : Word

/-- HLOAD and HSTORE (R272 to R274): checks, room, the translation of every page, ownership, acceptance. -/
def State.moveBody (s : State) (c k : Nat) (p : Proc) (i : Instr) (m : MemArgs) : Act :=
  match s.memCheck c p m.glob m.loc m.n.toNat with
  | .inl (cause, v) => .trap cause v
  | .inr off =>
    let n := m.n.toNat
    if n == 0 then .go s
    else if !(s.core c).memRoom p.uid then .hold s .memop
    else
      let need := if m.op == 0 then needR else needW
      match (rangePages m.glob n).find? fun a => (s.lookup c p.uid p.ctx.toNat a need 0).isNone with
      | some a =>
        if s.inBoot c then .done (s.suspend c k p i 4 a need 1 false) else s.startWalk c p a need 4
      | none =>
        let away := (rangePages m.glob n).any fun a =>
          match s.lookup c p.uid p.ctx.toNat a need 0 with
          | some t => leafAp t.leaf != 0
          | none => false
        if m.op == 1 && p.isDraft && away then .barred
        else if m.op == 0 && ((s.core c).ownedIn off n).isSome then .hold s .memop
        else
          let (ok, q) := if m.op == 1 then p.charge n else (true, p)
          let s := (s.setProc c k q).spend c p.uid
          .go (if ok then s.acceptOp c k q m.op m.glob off n 0 else s)

/-- HPUSH (R275); it is barred in a draft (R354). -/
def State.pushBody (s : State) (c k : Nat) (p : Proc) (m : MemArgs) : Act :=
  let n := m.n.toNat
  if p.isDraft then .barred
  else if !isLocal m.loc then .trap 5 m.loc
  else if m.loc.toNat % 32 != 0 then .trap 3 m.loc
  else if n == 0 || n % 32 != 0 || 65280 < n then .trap 4 m.loc
  else match s.localCheck c p m.loc n 32 true false with
    | .bad cause => .trap cause m.loc
    | .remote => .trap 4 m.loc
    | .own off =>
      if !(s.core c).memRoom p.uid then .hold s .memop
      else .go (s.acceptOp c k p 2 0 off n m.glob)

/-- The operands of a memory-core operation. -/
def Proc.memArgs (p : Proc) : Instr → MemArgs
  | .hload _ b a d => { op := 0, glob := p.xr a, loc := p.xr d, n := p.xr b }
  | .hstore _ b a d => { op := 1, glob := p.xr d, loc := p.xr a, n := p.xr b }
  | .hpush _ b a d => { op := 2, glob := p.xr d, loc := p.xr a, n := p.xr b }
  | _ => { op := 0, glob := 0, loc := 0, n := 0 }

/-- A memory-core operation at issue (R271, R272). -/
def State.memBody (s : State) (c k : Nat) (p : Proc) (i : Instr) : Act :=
  let m := p.memArgs i
  if m.op == 2 then s.pushBody c k p m else s.moveBody c k p i m

/-- The checks common to the operations: they execute on memory cores alone (R58, R271). -/
def memInstr (i : Instr) (g : BitVec 4) (us : List Use) (s : State) : Out :=
  instr i s (fun c p => { legal := isMemCore c, uses := us, guard := p.guardBit g 0 }) fun s c k p => s.memBody c k p i

/-- HLOAD (R273). -/
def execHload (g : BitVec 4) (b a d : BitVec 5) (s : State) : Out := memInstr (.hload g b a d) g [ux b, ux a, ux d] s

/-- HSTORE (R274). -/
def execHstore (g : BitVec 4) (b a d : BitVec 5) (s : State) : Out := memInstr (.hstore g b a d) g [ux b, ux a, ux d] s

/-- HPUSH (R275). -/
def execHpush (g : BitVec 4) (b a d : BitVec 5) (s : State) : Out := memInstr (.hpush g b a d) g [ux b, ux a, ux d] s

/-- May a process that waits for room or for ownership try again (R272, R273)? -/
def State.memReady (s : State) (c : Nat) (p : Proc) : Bool :=
  (s.core c).memRoom p.uid &&
    (match p.wait with
     | some w =>
       let m := p.memArgs w.instr
       m.op != 0 || ((s.core c).ownedIn (localOff m.loc) m.n.toNat).isNone
     | none => false)

/-- MEMCORE_OP_ACCEPT: the operation of the process in slot `k` of memory core `c`, which waited for room, is accepted (R272). -/
def execMemcoreOpAccept (s : State) : Out :=
  let c := s.ev.c
  match s.proc c s.ev.k with
  | none => .next s
  | some p =>
    match s.waitOf c p.uid with
    | some .memop =>
      if s.memReady c p then .next (s.resume c p.uid fun s k p i => s.memBody c k { p with wait := none } i) else .next s
    | _ => .next s

/-- HDRAIN (R276). -/
def execHdrain (g : BitVec 4) (d : BitVec 5) (s : State) : Out :=
  instr (.hdrain g d) s (fun c p => { legal := isMemCore c, uses := [ux d], guard := p.guardBit g 0 }) fun s c k p =>
    if (s.core c).memops.any fun m => m.uid == p.uid then .hold s .hdrain
    else
      let w := BitVec.ofNat 64 (p.hfail * 2 ^ 16 + p.hstatus * 2 ^ 8 + p.hop)
      .go (s.setProc c k ({ p with hfail := 0, hstatus := 0, hop := 0 }.setX d w))

/-! ### Lines and completion (R273 to R277) -/

/-- A failed operation counts in its process's summary (R276). -/
def Proc.opFailed (p : Proc) (op status : Nat) : Proc :=
  { p with hfail := min (p.hfail + 1) 0xFFFF, hstatus := if p.hfail == 0 then status else p.hstatus,
           hop := if p.hfail == 0 then op else p.hop }

def Core.memop (co : Core) (id : Nat) : Option MemOp := co.memops.find? fun m => m.id == id

def State.modOp (s : State) (c id : Nat) (f : MemOp → MemOp) : State :=
  s.modCore c fun co => { co with memops := co.memops.map fun m => if m.id == id then f m else m }

/-- The next line of an operation to be requested. -/
def MemOp.nextLine (m : MemOp) : Option Nat :=
  if m.cookie.isSome then none else m.todo.find? fun o => decide (o < 2 ^ 40)

/-- The virtual address of a line. -/
def MemOp.va (m : MemOp) (off : Nat) : Word := m.globl + BitVec.ofNat 64 off

/-- A line's translation has faulted, or has changed: the lines not yet requested are held until the pager's wake (R294, R369). -/
def State.holdOp (s : State) (c : Nat) (m : MemOp) (off kind need : Nat) (rap : Bool) : State :=
  let (s, cookie) := s.raiseFault c m.uid 4 (m.id + 1) kind need rap m.self (m.va off) m.pc
  s.modOp c m.id fun q => { q with cookie := some cookie, once := forgetOnce q.once (m.va off) }

/-- The name of an operation among producers. -/
def MemOp.job (m : MemOp) (c : Nat) : Job := { core := c, id := m.id }

/-- How the next line of an operation reaches its home. -/
def State.lineReach (s : State) (c : Nat) (m : MemOp) (off : Nat) : Reach :=
  let need := if m.op == 0 then needR else needW
  if s.renewDue c m.ctx (m.va off) need then .later s
  else match s.reach c noUid m.ctx (m.va off) need, s.walksOnce c m.ctx (m.va off) need with
    | .ok r s', some t =>
      if changedFrom m.once (m.va off) t then .fault 5 false s'
      else .ok r (s'.modOp c m.id fun q => { q with once := t :: forgetOnce q.once (m.va off) })
    | x, _ => x

/-- HLOAD_LINE_ARRIVE: the next line of HLOAD `n` of memory core `c` is read at its home and written into the window, and its
granules are set full (R273); one of another package is requested there. -/
def execHloadLineArrive (s : State) : Out :=
  let c := s.ev.c
  match (s.core c).memop s.ev.n with
  | none => .next s
  | some m =>
    if m.op != 0 then .next s
    else match m.nextLine with
      | none => .next s
      | some off =>
        let n := m.lineLen off
        match s.lineReach c m off with
        | .noPhys pa => .fault (.noSuchPhysical pa)
        | .later s' => .next s'
        | .fault kind rap s' => .next (s'.holdOp c m off kind needR rap)
        | .ok r s' =>
          if r.ap == 3 then
            .next ((s'.modOp c m.id fun m => { m with todo := m.todo.map fun o => if o == off then lineSent off else o }).sendHome
              c r (.copyRead (m.job c) off n m.order (.mem r) (.spad c (m.loc + off)) m.uid none))
          else if s'.homeHeld r.ap r.pa n then .next s
          else
            let s' := s'.modCore c fun co => { co with spad := co.spad.put (m.loc + off) (s'.readHome r m.tag n) }
            .next (s'.lineDone c m.id off n 0)

/-- A granted HPUSH reads its source and streams it on the channel of push data (R275, R396). -/
def State.streamPush (s : State) (c : Nat) (m : MemOp) : State :=
  if m.stage != 2 || ((s.core c).ownedIn m.loc m.len).isSome then s
  else match s.placeCore m.slot with
    | some t =>
      (s.modOp c m.id fun m => { m with stage := 3 }).send c t 2
        (.ringData m.slot 0 ((s.core c).spad.bytes m.loc m.len) true (m.job c) true)
    | none => s.modOp c m.id fun m => { m with stage := 4, status := 1 }

/-- HSTORE_LINE_DONE: the next line of HSTORE `n` of memory core `c` is performed at its home (R274), a draft's at its galley
(R351), one of another package there; a granted HPUSH streams its source (R275). -/
def execHstoreLineDone (s : State) : Out :=
  let c := s.ev.c
  match (s.core c).memop s.ev.n with
  | none => .next s
  | some m =>
    if m.op == 2 then .next (s.streamPush c m)
    else if m.op != 1 then .next s
    else match m.nextLine with
      | none => .next s
      | some off =>
        let n := m.lineLen off
        if ((s.core c).ownedIn (m.loc + off) n).isSome then .next s
        else
          let data := (s.core c).spad.bytes (m.loc + off) n
          match s.lineReach c m off with
          | .noPhys pa => .fault (.noSuchPhysical pa)
          | .later s' => .next s'
          | .fault kind rap s' => .next (s'.holdOp c m off kind needW rap)
          | .ok r s' =>
            -- a line of a draft that leaves aperture 0 bars the draft, and is settled without being performed (R354, R355)
            let sent := s'.modOp c m.id fun m => { m with todo := m.todo.map fun o => if o == off then lineSent off else o }
            match m.tag with
            | some t =>
              if r.ap != 0 then
                .next ((match (s'.core c).find m.uid with | some p => s'.barred c p p.pc | none => s').lineDone c m.id off n 7)
              else
                let s' := sent.modCore c fun co => co.modUid m.uid fun p => p.noteHome (homeOf r.pa)
                .next (s'.send c (homeOf r.pa) 1 (.galley r t data { core := c, uid := m.uid } 2 (m.job c) off))
            | none =>
              if r.ap == 3 then .next (sent.sendHome c r (.copyWrite (m.job c) off data (.mem r)))
              else if s'.homeHeld r.ap r.pa n then .next s
              else .next ((s'.writePhys r.ap r.pa data).lineDone c m.id off n 0)

/-- Has an operation nothing left to do? -/
def MemOp.finished (m : MemOp) : Bool := if m.op == 2 then m.stage == 4 else m.todo.isEmpty

/-- MEMCORE_OP_COMPLETE: operation `n` of memory core `c` is complete; a failure counts in the summary of its process (R276,
R277). -/
def execMemcoreOpComplete (s : State) : Out :=
  let c := s.ev.c
  match (s.core c).memop s.ev.n with
  | none => .next s
  | some m =>
    if !m.finished then .next s
    else
      let s := s.modCore c fun co => { co with memops := co.memops.filter fun q => q.id != m.id }
      .next (if m.status == 0 then s
        else s.modCore c fun co => co.modUid m.uid fun p => p.opFailed m.op m.status)

/-- The granules of the lines that have been sent and not yet acknowledged. -/
def MemOp.sentGranules (m : MemOp) : List Nat :=
  (m.todo.filter fun o => decide (2 ^ 40 ≤ o)).flatMap fun o => granulesOf (m.loc + (o - 2 ^ 40)) (m.lineLen (o - 2 ^ 40))

/-- The remaining lines of an operation are abandoned with PARTIAL: HLOAD lines keep their earlier bytes and become full, but for those
whose data is still to come; the slot of an HPUSH is settled (R371, R465). -/
def State.abandonOp (s : State) (c : Nat) (m : MemOp) : State :=
  let kept := m.sentGranules
  let gs := m.owned.filter fun g => !kept.contains g
  let s := s.modOp c m.id fun m =>
    { m with todo := m.todo.filter (fun o => decide (2 ^ 40 ≤ o)), owned := m.owned.filter fun g => kept.contains g, cookie := none,
             status := if m.status == 0 then 7 else m.status, stage := if m.op == 2 then 4 else m.stage }
  let s := if m.op == 2 && m.stage == 2 then s.settlePlace m.slot else s
  s.fillGranules c gs

/-! ### TLBP (R278) -/

/-- The size code of a leaf level (R278). -/
def sizeCode (level : Nat) : Nat := 3 - level

/-- The cached translation that TLBP finds (R278). -/
def State.probeTlb (s : State) (c ctx : Nat) (va : Word) : Option Tlb :=
  ((s.core c).dtlb ++ (kget s.l2 (clusterOf c)).getD []).find? fun t =>
    t.ctx == ctx && t.va == va.toNat / 2 ^ pageBits t.level && decide (clockDiff (s.clockOf c) t.exp < 0)

/-- TLBP (R278). -/
def execTlbp (g : BitVec 4) (b a d : BitVec 5) (s : State) : Out :=
  instr (.tlbp g b a d) s (fun c p => { legal := isMemCore c || p.priv, priv := true, uses := [ux b, ux a, ux d], guard := p.guardBit g 0 })
    fun s c k p =>
    let w := p.xr b
    let va := p.xr a
    let put := fun (p : Proc) (v : Nat) => p.setX d (BitVec.ofNat 64 v)
    if w.getLsbD 63 then .go (s.setProc c k (put p (s.clockOf c).toNat))
    else if bits w.toNat 12 51 != 0 || bits va.toNat 52 12 != 0 then .go (s.setProc c k (put p 0))
    else
      let ctx := if b == 0 then p.ctx.toNat else bits w.toNat 0 12
      match s.probeTlb c ctx va with
      | none => .go (s.setProc c k (put p 0))
      | some t =>
        let v := 2 ^ 63 + sizeCode t.level * 2 ^ 61 + bit t.drec * 2 ^ 60 + t.exp.toNat
        .go (s.setProc c k ((put p v).setE 7 t.leaf))

end Sys2Proof.Machine
end

