-- ==== Sys2Proof/Machine/Proof.lean ====
section
/-! DEFINITION. Sys2Proof/Machine/Proof.lean: PROOF and PVERD (R347, R348), the galley at its homes (R350 to R353), and the
resolution of drafts (R357 to R361). -/

namespace Sys2Proof.Machine

/-! ### PROOF and PVERD -/

/-- Does a residual pass (R347)? |r| and TOL are compared by their encodings, which order as their values do. -/
def residualPasses (r tol : Word) : Bool :=
  let m := r.toNat % 2 ^ 63
  decide (m < 0x7FF0000000000000) && decide (m ≤ tol.toNat)

/-- PROOF (R347). -/
def execProof (g : BitVec 4) (a : BitVec 5) (s : State) : Out :=
  instr (.proof g a) s (fun _ p => { uses := [ux a], guard := p.guardBit g 0 }) fun s c k p =>
    match p.draft with
    | none => .go s
    | some d =>
      let ok := residualPasses (p.xr a) p.record.tol
      .go (s.setProc c k { p with draft := some { d with failed := d.failed || !ok, nproof := min (d.nproof + 1) 65535 } })

/-- The verdict word (R348). -/
def Draft.word (d : Draft) : Nat :=
  2 ^ 63 + bit d.failed * 2 ^ 62 + bit d.quota * 2 ^ 61 + bit d.stfull * 2 ^ 60 + d.nproof % 2 ^ 16 * 2 ^ 32 + d.gused % 2 ^ 32

/-- PVERD (R348). -/
def execPverd (g : BitVec 4) (d : BitVec 5) (s : State) : Out :=
  instr (.pverd g d) s (fun _ p => { uses := [ux d], guard := p.guardBit g 0 }) fun s c k p =>
    .go (s.setProc c k (p.setX d (BitVec.ofNat 64 (match p.draft with
      | some v => v.word
      | none => 0))))

/-! ### Galley writes (R350 to R353) -/

/-- GALLEY_WRITE: packet `n` is a draft's write: it enters the galley of its home and is acknowledged, or the full store drops it
and acknowledges it with a refusal (R350, R352). -/
def execGalleyWrite (s : State) : Out :=
  .next (s.onPacket s.ev.n fun s pk =>
    match pk.body with
    | .galley r tag data who kind job off =>
      match s.atHome pk.dst r data.length with
      | none => none
      | some (r, s) =>
        let h := pk.dst
        let (st, s) := match galleyPut tag (BitVec.ofNat 48 r.exp) r.pa data (s.home h).galley with
          | some l => (0, (s.modHome h fun m => { m with galley := l }).notifyWatch 0 r.pa data.length)
          | none => (2, s)
        some (s.send h who.core 2
          (if kind == 0 then .storeAck who st r.va (BitVec.ofNat 64 off) false 0
           else .copyAck job off data.length st))
    | _ => none)

/-! ### Resolution (R357 to R361) -/

/-- Have a draft's writes and copies, and an accepted tile instruction, drained (R165, R358)? -/
def State.draftQuiet (s : State) (c : Nat) (p : Proc) : Bool :=
  p.sack == 0 && p.replay.isEmpty && !((s.core c).copies.any fun cp => cp.uid == p.uid)
    && !((s.core c).memops.any fun m => m.uid == p.uid && m.op == 1) && !((s.core c).tileq.any fun t => t.uid == p.uid)

/-- The cause of a draft that has settled, 0 for none (R358). -/
def Draft.verdict (d : Draft) : Nat :=
  if d.cause != 0 then d.cause
  else if d.quota then 3
  else if d.stfull then 4
  else if d.nproof == 0 then 2
  else if d.failed then 1
  else 0

/-- Change the draft of process `uid`. -/
def State.modDraft (s : State) (c uid : Nat) (f : Draft → Draft) : State :=
  s.modCore c fun co => co.modUid uid fun p => { p with draft := p.draft.map f }

/-- A draft has committed: its process ends with status OK (R359). -/
def State.commitDraft (s : State) (c : Nat) (p : Proc) (d : Draft) : State :=
  let q := { p.counted s.now (.quit 0) with retired := p.retired + 1 }
  let s := (s.modCore c fun co => { co with issued := s.now + 1 }).endProc c q { kind := 0, commit := true, gused := d.gused }
  s.modCore c fun co => { co with reserved := co.reserved.erase p.uid }

/-- Send a request to every home that has received galley writes of a draft (R357). -/
def State.toHomes (s : State) (c : Nat) (homes : List Nat) (b : Body) : State :=
  homes.foldl (fun s h => s.send c h 0 b) s

/-- A draft enters DISCARDING's second part: every home drops the tag's entries (R361). -/
def State.dropGalley (s : State) (c : Nat) (p : Proc) (d : Draft) : Option Out :=
  if d.homes.isEmpty then s.discarded c p d
  else
    let s := s.modDraft c p.uid fun _ => { d with state := .discarding, acks := d.homes.length }
    some (.next (s.toHomes c d.homes (.galleyDrop p.tag { core := c, uid := p.uid })))

/-- DRAFT_SETTLED: the draft in slot `k` of core `c` (a park record from 16 up) has drained: it prepares, or its galley is
discarded (R357, R358). -/
def execDraftSettled (s : State) : Out :=
  let c := s.ev.c
  match (s.core c).procAt s.ev.k with
  | none => .next s
  | some p =>
    match p.draft with
    | none => .next s
    | some d =>
      if !s.draftQuiet c p || d.acks != 0 then .next s
      else if d.state == .discarding then (s.dropGalley c p d).getD (.next s)
      else if d.state != .settling then .next s
      else
        let v := d.verdict
        if v != 0 then .next (s.modDraft c p.uid fun d => { d with cause := v, state := .discarding })
        else if d.homes.isEmpty then .next (s.commitDraft c p d)
        else
          let s := s.modDraft c p.uid fun d => { d with state := .preparing, acks := d.homes.length, lapse := false }
          .next (s.toHomes c d.homes (.galleyPrep p.tag { core := c, uid := p.uid }))

/-- The lines of a tag's entries. -/
def Home.tagLines (h : Home) (tag : Nat × Nat) : List (Nat × (Nat × Nat)) :=
  (h.galley.filter fun g => g.tag == tag).map fun g => (g.seg / 4, tag)

/-- GALLEY_PREPARE: packet `n` asks a home to check a tag's entries and to lock their lines, or to answer LAPSE (R359). -/
def execGalleyPrepare (s : State) : Out :=
  .next (s.onPacket s.ev.n fun s pk =>
    match pk.body with
    | .galleyPrep tag who =>
      let h := s.home pk.dst
      if (h.galley.filter fun g => g.tag == tag).any fun g => s.lapses (agentDie pk.dst) g.exp.toNat then
        some (s.send pk.dst pk.src 2 (.galleyPrepAns who false))
      else
        some ((s.modHome pk.dst fun h => { h with locked := h.locked ++ h.tagLines tag }).send pk.dst pk.src 2
          (.galleyPrepAns who true))
    | _ => none)

/-- GALLEY_PREPARE_ANSWER: packet `n` brings a home's answer; after the last one the draft publishes, or is discarded with cause
LAPSE (R357, R359). -/
def execGalleyPrepareAnswer (s : State) : Out :=
  .next (s.onPacket s.ev.n fun s pk =>
    match pk.body with
    | .galleyPrepAns who ok =>
      match (s.core who.core).find who.uid with
      | none => some s
      | some p =>
        match p.draft with
        | none => some s
        | some d =>
          if d.state != .preparing then some s
          else
            let lapse := d.lapse || !ok
            if d.acks != 1 then
              some (s.modDraft who.core who.uid fun d => { d with acks := d.acks - 1, lapse := lapse })
            else if lapse then
              some (s.modDraft who.core who.uid fun d => { d with acks := 0, cause := 7, state := .discarding })
            else
              let s := s.modDraft who.core who.uid fun d => { d with acks := d.homes.length, state := .publishing }
              some (s.toHomes who.core d.homes (.galleyPub p.tag who true))
    | _ => none)

/-- Write the masked bytes of an entry to memory (R359). -/
def State.publishEntry (s : State) (g : Galley) : State :=
  g.data.foldl (fun s e => s.writePhys 0 (g.seg * 64 + e.1) [e.2]) s

/-- A home without the entries and locks of a tag. -/
def Home.without (h : Home) (tag : Nat × Nat) : Home :=
  { h with galley := h.galley.filter (fun g => g.tag != tag), locked := h.locked.filter fun l => l.2 != tag }

/-- GALLEY_PUBLISH: packet `n`: a home writes a tag's masked bytes, frees the entries, releases the lines and acknowledges
(R359). -/
def execGalleyPublish (s : State) : Out :=
  .next (s.onPacket s.ev.n fun s pk =>
    match pk.body with
    | .galleyPub tag who _ =>
      let gs := (s.home pk.dst).galley.filter fun g => g.tag == tag
      let s := gs.foldl State.publishEntry s
      some ((s.modHome pk.dst fun h => h.without tag).send pk.dst pk.src 2 (.galleyPubAck who))
    | _ => none)

/-- GALLEY_PUBLISH_ACK: packet `n`; the last acknowledgement commits the draft (R359). -/
def execGalleyPublishAck (s : State) : Out :=
  .next (s.onPacket s.ev.n fun s pk =>
    match pk.body with
    | .galleyPubAck who =>
      match (s.core who.core).find who.uid with
      | none => some s
      | some p =>
        match p.draft with
        | none => some s
        | some d =>
          if d.state != .publishing then some s
          else if d.acks == 1 then some (s.commitDraft who.core p d)
          else some (s.modDraft who.core who.uid fun d => { d with acks := d.acks - 1 })
    | _ => none)

/-- GALLEY_DISCARD: packet `n`: a home drops a tag's entries (R361). -/
def execGalleyDiscard (s : State) : Out :=
  .next (s.onPacket s.ev.n fun s pk =>
    match pk.body with
    | .galleyDrop tag who =>
      some ((s.modHome pk.dst fun h => h.without tag).send pk.dst pk.src 2 (.galleyDropAck who))
    | _ => none)

/-- GALLEY_DISCARD_ACK: packet `n`; after the last acknowledgement the draft's resources are freed and its exact record is written,
or it ends as it must (R361, R363). -/
def execGalleyDiscardAck (s : State) : Out :=
  s.onPacketOut s.ev.n fun s pk =>
    match pk.body with
    | .galleyDropAck who =>
      match (s.core who.core).find who.uid with
      | none => some (.next s)
      | some p =>
        match p.draft with
        | none => some (.next s)
        | some d =>
          if d.state != .discarding || d.acks == 0 then some (.next s)
          else if d.acks == 1 then s.discarded who.core p d
          else some (.next (s.modDraft who.core who.uid fun d => { d with acks := d.acks - 1 }))
    | _ => none

end Sys2Proof.Machine
end

