-- ==== Sys2Proof/Machine/Leases.lean ====
section
/-! DEFINITION. Sys2Proof/Machine/Leases.lean: how a waiting walk ends (R285, R286, R368), cached translations that expire (R288),
renewals (R294, R295, R325), and the lease clock (R289, R291). -/

namespace Sys2Proof.Machine

/-! ### Walks -/

/-- Cycles of one lease count (R289). -/
def leaseCycles : Nat := 1280

/-- The walk that the process in slot `k`, or from 16 up in a park record, waits for, when it is not suspended: the process, its
instruction, the address, the need and the source. -/
def Core.walkAt (co : Core) (k : Nat) : Option (Proc × Instr × Word × Nat × Nat) :=
  let sl := co.slot k
  let live := if k < 16 then sl.state == .blocked || (sl.state == .parking && !sl.susp)
    else (co.parked[k - 16]?).any fun r => !r.susp && !r.ready
  match (co.procAt k).filter fun _ => live with
  | some p =>
    match p.wait with
    | some w =>
      (match w.kind with
       | .walk va need source => some (p, w.instr, va, need, source)
       | _ => none)
    | none => none
  | none => none

/-- Who waits for the walk of a page from a cluster: agents and processes. -/
def State.walkWaiters (s : State) (q ctx page : Nat) : List Who :=
  (s.cores.filter fun e => clusterOf e.1 == q).flatMap fun e =>
    (List.range (16 + e.2.parked.length)).filterMap fun k =>
      match e.2.walkAt k with
      | some (p, _, va, _, _) =>
        if p.ctx.toNat == ctx && va.toNat / 65536 == page then some { core := e.1, uid := p.uid } else none
      | none => none

/-- The walk of an address from a cluster. -/
def State.walkOf (s : State) (q ctx : Nat) (va : Word) : Option Walk :=
  (s.walksAt q).find? fun w => w.ctx == ctx && w.page == va.toNat / 65536

/-- A walk has returned: its walker takes the next one (R287). -/
def State.endWalk (s : State) (q ctx : Nat) (va : Word) : State :=
  let left := (s.walksAt q).filter fun w => !(w.ctx == ctx && w.page == va.toNat / 65536)
  ({ s with walkers := kset s.walkers q left } : State).runWalks q

/-- Which of the single-use translations of its process a walk serves (see `State.lookup`). -/
def walkUse (i : Instr) (source : Nat) : Nat :=
  if source != 0 then 0 else match i with | .tret _ _ => 2 | _ => 1

/-- The address, value, width and ordering of an AMO.store (R310, R312). -/
def Proc.storeArgs (p : Proc) : Instr → Option (Word × Word × Bool × Bool)
  | .amoStore _ r w b a => some (p.xr a, p.xr b, w == 1, r == 1)
  | _ => none

/-- The walk of a parked process faults: it stays parked, suspended (R194, R368, R403). -/
def State.suspendParked (s : State) (c : Nat) (p : Proc) (source need kind : Nat) (rap : Bool) (va : Word) : State :=
  let (s, cookie) := s.raiseFault c p.uid source 0 kind need rap (s.selfWord 0 p) va p.pc
  let s := s.traceProc c 0 p 0x34 kind va (BitVec.ofNat 64 cookie.toNat)
  s.modCore c fun co => { co with parked := co.parked.map fun r =>
    if r.proc.uid == p.uid then { r with susp := true, ready := false } else r }

/-- A walk ends in a fault for a process that waits for it (R286, R312, R368). One that is being parked issues its instruction again,
and so does a parked AMO.store; any other parked process is suspended where it is. -/
def State.walkFault (s : State) (who : Who) (kind : Nat) (rap : Bool) : State :=
  let c := who.core
  match (s.core c).find who.uid with
  | none => s
  | some p =>
    match p.wait with
    | some { instr := i, kind := .walk va need source } =>
      (match (s.core c).blockedSlot p.uid, (s.core c).slotOf p.uid, p.storeArgs i with
       | some k, _, some (a, v, wide, rel) =>
         if source == 1 then s.storeFault c k p i a v wide rel kind rap else s.suspend c k p i source va need kind rap
       | some k, _, none => s.suspend c k p i source va need kind rap
       | none, none, none => s.suspendParked c p source need kind rap va
       | none, none, some _ => if source == 1 then s.reissue c p.uid else s.suspendParked c p source need kind rap va
       | none, some _, _ => s.reissue c p.uid)
    | _ => s

/-- The need of a process that waits for a walk. -/
def State.needOf (s : State) (who : Who) : Option Nat :=
  match s.waitOf who.core who.uid with
  | some (.walk _ need _) => some need
  | _ => none

/-- WALK_COMPLETE: the walk that the process in slot `k` of core `c` (a park record from 16 up) waits for returns (R285). A merged walk
returns to every request of its page from its cluster (R287): the translation is cached and their instructions are issued again, or
those with the same need fault, and the others walk again; a translation of class 0 serves this one process (R290). DESIGN CHOICE (log
entry 40): a merged walk asks for what the process in slot `k` needs. -/
def execWalkComplete (s : State) : Out :=
  let c := s.ev.c
  match (s.core c).walkAt s.ev.k with
  | none => .next s
  | some (p, i, va, need, source) =>
    let q := clusterOf c
    let ctx := p.ctx.toNat
    match (s.walkOf q ctx va).bind (·.run) with
    | none => .next s
    | some (c0, start) =>
      if (s.die (agentDie c)).skewed || start + leaseCycles ≤ s.now then .next s
      else
        let ws := s.walkWaiters q ctx (va.toNat / 65536)
        match s.walk ctx va need c0 with
        | .noPhys pa => .fault (.noSuchPhysical pa)
        | .later => .next s
        | .fault kind rap s' =>
          .next (ws.foldl (fun s w =>
            if s.needOf w == some need then s.walkFault w kind rap else s.reissue w.core w.uid) (s'.endWalk q ctx va))
        | .ok t cached s' =>
          let s' := s'.endWalk q ctx va
          if cached then
            .next (ws.foldl (fun s w =>
              let use := if w.core == c && w.uid == p.uid then walkUse i source
                else match s.waitOf w.core w.uid with
                  | some (.walk _ _ src) => walkUse fetchInstr src
                  | _ => 0
              (s.cacheTlb w.core w.uid use t true).reissue w.core w.uid) s')
          else
            .next (ws.foldl (fun s w => s.reissue w.core w.uid) (s'.cacheTlb c p.uid (walkUse i source) t false))

/-- WALK_RESTART: a walk of slot `k` of core `c` that has lasted one lease count is abandoned and restarted: c0 is sampled afresh
(R285). -/
def execWalkRestart (s : State) : Out :=
  let c := s.ev.c
  match (s.core c).walkAt s.ev.k with
  | none => .next s
  | some (p, _, va, _, _) =>
    let q := clusterOf c
    let ctx := p.ctx.toNat
    match s.walkOf q ctx va with
    | none => .next s
    | some w =>
      if (w.run.any fun r => decide (r.2 + leaseCycles ≤ s.now)) && !(s.die (agentDie c)).skewed then
        let fresh := fun x : Walk => if x == w then { x with run := some (s.clockOf c, s.now) } else x
        .next (({ s with walkers := kset s.walkers q ((s.walksAt q).map fresh) } : State).countWalk w.core)
      else .next s

/-- Walks that no process waits for any more are given up, and free walkers take what waits (R287). -/
def State.pruneWalks (s : State) : State :=
  let live := fun (q : Nat) (w : Walk) => !(s.walkWaiters q w.ctx w.page).isEmpty
  let s' := { s with walkers := s.walkers.map fun e => (e.1, e.2.filter (live e.1)) }
  s.walkers.foldl (fun s e => s.runWalks e.1) s'

/-- A translation that is still alive by a clock. -/
def Tlb.alive (clock : BitVec 48) (t : Tlb) : Bool := decide (clockDiff clock t.exp < 0)

/-- TRANSLATION_EXPIRY: agent `n` and its cluster drop the translations whose expiry the die clock has reached (R288). -/
def execTranslationExpiry (s : State) : Out :=
  let c := s.ev.n
  let now := s.clockOf c
  let s := s.modCore c fun co => { co with itlb := co.itlb.filter (Tlb.alive now), dtlb := co.dtlb.filter (Tlb.alive now) }
  .next { s with l2 := kset s.l2 (clusterOf c) (((kget s.l2 (clusterOf c)).getD []).filter (Tlb.alive now)) }

/-! ### Renewal (R294) -/

/-- The outcome of a renewal: nothing to do or the same entry, a changed entry, a fault, later, or no such address. -/
inductive Renewal where
  | same (s : State)
  | changed (s : State)
  | fault (kind : Nat) (rap : Bool) (s : State)
  | later
  | noPhys (pa : Nat)
  deriving DecidableEq

/-- Walk again a translation of an engine's or memory core's operation that is within the margin of R294. -/
def State.renewWalk (s : State) (c ctx : Nat) (va : Word) (need : Nat) : Renewal :=
  match s.lookup c noUid ctx va need 0 with
  | none => .same s
  | some t =>
    if !s.renewDue c ctx va need then .same s
    else match s.ownWalk c ctx va need with
      | .noPhys pa => .noPhys pa
      | .later => .later
      | .fault kind rap s' => .fault kind rap s'
      | .ok t' cached s' =>
        let other := fun e : Tlb => !(e.ctx == t.ctx && e.va == t.va && e.level == t.level)
        let s' := s'.modCore c fun co => { co with dtlb := co.dtlb.filter other }
        let s' := { s' with l2 := kset s'.l2 (clusterOf c) (((kget s'.l2 (clusterOf c)).getD []).filter other) }
        let s' := if cached then s'.cacheTlb c noUid 0 t' true else s'
        if leafFields t'.leaf == leafFields t.leaf then .same s' else .changed s'

/-- The requests that a copy makes next, with their needs. -/
def Copy.nextVas (cp : Copy) : List (Word × Nat) :=
  match cp.turn with
  | some (_, off, _) =>
    (if isLocal (cp.d.src off) then [] else [(cp.d.src off, needR)])
      ++ (if cp.d.toRing || isLocal (cp.d.dst off) then [] else [(cp.d.dst off, needW)])
  | none => []

/-- Renew the translations of a copy: units whose entry has changed or whose walk faults go to the fix-up list (R325). -/
def State.renewCopy (s : State) (c : Nat) (cp : Copy) : List (Word × Nat) → Out
  | [] => .next s
  | (va, need) :: vs =>
    match s.renewWalk c cp.ctx va need, cp.turn with
    | .noPhys pa, _ => .fault (.noSuchPhysical pa)
    | .later, _ => .next s
    | .same s', _ => s'.renewCopy c cp vs
    | .changed s', some (entry, off, lim) => .next (s'.fixup c cp entry off lim 5 need false va)
    | .changed s', none => .next s'
    | .fault kind rap s', some (entry, off, lim) => .next (s'.fixup c cp entry off lim kind need rap va)
    | .fault _ _ s', none => .next s'

/-- Renew the translation of a memory-core operation's next line (R294). -/
def State.renewOp (s : State) (c : Nat) (m : MemOp) : Out :=
  match m.nextLine with
  | none => .next s
  | some off =>
    let need := if m.op == 0 then needR else needW
    match s.renewWalk c m.ctx (m.va off) need with
    | .noPhys pa => .fault (.noSuchPhysical pa)
    | .later => .next s
    | .same s' => .next s'
    | .changed s' => .next (s'.holdOp c m off 5 need false)
    | .fault kind rap s' => .next (s'.holdOp c m off kind need rap)

/-- The watches of a waiting ALT that are to be renewed: within the margin, or, for a translation of class 0, once a count has passed
(log entry 34). -/
def State.watchesDue (s : State) (c : Nat) (p : Proc) : List Watch :=
  if p.inAlt then (s.watchesOf p.uid).filter fun w =>
    decide (clockDiff w.exp (s.clockOf c) < (if bits w.leaf.toNat 8 4 == 0 then 0 else 8))
  else []

/-- Give a renewed expiry to the watches of a process on an address. -/
def State.extendWatch (s : State) (uid : Nat) (va : Word) (leaf : Word) (exp : BitVec 48) : State :=
  let f := fun w : Watch => if w.who.uid == uid && w.va == va then { w with leaf := leaf, exp := exp } else w
  { s with homes := s.homes.map fun h => (h.1, { h.2 with watches := h.2.watches.map f }), monitors := s.monitors.map f }

/-- Renew one watch of a waiting ALT (R295): a fault or a change suspends it. -/
def State.renewWatch (s : State) (c k : Nat) (p : Proc) (w : Watch) : Out :=
    let stop := fun (s : State) (kind : Nat) (rap : Bool) =>
      let s := s.endWatches p.uid
      match p.wait with
      | some wt =>
        if k < 16 && (s.slot c k).state == .blocked then s.suspend c k p wt.instr 5 w.va needR kind rap
        else if k < 16 then s.reissue c p.uid
        else s.suspendParked c p 5 needR kind rap w.va
      | none => s
    match s.ownWalk c p.ctx.toNat w.va needR with
    | .noPhys pa => .fault (.noSuchPhysical pa)
    | .later => .next s
    | .fault kind rap s' => .next (stop s' kind rap)
    | .ok t cached s' =>
      let s' := if cached then s'.cacheTlb c p.uid 0 t true else s'
      if leafFields t.leaf == leafFields w.leaf then .next (s'.extendWatch p.uid w.va t.leaf t.exp)
      else .next (stop s' 5 false)

/-- LEASE_RENEWAL: operation `n` of core `c` walks again: a copy or memory-core operation by its number, or, from 2^32 up, the ALT in
slot or park record `n` - 2^32 (R294, R295). -/
def execLeaseRenewal (s : State) : Out :=
  let c := s.ev.c
  let o := s.ev.n
  if 2 ^ 32 ≤ o then
    match (s.core c).procAt (o - 2 ^ 32) with
    | none => .next s
    | some p =>
      match s.watchesDue c p with
      | w :: _ => s.renewWatch c (o - 2 ^ 32) p w
      | [] => .next s
  else match (s.core c).copy o, (s.core c).memop o with
    | some cp, _ => if cp.active then s.renewCopy c cp cp.nextVas else .next s
    | none, some m => s.renewOp c m
    | none, none => .next s

/-! ### The lease clock (R289, R291) -/

/-- Every cached translation of a die is dropped, and its walkers stop (R291): the walks wait, and sample the clock afresh when they
resume. -/
def State.dropTlbs (s : State) (d : Nat) : State :=
  { s with
    cores := s.cores.map fun e => (if agentDie e.1 == d then (e.1, { e.2 with itlb := [], dtlb := [], once := [] }) else e),
    l2 := s.l2.filter fun e => clusterDie e.1 != d,
    walkers := s.walkers.map fun e =>
      if clusterDie e.1 == d then (e.1, e.2.map fun w => { w with run := none }) else e }

/-- The record of a skew fault (R291); die 4 or 5 is I/O die 0 or 1. -/
def State.skewRecord (s : State) (d : Nat) : State := s.out (.record [BitVec.ofNat 64 d, Config.freeWord (2 * s.tick + 1)])

/-- A tick of value `v` reaches a compute die: its copy steps, or, more than two counts away, raises a skew fault (R289, R291). -/
def State.tickDie (s : State) (d : Nat) (v : BitVec 48) : State :=
  let die := s.die d
  if die.skewed then s
  else if 2 < (clockDiff die.clock v).natAbs then ((s.modDie d fun x => { x with skewed := true }).dropTlbs d).skewRecord d
  else s.modDie d fun x => { x with clock := v }

def State.ioClock (s : State) (d : Nat) : BitVec 48 × Bool := (s.ioClocks[d]?).getD (0, false)

def State.setIoClock (s : State) (d : Nat) (x : BitVec 48 × Bool) : State := { s with ioClocks := s.ioClocks.setIfInBounds d x }

/-- A tick of value `v` reaches an I/O die (R289, R291). -/
def State.tickIo (s : State) (d : Nat) (v : BitVec 48) : State :=
  let x := s.ioClock d
  if x.2 then s
  else if 2 < (clockDiff x.1 v).natAbs then (s.setIoClock d (x.1, true)).skewRecord (4 + d)
  else s.setIoClock d (v, false)

/-- A tick of value `v` reaches the dies, compute dies 0 to 3 and I/O dies 4 and 5, for which `f` holds. -/
def State.tickDies (s : State) (f : Nat → Bool) (v : BitVec 48) : State :=
  let s := [0, 1, 2, 3].foldl (fun (s : State) d => if f d then s.tickDie d v else s) s
  [0, 1].foldl (fun (s : State) d => if f (4 + d) then s.tickIo d v else s) s

/-- The clock copy of compute die 0 to 3, or of I/O die 4 or 5. -/
def State.copyOf (s : State) (d : Nat) : BitVec 48 := if d < 4 then (s.die d).clock else (s.ioClock (d - 4)).1

/-- LEASE_TICK: with `n` below 64, the reference steps and the dies in mask `n` step with it; a die that is already one count behind
steps in any case. From 64 up, the tick on its way reaches the dies in mask `n` - 64 (R289). With the flag, which only the outside
sets, the copy of die `n` drifts to `w` (R291; log entry 54). -/
def execLeaseTick (s : State) : Out :=
  let n := s.ev.n
  if s.ev.flag then
    let w : BitVec 48 := s.ev.w.truncate 48
    .next (if n < 4 then s.modDie n fun x => { x with clock := w } else s.setIoClock (n - 4) (w, (s.ioClock (n - 4)).2))
  else if 64 ≤ n then .next (s.tickDies (fun d => (n - 64) / 2 ^ d % 2 == 1) s.clock)
  else if s.now < s.clockAt + leaseCycles then .next s
  else
    let v := s.clock + 1
    .next (({ s with clock := v, clockAt := s.now } : State).tickDies (fun d => n / 2 ^ d % 2 == 1 || s.copyOf d + 1 != v) v)

/-- LEASE_RESYNC: compute die `n`, or I/O die `n` - 4, is resynchronised; the walks of a compute die resume (R291). -/
def execLeaseResync (s : State) : Out :=
  let d := s.ev.n
  if 4 ≤ d then
    if (s.ioClock (d - 4)).2 then .next (s.setIoClock (d - 4) (s.clock, false)) else .next s
  else if (s.die d).skewed then
    let s := s.modDie d fun x => { x with clock := s.clock, skewed := false }
    .next ((s.walkers.filter fun e => clusterDie e.1 == d).foldl (fun s e => s.runWalks e.1) s)
  else .next s

end Sys2Proof.Machine
end

