-- ==== Sys2Proof/Machine/Faults.lean ====
section
/-! DEFINITION. Sys2Proof/Machine/Faults.lean: fault records to the pager and its wakes (R368 to R372). -/

namespace Sys2Proof.Machine

/-! ### Fault records (R369) -/

/-- Does the port belong to a privileged owner and receive fault records (R369)? -/
def State.pagerPort (s : State) (d : Nat) : Option (Port × Proc) :=
  let c := pagerOf d
  if s.fenced c then none
  else match s.port c 0, (s.core c).owner 0 with
    | some po, some p =>
      if p.priv && (po.state == 1 || po.state == 3) && po.type == 1 && po.disp.isNone then some (po, p) else none
    | _, _ => none

/-- Can the pager's port grant a credit now (R202)? -/
def State.pagerCredit (s : State) (d : Nat) (po : Port) : Bool :=
  if po.buffered then decide (po.held.length + po.owed.length < po.depth)
  else po.held.isEmpty && po.owed.isEmpty && ((s.core (pagerOf d)).receiver 0).isSome

/-- Change outstanding fault `f` of an agent. -/
def Core.modFault (co : Core) (f : Nat) (g : Outstanding → Outstanding) : Core :=
  { co with faults := co.faults.modify f g }

/-- FAULT_RECORD_SEND: outstanding fault `n` of agent `c` is delivered against a credit to core port 0 of its die's pager; without an
owner that receives it the record is held (R369). -/
def execFaultRecordSend (s : State) : Out :=
  let c := s.ev.c
  match (s.core c).faults[s.ev.n]? with
  | none => .next s
  | some f =>
    if f.stage != 0 then .next s
    else
      let d := agentDie c
      match s.pagerPort d with
      | none => .next (s.modCore c fun co => co.modFault s.ev.n fun f => { f with stage := 1, next := s.now + 1024 })
      | some (po, _) =>
        if !s.pagerCredit d po then .next s
        else
          let n := s.ev.n
          let s := s.setPort (pagerOf d) 0
            { po with held := po.held ++ [{ sender := 0, words := f.msg, self := f.msg[1]?.getD 0 }] }
          .next (s.modCore c fun co => co.modFault n fun f => { f with stage := 2 })

/-- FAULT_RECORD_RETRY: 1,024 cycles after its last try, held fault `n` of agent `c` asks for a credit again (R369). -/
def execFaultRecordRetry (s : State) : Out :=
  let c := s.ev.c
  match (s.core c).faults[s.ev.n]? with
  | none => .next s
  | some f =>
    if f.stage == 1 && decide (f.next ≤ s.now) then .next (s.modCore c fun co => co.modFault s.ev.n fun f => { f with stage := 0 })
    else .next s

/-! ### Wakes (R370 to R372) -/

/-- ACTION and COOKIE of a wake (R370). -/
def wakeAction (ws : List Word) : Nat := bits (ws.headD 0).toNat 40 8
def wakeCookie (ws : List Word) : Half := BitVec.ofNat 32 (bits (ws.headD 0).toNat 0 32)

/-- The outstanding fault that a wake names (R371). -/
def Core.faultOf (co : Core) (ws : List Word) : Option Outstanding :=
  co.faults.find? fun f => f.cookie == wakeCookie ws && f.msg[1]? == ws[1]?

/-- Forget an outstanding fault. -/
def Core.forget (co : Core) (f : Outstanding) : Core := { co with faults := co.faults.filter fun g => g.cookie != f.cookie }

/-- Is the fault that of a copy or of an accepted memory-core operation (R371)? -/
def Outstanding.ofEngine (f : Outstanding) : Bool := f.source == 3 || (f.source == 4 && f.obj != 0)

/-- The operation of an accepted memory-core fault. -/
def State.faultOp (s : State) (c : Nat) (f : Outstanding) : Option MemOp := (s.core c).memop (f.obj - 1)

/-- RETRY (R371, R372): the slot issues again, or the stores, units or lines are sent again. -/
def State.wakeRetry (s : State) (c : Nat) (f : Outstanding) : State :=
  let s := s.modCore c fun co => co.forget f
  if f.source == 2 then
    let s := s.modCore c fun co => co.modUid f.uid fun p =>
      { p with replay := p.replay.map fun q => if q.cookie == f.cookie then { q with go := true } else q }
    match (s.core c).find f.uid with
    | some p => s.replayGo c p
    | none => s
  else if f.source == 3 then
    s.modCopy c f.obj fun cp => { cp with fixups := cp.fixups.map fun e => if e.cookie == f.cookie then { e with go := true } else e }
  else if f.ofEngine then s.modOp c (f.obj - 1) fun m => { m with cookie := none }
  else s.reissue c f.uid

/-- The process of a fault ends with FAULT at its next instruction boundary (R367, R371). Its TPC is the instruction whose request faulted,
or the next one to issue for a replayed store or a copy. -/
def State.killProc (s : State) (c : Nat) (p : Proc) (f : Outstanding) : State :=
  let va := f.msg[2]?.getD 0
  let own := f.source == 0 || f.source == 1 || f.source == 5 || (f.source == 4 && f.obj == 0)
  let next := match s.faultOp c f, p.wait with
    | some m, _ => if f.ofEngine && f.source == 4 then m.pc else p.pc
    | none, some w => if own || p.stoppable then p.pc else p.pc + instrLen w.instr
    | none, none => p.pc
  let q := { p with dying := 2, diePc := next, dieVa := va }
  let s := s.modCore c fun co => co.modUid p.uid fun _ => q
  if p.stoppable then s.stopProc c q else s

/-- ABANDON of a copy's entry or of an operation's remaining lines (R326, R371). -/
def State.abandonEntry (s : State) (c : Nat) (f : Outstanding) : State :=
  if f.source == 3 then
    match (s.core c).copy f.obj with
    | none => s
    | some cp =>
      match cp.fixups.find? fun e => e.cookie == f.cookie with
      | none => s
      | some e =>
        (s.modCopy c cp.id fun cp => { cp with fixups := cp.fixups.filter fun e => e.cookie != f.cookie }).abandonCopy
          c cp.id e.off e.len 7
  else match s.faultOp c f with
    | some m => s.abandonOp c m
    | none => s

/-- KILL (R371): an ended process's copy or operation is abandoned instead. -/
def State.wakeKill (s : State) (c : Nat) (f : Outstanding) : State :=
  let s := s.modCore c fun co => co.forget f
  match (s.core c).find f.uid with
  | none => if f.ofEngine then s.abandonEntry c f else s
  | some p =>
    let s := if f.source == 4 && f.obj != 0 then s.abandonEntry c f else s
    s.killProc c p f

/-- The OP of an HLOAD or HSTORE. -/
def memOpCode : Instr → Nat
  | .hstore _ _ _ _ => 1
  | _ => 0

/-- An HLOAD or HSTORE that faulted before acceptance retires without effect and records PARTIAL (R371). -/
def State.retireFaulted (s : State) (c : Nat) (p : Proc) : State :=
  match p.wait with
  | none => s
  | some w =>
    let q := (p.opFailed (memOpCode w.instr) 7).retire s.now w.instr (p.pc + instrLen w.instr)
    (s.modCore c fun co => co.modUid p.uid fun _ => { q with wait := some w }).reissue c p.uid

/-- ABANDON (R371). -/
def State.wakeAbandon (s : State) (c : Nat) (f : Outstanding) : State :=
  if f.ofEngine then (s.modCore c fun co => co.forget f).abandonEntry c f
  else if f.source == 4 then
    let s := s.modCore c fun co => co.forget f
    match (s.core c).find f.uid with
    | some p => s.retireFaulted c p
    | none => s
  else s.wakeKill c f

/-- The trace record of a wake that reaches a suspended process (R403). -/
def State.traceWake (s : State) (c : Nat) (f : Outstanding) (action : Nat) : State :=
  let co := s.core c
  let down := match co.slotOf f.uid with
    | some k => (co.slot k).state == .suspended || ((co.slot k).state == .parking && (co.slot k).susp)
    | none => co.parked.any fun r => r.proc.uid == f.uid && r.susp
  match (co.find f.uid).filter fun _ => down && !f.ofEngine && f.source != 2 with
  | some p => s.traceProc c (co.slotFor p.uid) p 0x34 (0x80 + action) 0 (BitVec.ofNat 64 f.cookie.toNat)
  | none => s

/-- Take a wake of a given ACTION from packet `n`; one that matches no outstanding fault is discarded (R371). -/
def wakeEvent (ok : Nat → Bool) (f : State → Nat → Outstanding → State) (s : State) : Out :=
  .next (s.onPacket s.ev.n fun s pk =>
    match pk.body with
    | .wake ws =>
      if !ok (wakeAction ws) then none
      else match (s.core pk.dst).faultOf ws with
        | some o => some (if wakeAction ws == 0 || 3 < wakeAction ws then s else f (s.traceWake pk.dst o (wakeAction ws)) pk.dst o)
        | none => some s
    | _ => none)

/-- WAKE_RETRY: packet `n` is a wake with ACTION 1 (R371). -/
def execWakeRetry (s : State) : Out := wakeEvent (fun a => a == 1) State.wakeRetry s

/-- WAKE_KILL: packet `n` is a wake with ACTION 2 (R371). -/
def execWakeKill (s : State) : Out := wakeEvent (fun a => a == 2) State.wakeKill s

/-- WAKE_ABANDON: packet `n` is a wake with ACTION 3, or with a reserved ACTION, which is discarded (R371). -/
def execWakeAbandon (s : State) : Out := wakeEvent (fun a => a != 1 && a != 2) State.wakeAbandon s

end Sys2Proof.Machine
end

