-- ==== Sys2Proof/Machine/Preempt.lean ====
section
/-! DEFINITION. Sys2Proof/Machine/Preempt.lean: pre-emption (R374 to R384): PREEMPT, the save of a context on a core and its
resume. -/

namespace Sys2Proof.Machine

/-! ### The descriptor and the save area (R379, R384) -/

/-- Bytes of the save area for one core. -/
def saveSize : Nat := 0x80000

/-- Fields of the descriptor of R384. -/
def saveCtx (d : Word) : Nat := bits d.toNat 0 12
def saveFirst (d : Word) : Nat := bits d.toNat 12 13
def saveCount (d : Word) : Nat := bits d.toNat 25 13

/-- Is a descriptor or a base refused, whoever asks (R384)? -/
def saveBad (d base : Word) : Bool :=
  bits d.toNat 38 26 != 0 || saveCount d == 0 || decide (3968 < saveFirst d + saveCount d) || base.getLsbD 63
    || base.toNat % 65536 != 0

/-- The vcores of the range, with their parts of the save area. -/
def saveRange (d base : Word) : List (Nat × Nat) :=
  (List.range (saveCount d)).map fun i => (saveFirst d + i, base.toNat + saveSize * i)

/-- Where a byte of the save area lies: at a physical address, nowhere that a save may use, or behind a table that is locked at its home
(R359). -/
inductive SaveAt where
  | at (pa : Nat) (s : State)
  | bad
  | later

/-- The place of a byte of the save area: the host names it, PREEMPT's issuer translates it (R384, R438). -/
def State.saveAddr (s : State) (octx : Option Nat) (va : Nat) : SaveAt :=
  match octx with
  | none => if va < hbmSize then .at va s else .bad
  | some ctx =>
    match s.walk ctx (BitVec.ofNat 64 va) needW (s.clockOf 0) with
    | .ok t _ s' => if leafAp t.leaf == 0 then .at (t.pa (BitVec.ofNat 64 va)) s' else .bad
    | .later => .later
    | _ => .bad

/-- Write bytes of one page of the save area, line by line: watchers see them as any write (R295). -/
def State.putSave (s : State) (octx : Option Nat) (va : Nat) (data : List Byte) : State :=
  match s.saveAddr octx va with
  | .at pa s => (List.range ((data.length + 255) / 256)).foldl (fun (s : State) i =>
      s.writePhys 0 (pa + 256 * i) ((data.drop (256 * i)).take 256)) s
  | _ => s

/-- Is every page of the save area there (R384)? With the accessed and dirty bits of the walks. -/
def State.saveMapped (s : State) (octx : Option Nat) : List Nat → SaveAt
  | [] => .at 0 s
  | va :: vas => match s.saveAddr octx va with
    | .at _ s => s.saveMapped octx vas
    | x => x

/-- The pages of a save area. -/
def savePages (d base : Word) : List Nat := (List.range (8 * saveCount d)).map fun i => base.toNat + 65536 * i

/-- Bytes of the region that are written: the number is free (log entry 14). -/
def State.saveBytes (s : State) : Nat := 64 + (Config.freeWord (2 * s.tick)).toNat % (saveSize - 63)

/-- The core header (R379). -/
def saveHeader (v ctx : Nat) (valid fenced : Bool) (nproc nspawn n : Nat) : List Byte :=
  wordBytes [BitVec.ofNat 64 (bit valid * 2 ^ 63 + bit fenced * 2 ^ 62 + nproc * 2 ^ 40 + nspawn * 2 ^ 32 + v),
    BitVec.ofNat 64 (ctx * 2 ^ 52), BitVec.ofNat 64 n, 0, 0, 0, 0, 0]

/-- Write the header of a region and the device's own bytes behind it, which are free (log entry 14). -/
def State.writeRegion (s : State) (octx : Option Nat) (region v ctx : Nat) (valid fenced : Bool) (nproc nspawn : Nat) : State :=
  let n := if valid then s.saveBytes else 64
  let rest := fun (i : Nat) =>
    let lo := max 64 (65536 * i)
    (List.range (min n (65536 * (i + 1)) - lo)).map fun (j : Nat) =>
      ((Config.freeWord (2 * ((s.tick + 1) * saveSize + lo + j))).truncate 8 : Byte)
  let s := (List.range 8).foldl (fun (s : State) i =>
    let bs := rest i
    if bs.isEmpty then s else s.putSave octx (region + max 64 (65536 * i)) bs) s
  { (s.putSave octx region (saveHeader v ctx valid fenced nproc nspawn n)) with tick := s.tick + 2 }

/-! ### What a core holds of a context -/

/-- The processes of a context in slots (below 16) and park records (from 16 up). -/
def Core.procsOf (co : Core) (ctx : Nat) : List (Nat × Proc) :=
  (co.procs ++ (co.parked.zip (List.range co.parked.length)).map fun e : Parked × Nat => (16 + e.2, e.1.proc)).filter fun e : Nat × Proc =>
    e.2.ctx.toNat == ctx

/-- The spawn records of a context, the re-run list's last. -/
def Core.recordsOf (co : Core) (ctx : Nat) : List Record := (co.queue ++ co.rerun).filter fun r => r.ctx.toNat == ctx

/-- Has a core something of a context to save (R380)? -/
def Core.holdsCtx (co : Core) (ctx : Nat) : Bool := !(co.procsOf ctx).isEmpty || !(co.recordsOf ctx).isEmpty

/-- A job whose requester waits is done: a process issues its PREEMPT again with the status (R384). -/
def State.jobDone (s : State) (who : Who) : State :=
  if s.cores.any fun e => e.2.jobs.any fun j => j.who == who then s
  else if who.core == hostUnit then s
  else
    let s := s.modCore who.core fun co => co.modUid who.uid fun p => { p with answer := some { status := 0, value := 0 } }
    s.reissue who.core who.uid

/-- Begin the save of a range (R375, R380): every core that holds something of the context takes an entry and stops it; the
headers of fenced and empty cores are written at once. None when some core has no entry free. -/
def State.beginSave (s : State) (d base : Word) (octx : Option Nat) (who : Who) : Option State :=
  let ctx := saveCtx d
  let full := (saveRange d base).any fun e => match s.live e.1 with
    | some c => (s.core c).holdsCtx ctx && decide (4 ≤ (s.core c).saved.length)
    | none => false
  if full then none
  else some ((saveRange d base).foldl (fun s e =>
    match s.live e.1 with
    | none => s.writeRegion octx e.2 e.1 ctx false ((s.mapEntry e.1).getLsbD 14) 0 0
    | some c =>
      if !(s.core c).holdsCtx ctx then s.writeRegion octx e.2 e.1 ctx false false 0 0
      else s.modCore c fun co =>
        let mark := fun p : Proc => if p.ctx.toNat == ctx then { p with saving := true } else p
        { co with
          slots := co.slots.map fun sl => { sl with proc := sl.proc.map mark },
          parked := co.parked.map fun r => { r with proc := mark r.proc },
          saved := co.saved ++ [{ ctx := ctx, base := base.toNat, procs := [], taken := [], foreign := [], records := [], ctrs := [], tbs := [],
                                  copies := [], windows := [] }],
          jobs := co.jobs ++ [{ ctx := ctx, base := base.toNat, save := true, region := e.2, octx := octx, who := who }] }) s)

/-- Begin the resume of a range; none when no core of it holds an entry (R384). -/
def State.beginResume (s : State) (d base : Word) (octx : Option Nat) (who : Who) : Option State :=
  let ctx := saveCtx d
  let cs := (saveRange d base).filterMap fun e => (s.live e.1).bind fun c =>
    if (s.core c).saved.any fun v => v.ctx == ctx && v.base == base.toNat then some (c, e.2) else none
  if cs.isEmpty then none
  else some (cs.foldl (fun s e => s.modCore e.1 fun co =>
    { co with jobs := (co.jobs.filter fun j => !(!j.save && j.ctx == ctx && j.base == base.toNat))
        ++ [{ ctx := ctx, base := base.toNat, save := false, region := e.2, octx := octx, who := who }] }) s)

/-- PREEMPT up to its wait: it writes its status to x[X] whatever it is (R384, R391). -/
def State.preempt (s : State) (c k : Nat) (p : Proc) (x : BitVec 5) (save : Bool) : Act :=
  let put := fun (s : State) (st : Nat) => match s.proc c k with
    | some q => Act.go (s.setProc c k (q.setX x (BitVec.ofNat 64 st)))
    | none => .go s
  if p.isDraft then .barred
  else match p.answer with
    | some a => put s a.status
    | none =>
      let d := p.xr x
      let base := p.er 0
      let who : Who := { core := c, uid := p.uid }
      if saveBad d base || saveCtx d == p.ctx.toNat then put s 2
      else if save then
        let pages := savePages d base
        match s.saveMapped (some p.ctx.toNat) pages with
        | .bad => put s 2
        | .later => .hold s (.poll (s.now + 64))
        | .at _ s1 =>
          let s1 := s1.modCore c fun co => { co with walks := co.walks + pages.length }
          match s1.beginSave d base (some p.ctx.toNat) who with
          | none => put s1 2
          | some s2 =>
            if s2.cores.any fun e => e.2.jobs.any fun j => j.who == who then .hold s2 .preempt else put s2 0
      else match s.beginResume d base (some p.ctx.toNat) who with
        | none => put s 2
        | some s1 => .hold s1 .presume

/-- PREEMPT.save (R384). -/
def execPreemptSave (g : BitVec 4) (x : BitVec 5) (s : State) : Out :=
  instr (.preemptSave g x) s
    (fun _ p => { legal := x != 0, priv := true, uses := [ux x], guard := p.guardBit g 0 })
    fun s c k p => s.preempt c k p x true

/-- PREEMPT.resume (R384). -/
def execPreemptResume (g : BitVec 4) (x : BitVec 5) (s : State) : Out :=
  instr (.preemptResume g x) s
    (fun _ p => { legal := x != 0, priv := true, uses := [ux x], guard := p.guardBit g 0 })
    fun s c k p => s.preempt c k p x false

/-! ### CORE_SAVE (R375 to R378) -/

/-- Is the process of place `k` at its stop boundary (R375)? -/
def Core.stopped (co : Core) (k : Nat) (p : Proc) : Bool :=
  let sl := co.slot k
  let st := k < 16 && (sl.state == .starting || sl.state == .parking)
  !st && p.sack == 0 && p.dying == 0
    && (match p.wait with
      | some w => !w.kind.finishes
      | none => p.answer.isNone || (k < 16 && sl.state == .halted))
    && (p.rings.all fun j => match co.ring j with
        | some r => (match r.credit with | some (_, sent) => !sent | none => true)
        | none => true)
    && co.copies.all (fun cp => cp.uid != p.uid || cp.flight.isEmpty)

/-- Is a process discarded by a save rather than saved (R376)? -/
def Proc.discardable (p : Proc) : Bool := p.isDraft || !p.cmt

/-- A discardable process that can be discarded now: a draft in a wait only when it is OPEN and at a boundary, SETTLING or
PREPARING (R363, R376). -/
def Core.canDiscard (co : Core) (k : Nat) (p : Proc) : Bool :=
  match p.draft with
  | some d => d.state != .publishing && d.state != .discarding && (d.state != .opened || co.stopped k p)
  | none => !p.cmt && co.stopped k p

/-- Discard a process: it will run again from the record it started from (R376, R412). -/
def State.discardProc (s : State) (c : Nat) (p : Proc) : State :=
  match p.draft with
  | some d => s.discardDraft c { p with capture := none } d 0 2 p.pc 0
  | none =>
    let s := s.endProc c p { kind := 9 }
    s.requeue c { p.record with prio := p.prio }

/-- A committed process as it is saved: its parkable wait is dropped, its queued stores will be sent again (R375, R377). An AMO.store.rel
whose store is queued keeps the mark that the store has been made. -/
def Proc.toSave (p : Proc) : Proc :=
  { p with answer := if p.wait.isSome && p.answer != some storeSent then none else p.answer, wait := none, altEnd := none, altDead := [], altDone := [],
           saving := false, replay := p.replay.map fun q => { q with go := true } }

/-- A copy as it is saved: its unsent units are one more fix-up entry of KIND 0 (R378). Its cookie only tells it from the
others. -/
def Copy.toSave (cp : Copy) (cookie : Half) : Copy :=
  let rest := if cp.running && cp.next < cp.d.len then
      [{ kind := 0, off := cp.next, len := cp.d.len - cp.next, cookie := cookie, go := true }] else []
  { cp with fixups := (cp.fixups.map fun f => { f with go := true }) ++ rest,
            next := if cp.running then cp.d.len else cp.next, claim := if cp.claim == 2 then 1 else cp.claim }

/-- The copies of a process leave the engine for its save (R378). -/
def State.takeCopies (s : State) (c uid : Nat) : State × List Copy :=
  let mine := (s.core c).copies.filter fun cp => cp.uid == uid
  let s := mine.foldl (fun s cp => if cp.claim == 2 then s.withdrawClaim { core := c, id := cp.id } false else s) s
  let (cs, n) := mine.foldl (fun (t : List Copy × Nat) cp =>
    (t.1 ++ [cp.toSave (Config.cookieBase c + BitVec.ofNat 32 t.2)], t.2 + 1)) ([], (s.core c).cookies)
  (s.modCore c fun co => { co with copies := co.copies.filter (fun cp => cp.uid != uid), cookies := n }, cs)

/-- The granules of a window. -/
def inRange (a n g : Nat) : Bool := decide (a / 16 ≤ g) && decide (g < (a + n) / 16)

/-- Save one committed process into the entry of a job (R377); its slot, window and descriptors are released, its core ports
stay. -/
def State.saveProc (s : State) (c : Nat) (j : SaveJob) (k : Nat) (p : Proc) : State :=
  let s := s.traceProc c (if k < 16 then k else 0) p 0x32 5 0 p.retired
  let susp := match p.wait with
    | some w => (match w.kind with
      | .walk .. => decide (k < 16 ∧ (s.slot c k).state = .suspended) || (s.core c).parked.any (fun r => r.proc.uid == p.uid && r.susp)
      | _ => false)
    | none => false
  let s := s.abandon c p.uid
  let (s, cs) := s.takeCopies c p.uid
  let co := s.core c
  let rings := p.rings.filterMap fun i => (co.ring i).map fun r => (i, r)
  let win := (p.wbase, co.spad.bytes p.wbase p.wsize, co.full.filter fun g => inRange p.wbase p.wsize g)
  let split := fun (b : Bool) => (co.taken.map fun t =>
    (t.1, t.2.1, t.2.2.filter fun g => inRange p.wbase p.wsize g == b)).filter fun t => !t.2.2.isEmpty
  let lent := fun (b : Bool) => (co.foreign.map fun t =>
    (t.1, t.2.1, t.2.2.filter fun e => inRange p.wbase p.wsize e.1 == b)).filter fun t => !t.2.2.isEmpty
  let s := s.setCore c
    { co with
      faults := co.faults.filter fun f => f.uid != p.uid,
      rings := p.rings.foldl kdel co.rings,
      taken := split false, foreign := lent false,
      saved := co.saved.map fun v =>
        (if v.ctx == j.ctx && v.base == j.base then
          { v with procs := v.procs ++ [(p.toSave, susp, rings)], taken := v.taken ++ split true, foreign := v.foreign ++ lent true, copies := v.copies ++ cs,
                   windows := v.windows ++ [win] }
        else v) }
  s.vacate c p.uid

/-- Save the records, counters and barriers of a context (R376, R377). -/
def Core.saveRest (co : Core) (j : SaveJob) : Core :=
  let mineR := fun r : Record => r.ctx.toNat == j.ctx
  let owned : Option (BitVec 12) → Bool := fun o => match o with | some x => x.toNat == j.ctx | none => false
  let cs := (List.range 16).filter fun i => owned (co.ctrCtx i)
  let bs := (List.range 8).filter fun i => owned (co.bar i).owner
  { co with
    queue := co.queue.filter fun r => !mineR r,
    rerun := co.rerun.filter fun r => !mineR r,
    ctrOwner := co.ctrOwner.map fun o => if owned o then none else o,
    tb := co.tb.map fun b => if owned b.owner then { b with owner := none } else b,
    saved := co.saved.map fun v =>
      (if v.ctx == j.ctx && v.base == j.base then
        { v with records := v.records ++ co.recordsOf j.ctx, ctrs := cs.map fun i => (i, co.ctrAt i),
                 tbs := bs.map fun i => (i, co.bar i) }
      else v) }

/-- A job of a core is over. -/
def State.endJob (s : State) (c : Nat) (j : SaveJob) : State :=
  (s.modCore c fun co => { co with jobs := co.jobs.erase j }).jobDone j.who

/-- The entry of a job. -/
def Core.entryOf (co : Core) (j : SaveJob) : Option Saved := co.saved.find? fun v => v.ctx == j.ctx && v.base == j.base

/-- Everything has stopped: save what is left and write the core header (R377, R379). -/
def State.finishSave (s : State) (c : Nat) (j : SaveJob) : State :=
  let s := ((s.core c).procsOf j.ctx).foldl (fun s e => s.saveProc c j e.1 e.2) s
  let s := s.modCore c fun co => co.saveRest j
  let (np, nr) := match (s.core c).entryOf j with
    | some v => (v.procs.length, v.records.length)
    | none => (0, 0)
  (s.writeRegion j.octx j.region (s.vcoreOf c) j.ctx (decide (0 < np + nr)) false np nr).endJob c j

/-- CORE_SAVE: the save under way on core `c` discards a process that is not committed, or, when every process of the context has
stopped and none is to be discarded, saves them and answers (R375 to R380). -/
def execCoreSave (s : State) : Out :=
  let c := s.ev.c
  let co := s.core c
  match co.jobs.find? (·.save) with
  | none => .next s
  | some j =>
    let ps := co.procsOf j.ctx
    match ps.find? fun e => e.2.discardable && co.canDiscard e.1 e.2 with
    | some e => .next (s.discardProc c e.2)
    | none =>
      let wait := (List.range 8).any fun i => match s.saveAddr j.octx (j.region + 65536 * i) with
        | .later => true
        | _ => false
      if ps.all (fun e => !e.2.discardable && co.stopped e.1 e.2) && !wait then .next (s.finishSave c j) else .next s

/-! ### CORE_RESTORE (R381) -/

/-- May a saved context be restored on a core now (R381)? -/
def Core.restorable (co : Core) (c : Nat) (v : Saved) : Bool :=
  let wins := v.procs.map fun e => (e.1.wbase, e.1.wsize)
  decide (v.procs.length ≤ co.emptySlots.length)
    && wins.all (fun w => w.2 == 0 || windowFits c co.windows w.1 w.2)
    && decide ((v.procs.flatMap (·.2.2)).length ≤ co.freeRings.length)
    && decide (co.copies.length + v.copies.length ≤ 16)
    && v.ctrs.all (fun e => match co.ctrCtx e.1 with
      | none => true
      | some x => x.toNat == v.ctx && !co.ctrBusy e.1)
    && v.tbs.all (fun e => match (co.bar e.1).owner with
      | none => true
      | some x => x.toNat == v.ctx && !co.barWaited e.1 && !co.copies.any fun cp => cp.d.tbv && cp.d.tbn == e.1)

/-- A process as it comes back: its rings have new descriptors, its capture goes on with one more suspension (R381, R412). -/
def Proc.back (p : Proc) (rings : List Nat) : Proc :=
  { p with rings := rings, capture := p.capture.map fun cp => { cp with nsusp := min (cp.nsusp + 1) 65535 } }

/-- Restore one process into a slot (R381). -/
def Core.restoreProc (co : Core) (now k : Nat) (p : Proc) (rings : List (Nat × Ring)) : Core :=
  let js := co.freeRings.take rings.length
  let co := { co with rings := (js.zip rings).foldl (fun (m : KMap Ring) (e : Nat × Nat × Ring) => kset m e.1 e.2.2) co.rings }
  co.setSlot k { co.slot k with
    state := if co.halted then .halted else .runnable, proc := some (p.back js), ready := now + 1, since := 0, busy := 0, yielding := none, back := false }

/-- Restore every process (R381). -/
def Core.restoreProcs (co : Core) (now : Nat) : List (Proc × Bool × List (Nat × Ring)) → Core
  | [] => co
  | e :: es => (co.restoreProc now (co.emptySlots.headD 0) e.1 e.2.2).restoreProcs now es

/-- Restore a window with its bits (R377). -/
def Core.restoreWindow (co : Core) (w : Nat × List Byte × List Nat) : Core :=
  let co := { co with spad := co.spad.put w.1 w.2.1,
                      full := co.full.filter fun g => !inRange w.1 w.2.1.length g }
  w.2.2.foldl Core.setFull co

/-- Granules of saved windows that an engine still owns; those whose copy has written them or has ended meanwhile are full. -/
def State.restoreTaken (s : State) (c : Nat) (t : Job × Nat × List Nat) : State :=
  let kept := (s.core t.1.core).copies ++ (s.core t.1.core).saved.flatMap (·.copies)
  let pend := fun g => match kept.find? fun cp => cp.id == t.1.id with
    | some cp => cp.pending.any fun r => cp.d.touches r.1 r.2 g
    | none => false
  let own := t.2.2.filter pend
  let s := s.modCore c fun co => { co with taken := if own.isEmpty then co.taken else co.taken ++ [(t.1, t.2.1, own)] }
  s.fillGranules c (t.2.2.filter fun g => !pend g)

/-- Granules of saved windows that a copy of another package still owns; those that it has finished meanwhile are full. -/
def State.restoreForeign (s : State) (c : Nat) (t : Job × Nat × KMap Nat) : State :=
  let own := t.2.2.filter fun e => e.2 != 0
  let s := s.modCore c fun co => { co with foreign := if own.isEmpty then co.foreign else co.foreign ++ [(t.1, t.2.1, own)] }
  s.fillGranules c ((t.2.2.filter fun e => e.2 == 0).map (·.1))

/-- Has an entry only records left to give back? -/
def Saved.onlyRecords (v : Saved) : Bool :=
  v.procs.isEmpty && v.taken.isEmpty && v.foreign.isEmpty && v.ctrs.isEmpty && v.tbs.isEmpty && v.copies.isEmpty && v.windows.isEmpty

/-- An entry with nothing but its records. -/
def Saved.stripped (v : Saved) : Saved :=
  { v with procs := [], taken := [], foreign := [], ctrs := [], tbs := [], copies := [], windows := [] }

/-- The processes, counters, barriers and copies of an entry return to core `c` (R381). -/
def State.restoreWork (s : State) (c : Nat) (v : Saved) : State :=
  let own := some (BitVec.ofNat 12 v.ctx)
  let s := s.modCore c fun co =>
    let co := (v.windows.foldl Core.restoreWindow co).restoreProcs s.now v.procs
    { co with
      copies := co.copies ++ v.copies,
      ctr := v.ctrs.foldl (fun m e => m.setIfInBounds e.1 e.2) co.ctr,
      ctrOwner := v.ctrs.foldl (fun m e => m.setIfInBounds e.1 own) co.ctrOwner,
      tb := v.tbs.foldl (fun m e => m.setIfInBounds e.1 e.2) co.tb }
  let s := v.taken.foldl (fun s t => s.restoreTaken c t) s
  let s := v.foreign.foldl (fun s t => s.restoreForeign c t) s
  v.copies.foldl (fun s cp =>
    if cp.running && cp.claim == 1 then (s.modCopy c cp.id fun q => { q with claim := 2 }).sendClaim c cp else s) s

/-- The records of an entry return to the spawn queue in their saved order, as far as it has room (R182, R381): the records moved, and the
entry without them. -/
def Core.takeBack (co : Core) (v : Saved) : List Record × Saved :=
  let n := queueSize - co.queue.length
  (v.records.take n, { v with records := v.records.drop n })

/-- Can a resume go on now: with its processes, or with records that the queue has room for (R182, R381)? -/
def Core.resumable (co : Core) (c : Nat) (j : SaveJob) : Bool :=
  !j.save && (match co.entryOf j with
    | some v => if v.onlyRecords then v.records.isEmpty || decide (co.queue.length < queueSize) else co.restorable c v
    | none => true)

/-- CORE_RESTORE: once there is room on core `c` for the processes of a saved context that is to be resumed, they are restored, and its
records return to the spawn queue as entries come free; the entry is then free and the resume done (R380, R381). -/
def execCoreRestore (s : State) : Out :=
  let c := s.ev.c
  let co := s.core c
  match co.jobs.find? fun j => co.resumable c j with
  | none => .next s
  | some j =>
    match co.entryOf j with
    | none => .next (s.endJob c j)
    | some v =>
      let s := s.modCore c fun co => { co with saved := co.saved.map fun u => if u == v then v.stripped else u }
      let s := s.restoreWork c v
      let (rs, left) := (s.core c).takeBack v.stripped
      let s := s.modCore c fun co => { co with queue := co.queue ++ rs, saved := co.saved.map fun u => if u == v.stripped then left else u }
      if !left.records.isEmpty then .next s
      else .next ((s.modCore c fun co => { co with saved := co.saved.filter fun u => !(u.ctx == v.ctx && u.base == v.base) }).endJob c j)

end Sys2Proof.Machine
end

