-- ==== Sys2Proof/Machine/Fencing.lean ====
section
/-! DEFINITION. Sys2Proof/Machine/Fencing.lean: fencing, salvage and the core map (R389 to R393), watchdogs (R385 to R387) and
errors that ECC finds (R395). -/

namespace Sys2Proof.Machine

/-! ### Fencing (R389, R391) -/

/-- Set one core-map entry. -/
def State.setMap (s : State) (d i : Nat) (e : BitVec 16) : State := s.modDie d fun x => { x with map := kset x.map i e }

/-- A fenced core leaves the saves and resumes under way: its part of a save area says FENCED (R384). -/
def State.leaveJobs (s : State) (c v : Nat) : State :=
  let js := (s.core c).jobs
  let s := s.modCore c fun co => { co with jobs := [] }
  js.foldl (fun s j =>
    let s := if j.save then s.writeRegion j.octx j.region v j.ctx false true 0 0 else s
    s.jobDone j.who) s

/-- The copies and the rings of a core, with those of its saved contexts. -/
def Core.everyCopy (co : Core) : List Copy := co.copies ++ co.saved.flatMap (·.copies)
def Core.everyRing (co : Core) : List Ring :=
  co.rings.map (·.2) ++ co.saved.flatMap fun v => v.procs.flatMap fun e => e.2.2.map (·.2)

/-- The slots that a fenced core's producers had claimed elsewhere and not filled are settled, and its claims that wait are
withdrawn (R389, R465). What it has already sent may still be written. -/
def State.settleProducer (s : State) (c : Nat) : State :=
  let co := s.core c
  let s := co.everyCopy.foldl (fun s cp => s.dropClaim c cp) s
  co.everyRing.foldl (fun s r => s.cancelCredit r) s

/-- The granules of other agents that a fenced core's copies owned become full with their contents unchanged. -/
def State.releaseOwned (s : State) (c : Nat) : State :=
  (s.core c).everyCopy.foldl (fun s cp => if cp.dest == c then s else s.fillTaken c cp) s

/-- The processes of a core, in slots, park records and saved contexts. -/
def Core.everyProc (co : Core) : List Proc :=
  co.procs.map (·.2) ++ co.parked.map (·.proc) ++ co.saved.flatMap fun v => v.procs.map (·.1)

/-- The galleys and lines of the drafts of a fenced core are dropped (R360, R363), and its watches end. -/
def State.dropTags (s : State) (c : Nat) (tags : List (Nat × Nat)) : State :=
  { s with
    homes := s.homes.map fun h =>
      let h1 := tags.foldl (fun (m : Home) t => m.without t) h.2
      (h.1, { h1 with watches := h1.watches.filter fun w => w.who.core != c }),
    monitors := s.monitors.filter fun w => w.who.core != c }

/-- Does a packet act for a draft's galley on behalf of core `c`? -/
def Body.draftOf (c : Nat) : Body → Bool
  | .galley _ _ _ who _ _ _ | .galleyPrep _ who | .galleyPub _ who _ | .galleyDrop _ who => who.core == c
  | .copyRead job _ _ _ _ _ _ tag => job.core == c && tag.isSome
  | _ => false

/-- The drafts of a fenced core leave their homes: entries and locks go, and so do the writes and publishes on their way, so that none is
performed later (R360, R363; log entry 55). -/
def State.dropDrafts (s : State) (c : Nat) : State :=
  let s := s.dropTags c (((s.core c).everyProc.filter (·.isDraft)).map Proc.tag)
  { s with net := s.net.filter fun p => !p.body.draftOf c }

/-- FENCED is set in a vcore's entry (R389), and the salvage starts (R390). -/
def State.fence (s : State) (v : Nat) : State :=
  match mapPlace v, s.agent v with
  | some (d, i), some c =>
    let s := (((s.leaveJobs c v).settleProducer c).releaseOwned c).dropDrafts c
    let s := s.setMap d i (s.mapEntry v ||| 0x4000)
    s.modDie d fun x => { x with salvages := x.salvages ++ [v],
                                 restarts := x.restarts.map fun r => if r.vcore == v then { r with go := false } else r }
  | _, _ => s

/-- Does a vcore operand of FENCEC name a vcore (R391)? -/
def fenceBad (p : Proc) (w : Word) : Bool := decide (3967 < w.toNat) || w.toNat == p.vcore.toNat

/-- FENCEC.fence: the status goes to x[X] whatever it is (R391). -/
def execFencecFence (g : BitVec 4) (x : BitVec 5) (s : State) : Out :=
  instr (.fencecFence g x) s
    (fun _ p => { legal := x != 0, priv := true, uses := [ux x], guard := p.guardBit g 0 })
    fun s c k p =>
      let put := fun (s : State) (st : Nat) => Act.go (match s.proc c k with
        | some q => s.setProc c k (q.setX x (BitVec.ofNat 64 st))
        | none => s)
      let w := p.xr x
      if p.isDraft then .barred
      else if fenceBad p w then put s 2
      else
        let e := s.mapEntry w.toNat
        if !e.getLsbD 15 || e.getLsbD 14 then put s 2 else put (s.fence w.toNat) 0

/-- Restart records of a vcore count as lost and are dropped (R391). -/
def State.abandonRestarts (s : State) (v : Nat) : State :=
  let d := dieOf v
  let mine := (s.die d).restarts.filter fun r => r.vcore == v
  let s := mine.foldl (fun s r =>
    s.report (launchAgent d) r.item.launch { kind := 3, index := r.item.index.toNat, vcore := v }) s
  s.modDie d fun x => { x with restarts := x.restarts.filter fun r => r.vcore != v }

/-- FENCEC.abandon (R391). -/
def execFencecAbandon (g : BitVec 4) (x : BitVec 5) (s : State) : Out :=
  instr (.fencecAbandon g x) s
    (fun _ p => { legal := x != 0, priv := true, uses := [ux x], guard := p.guardBit g 0 })
    fun s c k p =>
      let put := fun (s : State) (st : Nat) => Act.go (match s.proc c k with
        | some q => s.setProc c k (q.setX x (BitVec.ofNat 64 st))
        | none => s)
      let w := p.xr x
      if p.isDraft then .barred
      else if fenceBad p w || !(s.mapEntry w.toNat).getLsbD 14 then put s 2
      else put (s.abandonRestarts w.toNat) 0

/-! ### Salvage (R390, R393) -/

/-- Does a launch have IDEM in its word 1 (R225)? -/
def State.idemLaunch (s : State) (launch : Option Nat) : Bool :=
  match launch.bind s.launchRec with
  | some r => r.e[1].getLsbD 32
  | none => false

/-- Is a process restarted from its start record (R363, R390)? -/
def State.restarts (s : State) (p : Proc) : Bool := p.isDraft || (!p.cmt && s.idemLaunch p.launch)

/-- What the router of a core keeps when the core's own state goes (R240, R386, R406), with the management agent's registers and
the counters of its network interface. -/
def Core.kept (co : Core) : Core :=
  { Core.reset with
    genCtr := co.genCtr, combine := co.combine, capture := co.capture, flits := co.flits, stalls := co.stalls,
    lwcycles := co.lwcycles, eccCount := co.eccCount, lapses := co.lapses, walks := co.walks, replays := co.replays,
    bubbles := co.bubbles, tileBusy := co.tileBusy, boot := co.boot, bootMem := co.bootMem, resetAt := co.resetAt,
    trcctl := co.trcctl, trace := co.trace, lossT := co.lossT, lossD := co.lossD }

/-- Take a process of a fenced core: it is to be restarted, or it is lost (R363, R390). -/
def State.salvageProc (s : State) (d v : Nat) (p : Proc) : State :=
  let rep : EndReport := { kind := 3, index := bits p.index.toNat 0 32, vcore := v }
  if s.restarts p then
    let s := match p.draft with
      | some g => s.report (launchAgent d) p.launch { rep with kind := 7, gused := g.gused }
      | none => s
    s.modDie d fun x => { x with restarts := x.restarts ++ [{ vcore := v, item := { p.record with reserved := false }, go := false }] }
  else
    let s := { s with dies := s.dies.map (Die.closeGraphs p.uid) }
    s.report (launchAgent d) p.launch rep

/-- Read a fenced core and decide the fate of its work (R390); afterwards it holds nothing. -/
def State.salvage (s : State) (v : Nat) : State :=
  match mapPlace v, s.agent v with
  | some (d, _), some c =>
    let co := s.core c
    let recs := co.queue ++ co.rerun ++ co.saved.flatMap (·.records)
    let s := s.modDie d fun x =>
      { x with salvages := x.salvages.erase v, gens := kset x.gens v co.genCtr,
               restarts := x.restarts ++ recs.map fun r => { vcore := v, item := { r with reserved := false }, go := false } }
    let ps := co.everyProc
    let s := ps.foldl (fun s p => s.salvageProc d v p) s
    s.setCore c co.kept
  | _, _ => s

/-- A core that cannot be read loses nothing silently: the management core is told, and its launches do not complete (R390). What
the record holds is not stated (log entry 14). -/
def State.unreadable (s : State) (v : Nat) : State :=
  let s := s.out (.record [BitVec.ofNat 64 v, Config.freeWord (2 * s.tick + 1)])
  let s := s.modDie (dieOf v) fun x => { x with salvages := x.salvages.erase v, gens := kset x.gens v 0 }
  match s.agent v with
  | some c =>
    let co := s.core c
    let ls := co.everyProc.map Proc.launch ++ (co.queue ++ co.rerun ++ co.saved.flatMap (·.records)).map (·.launch)
    let s := ls.foldl (fun s l => match l with
      | some id => s.modLaunch id fun r => { r with unread := r.unread + 1 }
      | none => s) s
    s.modCore c Core.kept
  | none => s

/-- FENCE_SALVAGE: the management agent reads fenced vcore `n` (R390); with `flag` the core cannot be read. -/
def execFenceSalvage (s : State) : Out :=
  let v := s.ev.n
  if !(s.die (dieOf v)).salvages.contains v then .next s
  else .next (if s.ev.flag then s.unreadable v else s.salvage v)

/-! ### CMAPW (R392, R393, R457) -/

/-- Does another entry of the die, in the same range, name the same position (R392)? -/
def Die.taken (x : Die) (i : Nat) (e : BitVec 16) : Bool :=
  x.map.any fun m => m.1 != i && (decide (m.1 < 992) == decide (i < 992)) && m.2.getLsbD 15
    && bits m.2.toNat 0 10 == bits e.toNat 0 10

/-- One held restart record of a remapped vcore enters the spawn queue of its core (R392), once an entry is free and its header has been
read (R25, R182); one of a launch that is being cancelled ends (R234). None while it must wait. -/
def State.placeRestart (s : State) (c : Nat) (r : Record) : Bool × State :=
  if s.cancelling r.launch then (true, s.cancelRecord c r)
  else if queueSize ≤ (s.core c).queue.length then (false, s)
  else
    let put := fun (s : State) (h : Option (Vector Word 8)) =>
      (true, s.modCore c fun co => { co with queue := co.queue ++ [{ r with header := h, since := s.now }] })
    match s.readHeader c r.ctx.toNat r.hdr with
    | .ok h s => put s h
    | .later s => (false, s)
    | .noPhys _ => put s none

/-- The held restart records of a die in their order: what must wait is held on, with the later ones of its vcore. -/
def State.placeHeldFrom (d : Nat) : List Restart → List Nat → State → State
  | [], _, s => s
  | r :: rs, stuck, s =>
    match s.live r.vcore with
    | none => State.placeHeldFrom d rs stuck s
    | some c =>
      if !r.go || stuck.contains r.vcore then State.placeHeldFrom d rs stuck s
      else match s.placeRestart c r.item with
        | (true, s) => State.placeHeldFrom d rs stuck (s.modDie d fun x => { x with restarts := x.restarts.erase r })
        | (false, s) => State.placeHeldFrom d rs (r.vcore :: stuck) s

/-- Place what can be placed of the restart records that a die's launch agent holds for remapped vcores (R392). -/
def State.placeHeld (s : State) (d : Nat) : State := State.placeHeldFrom d (s.die d).restarts [] s

/-- The physical agent that an entry names. -/
def entryAgent (d i : Nat) (e : BitVec 16) : Nat := if i < 992 then d * 1024 + bits e.toNat 0 10 else placeVcore d i

/-- CMAPW's fields (R392). -/
def cmapDie (w : Word) : Nat := bits w.toNat 27 2
def cmapIndex (w : Word) : Nat := bits w.toNat 16 11
def cmapEntry (w : Word) : BitVec 16 := w.truncate 16

/-- Is a CMAPW refused (R392)? -/
def State.cmapRefused (s : State) (w : Word) : Bool :=
  let e := cmapEntry w
  let old := (kget (s.die (cmapDie w)).map (cmapIndex w)).getD 0
  bits w.toNat 29 35 != 0 || decide (1057 < cmapIndex w) || bits e.toNat 10 4 != 0 || e.getLsbD 14
    || (old.getLsbD 15 && !old.getLsbD 14) || (e.getLsbD 15 && (s.die (cmapDie w)).taken (cmapIndex w) e)

/-- Write a core-map entry: the core that it names is brought to core-reset state, except in boot mode, and takes the restart
records of a vcore that was fenced, with its generation counter (R392, R393, R457). -/
def State.cmap (s : State) (w : Word) (boot : Bool) : State :=
  let d := cmapDie w
  let i := cmapIndex w
  let e := cmapEntry w
  let v := placeVcore d i
  let old := (kget (s.die d).map i).getD 0
  let s := if (s.die d).salvages.contains v then s.salvage v else s
  let c := entryAgent d i e
  let fresh := old.getLsbD 14 && e.getLsbD 15
  let s := if e.getLsbD 15 && !boot then
      s.modCore c fun co => { co.kept with
        genCtr := if fresh then (kget (s.die d).gens v).getD 0 else 0, resetAt := s.now, trcctl := 0, trace := [], lossT := 0, lossD := 0 }
    else s
  let s := s.setMap d i e
  if fresh then
    (s.modDie d fun x => { x with restarts := x.restarts.map fun r => if r.vcore == v then { r with go := true } else r }).placeHeld d
  else s

/-- CMAPW (R392). -/
def execCmapw (g : BitVec 4) (x : BitVec 5) (s : State) : Out :=
  instr (.cmapw g x) s
    (fun _ p => { legal := x != 0, priv := true, uses := [ux x], guard := p.guardBit g 0 })
    fun s c k p =>
      let put := fun (s : State) (st : Nat) => Act.go (match s.proc c k with
        | some q => s.setProc c k (q.setX x (BitVec.ofNat 64 st))
        | none => s)
      let w := p.xr x
      if p.isDraft then .barred
      else if s.cmapRefused w then put s 2
      else put (s.cmap w (s.inBoot c)) 0

/-! ### Watchdogs (R385 to R387) -/

/-- CORE_WATCHDOG: the count of core `c` has reached WDCYCLES; a record goes to the management core (R385, R387). -/
def execCoreWatchdog (s : State) : Out :=
  let c := s.ev.c
  let co := s.core c
  if co.watchLimit s.now == 0 || co.wdFired || decide (co.wdCount < co.watchLimit s.now) then .next s
  else
    let s := s.setCore c { co with wdFired := true }
    .next (s.out (.record [BitVec.ofNat 64 (0x20 * 2 ^ 56 + s.vcoreOf c), BitVec.ofNat 64 (s.cycle co), 0, 0]))

/-- The virtual channel number of R396. -/
def vcNumber (vc : Nat) : Nat := if vc == 4 then 0 else vc

/-- The router that an agent is attached to, by its core position (R223). -/
def State.routerOf (s : State) (c : Nat) : Nat :=
  if c < 4096 then c else agentDie c * 1024 + bits (s.mapEntry c).toNat 0 10

/-- The router of die `d` and the port of its die link through which flits of vcore `v` cross to and from the I/O die (R417). -/
def dieLinkAt (d v : Nat) : Nat × Nat := (d * 1024 + (if d < 2 then 0 else 31) * 32 + (3 * (v % 10) + 1), 5 + v / 10 % 4)

/-- The other die of a shared edge (R418). -/
def acrossEdge (b d : Nat) : Nat := match b with | 0 => 1 - d | 1 => 5 - d | 2 => 2 - d | _ => 4 - d

/-- The router of die `d` and its port through which a packet crosses bridge `b` (R416, R417): on its source's row for an east-west
edge, on its destination's column for a north-south one (log entry 56). -/
def State.edgeAt (s : State) (pk : Packet) (b d : Nat) : Nat × Nat :=
  let on := decide (d < acrossEdge b d)
  let row := s.routerOf pk.src % 1024 / 32
  let col := if pk.dst < 4360 then s.routerOf pk.dst % 32 else 3 * (s.vcoreOf pk.src % 10) + 1
  if 4 ≤ b then dieLinkAt d (s.vcoreOf pk.src)
  else if b < 2 then (d * 1024 + row * 32 + (if on then 31 else 0), if on then 2 else 4)
  else (d * 1024 + (if on then 31 else 0) * 32 + col, if on then 3 else 1)

/-- Where a packet that comes to die `d` stops on its way over the bridges of a list: at the first that carries nothing, none on an I/O
die. -/
def State.stuckAt (s : State) (pk : Packet) : Nat → List Nat → Option (Option (Nat × Nat))
  | _, [] => none
  | d, b :: bs =>
    if !((s.bridges[b]?).getD Bridge.reset).carries then some (if 4 ≤ b && decide (4360 ≤ pk.src) then none else some (s.edgeAt pk b d))
    else s.stuckAt pk (if 4 ≤ b then b - 4 else acrossEdge b d) bs

/-- The router and the port at which a packet's head waits (R386, R417): at a bridge that carries nothing, else at its destination. -/
def State.waitsAt (s : State) (pk : Packet) : Option (Nat × Nat) :=
  let path := if pk.src == hostUnit then (bridgesOf pk.src pk.dst).reverse
    else bridgesOf pk.src pk.dst ++ (if 65536 ≤ pk.dst && decide (pk.src < 4360) then [4 + agentDie pk.src] else [])
  match s.stuckAt pk (if pk.src < 4360 then agentDie pk.src else 0) path with
  | some w => w
  | none => if pk.dst < 4360 then some (s.routerOf pk.dst, 0) else none

/-- The destination vcore of a packet, 0 when it has none. -/
def State.destVcore (s : State) (pk : Packet) : Nat :=
  if pk.dst < 4360 then s.vcoreOf pk.dst else if 65536 ≤ pk.dst then pk.dst % 65536 else 0

/-- Does a packet wait behind another of its channel, or for a core under debug halt, so that its count stands at zero (R386)? -/
def State.notHead (s : State) (n : Nat) (pk : Packet) : Bool :=
  (s.core pk.dst).halted || (s.net.take n).any fun a => a.before pk

/-- The wait of a packet that is no head, or whose destination is under debug halt, has not begun (R386). -/
def State.holdWaits (s : State) : State :=
  { s with net := ((List.range s.net.length).zip s.net).map fun e =>
      if s.notHead e.1 e.2 then { e.2 with since := s.now + 1 } else e.2 }

/-- LINK_WATCHDOG: packet `n`, the head of its channel at a router's port, has waited LIMIT cycles (R386, R387). -/
def execLinkWatchdog (s : State) : Out :=
  match s.net[s.ev.n]? with
  | none => .next s
  | some pk =>
    match s.waitsAt pk with
    | none => .next s
    | some (r, port) =>
      let lim := (s.core r).lwcycles.toNat
      if lim == 0 || pk.fired || decide (4 < pk.vc) || s.notHead s.ev.n pk || decide (s.now < pk.since + lim) then .next s
      else
        let s := { s with net := s.net.set s.ev.n { pk with fired := true } }
        .next (s.out (.record [BitVec.ofNat 64 (0x21 * 2 ^ 56 + s.vcoreOf r), BitVec.ofNat 64 (s.cycle (s.core r)),
          BitVec.ofNat 64 (vcNumber pk.vc * 256 + port), BitVec.ofNat 64 (s.destVcore pk)]))

/-! ### Errors (R395) -/

/-- ECC_CORRECTABLE: an error of core `c` is corrected and counted (R395, R408). -/
def execEccCorrectable (s : State) : Out :=
  .next (s.modCore s.ev.c fun co => { co with eccCount := min (co.eccCount + 1) (2 ^ 32 - 1) })

/-- The process in slot `k`, or in park record `k` - 16. -/
def Core.anyProc (co : Core) (k : Nat) : Option Proc :=
  if k < 16 then (co.slot k).proc else (co.parked[k - 16]?).map (·.proc)

/-- A process with an uncorrectable error ends with FAULT (R367, R395): TCAUSE 0, at its next instruction to issue; its copies run on
(R328). -/
def State.eccFault (s : State) (c : Nat) (p : Proc) (va : Word) : State :=
  let next := match p.wait with
    | some w => if p.stoppable then p.pc else p.pc + instrLen w.instr
    | none => p.pc
  let q := { p with dying := 3, diePc := next, dieVa := va }
  let s := s.refusal p.ctx.toNat 0x15 7 (s.selfWord ((s.core c).slotFor p.uid) p) va 0
  let s := s.modCore c fun co => co.modUid p.uid fun _ => q
  let starting := match (s.core c).slotOf p.uid with
    | some k => (s.slot c k).state == .starting
    | none => false
  if p.stoppable && !starting then s.stopProc c q else s

/-- A process ends with FAULT because bytes that it has asked for, or that are read for it, cannot be read (R395): its wait is over. -/
def State.readFault (s : State) (c : Nat) (p : Proc) (va : Word) : State :=
  let next := match p.wait with
    | some w => p.pc + instrLen w.instr
    | none => p.pc
  let q := { p with dying := 3, diePc := next, dieVa := va, wait := none, answer := none }
  (s.modCore c fun co => co.modUid p.uid fun _ => q).stopProc c q

/-- A spawn record is lost with its entry (R395). -/
def State.loseRecord (s : State) (c x : Nat) : State :=
  match ((s.core c).queue ++ (s.core c).rerun)[x]? with
  | none => s
  | some r =>
    let s := s.modCore c fun co =>
      if x < co.queue.length then { co with queue := co.queue.eraseIdx x }
      else { co with rerun := co.rerun.eraseIdx (x - co.queue.length) }
    s.report c r.launch { kind := 3, index := r.index.toNat, vcore := s.vcoreOf c }

/-- The start record of a process that could still be restarted is lost (R376, R395): the process counts in NLOST. -/
def State.loseStart (s : State) (c : Nat) (p : Proc) : State :=
  match p.draft with
  | some d => s.discardDraft c p d 0 3 p.pc 0
  | none => if p.cmt then s else s.endProc c p { kind := 3 }

/-- A copy unit, or a line, with an error is abandoned with PARTIAL, and recorded (R327). -/
def State.unitError (s : State) (job : Job) (off len : Nat) (dest : Bool) (from_ : Nat) : State :=
  let s := match (s.core job.core).copy job.id with
    | some cp => s.refusal cp.ctx 0x15 7 cp.self (cp.d.src off) 0
    | none => s
  s.send from_ job.core 2 (.copyAck job off len (if dest then 39 else 7))

/-- The bytes of a tile transfer cannot be read (R395): the rest of it is dropped, the sender's owner ends with FAULT, and the
receiver's RECVT returns DEAD (R211; log entry 57). -/
def State.tileError (s : State) (pk : Packet) (target sender : Word) : State :=
  let s := { s with net := s.net.filter fun p => match p.body with
    | .tileData t h _ _ _ _ _ => !(hSame t target && hSame h sender)
    | _ => true }
  let s := match s.handleDest sender with
    | some c => (match (s.core c).owner (hPort sender) with
      | some p => if p.gen.toNat == hGen sender then s.readFault c p 0 else s
      | none => s)
    | none => s
  match s.port pk.dst (hPort target), (s.core pk.dst).waitsOn (hPort target) fun w => match w with | .tileData n _ => some n | _ => none with
  | some po, some p => (s.setPort pk.dst (hPort target) { po with owed := [] }).answerStatus pk.dst p.uid 1
  | _, _ => s

/-- An error met in serving packet `x` (R273, R274, R314, R327, R395). -/
def State.packetError (s : State) (x : Nat) : State :=
  match s.packet x with
  | none => s
  | some pk =>
    let s' := s.drop x
    match pk.body with
    | .access ea _ _ none _ _ _ who =>
      (match (s.core who.core).find who.uid with
       | some p => s'.readFault who.core p ea
       | none => s')
    | .tileData t h _ _ _ _ _ => s'.tileError pk t h
    | .copyRead job off len _ _ _ _ _ => s'.unitError job off len false pk.dst
    | .copyWrite job off data _ => s'.unitError job off data.length true pk.dst
    | .galley _ _ data _ 1 job off | .galley _ _ data _ 2 job off => s'.unitError job off data.length true pk.dst
    | .galley r _ data who _ _ mark =>
      (s'.requestRecord r 0x15 7 (BitVec.ofNat 64 (ofLe data))).send pk.dst who.core 2
        (.storeAck who 0 r.va (BitVec.ofNat 64 mark) false 0)
    | .ringData place off data last job memop =>
      if !memop then s'.unitError job off data.length true pk.dst
      else if last then (s'.settlePlace place).send pk.dst job.core 2 (.ringAns job true 7 place)
      else s'
    | .amo r _ wide v c who posted _ =>
      let s' := s'.requestRecord r 0x15 7 (BitVec.ofNat 64 (v.toNat % 2 ^ (8 * amoBytes wide)))
      if posted then s'.send pk.dst pk.src 2 (.storeAck who 0 r.va c false 0)
      else s'.send pk.dst pk.src 2 (.amoAns who 0)
    | _ => s

/-- The next line of a memory-core operation meets an error (R273, R274): PARTIAL, and a record. An HPUSH whose source cannot be read is
abandoned with PARTIAL, and no record is stated for it (R275, R395; log entry 58). -/
def State.lineError (s : State) (c id : Nat) : State :=
  match (s.core c).memop id with
  | none => s
  | some m =>
    if m.op == 2 then (if m.stage == 2 then s.abandonOp c m else s)
    else match m.nextLine with
    | none => s
    | some off =>
      let n := m.lineLen off
      let s := s.refusal m.ctx 0x15 7 m.self (m.va off) 0
      let s := if m.op == 0 then s.modCore c fun co =>
          { co with spad := co.spad.put (m.loc + off) (List.replicate n 0) } else s
      s.lineDone c m.id off n 7

/-- ECC_UNCORRECTABLE: an error at site `n` of agent `c`, handled as R395 states. `k` names the process (a park record from 16 up),
record, packet, operation or ring descriptor concerned and `w` the address. Sites: 0 state of a process, 1 a spawn record, 2 a start
record, 3 scratchpad bytes read by their owner, 4 bytes read for another agent or at a home, 5 a line of a memory-core operation,
6 a slot being forwarded, 7 instruction cache, 8 router or network interface, 9 flits. -/
def execEccUncorrectable (s : State) : Out :=
  let c := s.ev.c
  let x := s.ev.k
  let co := s.core c
  let onProc := fun (f : Proc → State) => match co.anyProc x with
    | some p => f p
    | none => s
  .next (match s.ev.n with
    | 0 => onProc fun p => s.eccFault c p 0
    | 1 => s.loseRecord c x
    | 2 => onProc fun p => s.loseStart c p
    | 3 => onProc fun p => s.eccFault c p s.ev.w
    | 4 => s.packetError x
    | 5 => s.lineError c x
    | 6 => (match (co.ring x).bind co.ringOwner with
      | some p => s.eccFault c p s.ev.w
      | none => s)
    | 7 => s.setCore c co.flushUnits
    | 8 =>
      let v := s.vcoreOf c
      let e := s.mapEntry v
      let s := s.out (.record [BitVec.ofNat 64 v, Config.freeWord (2 * s.tick + 1)])
      if 3967 < v || !e.getLsbD 15 || e.getLsbD 14 || s.agent v != some c then s else s.fence v
    | _ => s.setCore c { co with replays := min (co.replays + 1) (2 ^ 32 - 1) })

end Sys2Proof.Machine
end

