-- ==== Sys2Proof/Machine/Debug.lean ====
section
/-! DEFINITION. Sys2Proof/Machine/Debug.lean: debug halt, step and register access (R397 to R401), trace records and rings (R402 to
R405, R413), link counts (R406 to R408) and capture counters (R409 to R412). -/

namespace Sys2Proof.Machine

/-! ### Halting (R388, R397, R400) -/

/-- The cores that the management agent reaches: the one that a vcore names, or, in a broadcast, every core of die `v` (R397). A die that
is powered lists all its cores. -/
def State.debugTargets (s : State) (v : Nat) (all : Bool) : List Nat :=
  if all then (s.cores.map (·.1)).filter fun c => decide (c < 4360) && agentDie c == v else (s.agent v).toList

/-- Do something at every core that a debug event names: vcore `n`, or with the flag every core of die `n`. -/
def State.debugAll (s : State) (f : State → Nat → State) : Out := .next ((s.debugTargets s.ev.n s.ev.flag).foldl f s)

/-- A write of HALT = 1 halts core `c` (R400). -/
def State.dbgHalt (s : State) (c : Nat) : State := if (s.core c).halted then s else (s.modCore c Core.halt).traceHalt c 0

/-- A process that continues at an instruction that hit a comparator issues it once without matching (R398). -/
def Proc.unhit (p : Proc) : Proc :=
  if p.bpHit.contains p.pc then { p with bpSkip := true, bpHit := p.bpHit.erase p.pc } else p

/-- Issue resumes: every HALTED slot is runnable in the next cycle (R400). -/
def Core.unhalt (co : Core) (now : Nat) : Core :=
  { co with dbgctl := co.dbgctl &&& ~~~(3 : BitVec 14), stepping := [],
            slots := co.slots.map fun sl =>
              (if sl.state == .halted then { sl with state := .runnable, ready := now + 1, proc := sl.proc.map Proc.unhit }
               else sl) }

/-- A write of HALT = 0 lets core `c` issue again in the next cycle (R400). -/
def State.dbgResume (s : State) (c : Nat) : State :=
  if !(s.core c).halted then s.modCore c fun co => { co with dbgctl := co.dbgctl &&& ~~~(1 : BitVec 14) }
  else (s.modCore c fun co => co.unhalt s.now).traceHalt c 1

/-- A refused STEP or DBGACC request sets ERR (R397). -/
def Core.dbgErr (co : Core) : Core := { co with dbgctl := co.dbgctl ||| 0x2000 }

/-- STEP: slot `k` of the halted core `c` may issue one instruction; any other STEP sets ERR (R400). -/
def State.dbgStep (s : State) (c k : Nat) : State :=
  let sl := s.slot c k
  if !(s.core c).halted || sl.state != .halted then s.modCore c Core.dbgErr
  else
    (s.traceHalt c 2).modCore c fun co =>
      ({ co with stepping := k :: co.stepping }).setSlot k { sl with state := .runnable, ready := s.now, proc := sl.proc.map Proc.unhit }

/-- DBG_HALT: a write of HALT = 1 (R400) at vcore `n`, or with the flag at every core of die `n` (R397). -/
def execDbgHalt (s : State) : Out := s.debugAll State.dbgHalt

/-- DBG_RESUME: a write of HALT = 0 (R400) at vcore `n`, or with the flag at every core of die `n` (R397). -/
def execDbgResume (s : State) : Out := s.debugAll State.dbgResume

/-- STEPSLOT is written (R397). -/
def Core.stepSlot (co : Core) (k : Nat) : Core :=
  { co with dbgctl := (co.dbgctl &&& ~~~(0xF00 : BitVec 14)) ||| BitVec.ofNat 14 (k * 256) }

/-- DBG_STEP: a write of DBGCTL with STEP = 1 and STEPSLOT = `k` (R400) at vcore `n`, or with the flag at every core of die `n`. -/
def execDbgStep (s : State) : Out :=
  let k := s.ev.k % 16
  s.debugAll fun s c => (s.modCore c fun co => co.stepSlot k).dbgStep c k

/-- After the issue of a stepped slot the core is halted again (R400). -/
def Core.stepped (co : Core) (k : Nat) : Core :=
  if !co.stepping.contains k then co
  else
    let co := { co with stepping := co.stepping.erase k }
    if (co.slot k).state == .runnable then co.setSlot k { co.slot k with state := .halted } else co

/-! ### DBGACC (R401) -/

def accClass (w : Word) : Nat := bits w.toNat 56 3
def accIndex (w : Word) : Nat := bits w.toNat 44 12
def accSlot (w : Word) : Nat := bits w.toNat 59 4

/-- Lane `l` of a vector register. -/
def vlane (v : VReg) (l : Nat) : Word := v.extractLsb' (64 * l) 64

/-- A vector register with one lane written. -/
def setVlane (v : VReg) (l : Nat) (w : Word) : VReg :=
  (v &&& ~~~((0xFFFFFFFFFFFFFFFF : VReg) <<< (64 * l))) ||| (w.zeroExtend 256 <<< (64 * l))

/-- Does an index lie in the register file of its class (R401)? -/
def accLegal (cls i : Nat) : Bool :=
  if cls == 0 then decide (i < 32)
  else if cls == 1 then decide (i / 64 < 32) && i / 4 % 16 == 0
  else if cls == 2 then decide (i < 8)
  else if cls == 3 then decide (i < 8)
  else if cls == 4 then true
  else if cls == 5 then sysAssigned i
  else if cls == 6 then decide (i < 4)
  else false

/-- Read an item of a process (R401). -/
def State.accRead (s : State) (c k : Nat) (p : Proc) (cls i : Nat) : Word :=
  if cls == 0 then p.xr (BitVec.ofNat 5 i)
  else if cls == 1 then vlane (p.vr (BitVec.ofNat 5 (i / 64))) (i % 4)
  else if cls == 2 then (p.pr (BitVec.ofNat 3 i)).zeroExtend 64
  else if cls == 3 then p.er (BitVec.ofNat 3 i)
  else if cls == 4 then p.pc
  else if cls == 5 then s.readSys c k p i
  else p.z[i]?.getD 0

/-- Write an item of a process (R401). -/
def Proc.accWrite (p : Proc) (cls i : Nat) (w : Word) : Proc :=
  if cls == 0 then p.setX (BitVec.ofNat 5 i) w
  else if cls == 1 then p.setV (BitVec.ofNat 5 (i / 64)) (setVlane (p.vr (BitVec.ofNat 5 (i / 64))) (i % 4) w)
  else if cls == 2 then p.setP (BitVec.ofNat 3 i) (w.truncate 32)
  else if cls == 3 then p.setE (BitVec.ofNat 3 i) w
  else if cls == 4 then { p with pc := w }
  else if cls == 5 then p.writeSys i w
  else { p with z := p.z.setIfInBounds i (w &&& zMask i) }

/-- A write of DBGACC with WR = 0 reads an item into DBGDATA of core `c` (R401). -/
def State.accGet (s : State) (c : Nat) (w : Word) : State :=
  let k := accSlot w
  let sl := s.slot c k
  let refused := s.modCore c fun co => { co.dbgErr with dbgdata := 0 }
  match sl.proc with
  | none => refused
  | some p =>
    let seen := sl.state == .halted || sl.state == .blocked || sl.state == .suspended
    if !(s.core c).halted || !seen || !accLegal (accClass w) (accIndex w) then refused
    else s.modCore c fun co => { co with dbgdata := s.accRead c k p (accClass w) (accIndex w) }

/-- A write of DBGACC with WR = 1 writes DBGDATA of core `c` to an item of a HALTED slot (R401). -/
def State.accPut (s : State) (c : Nat) (w : Word) : State :=
  let k := accSlot w
  let sl := s.slot c k
  let data := (s.core c).dbgdata
  match sl.proc with
  | none => s.modCore c Core.dbgErr
  | some p =>
    let cls := accClass w
    if !(s.core c).halted || sl.state != .halted || !accLegal cls (accIndex w) || (cls == 4 && data.getLsbD 0) then
      s.modCore c Core.dbgErr
    else
      let s := s.setProc c k (p.accWrite cls (accIndex w) data)
      if cls == 5 then s.modCore c fun co => co.writeSys s.now (accIndex w) data else s

/-- DBGACC_READ: DBGACC with WR = 0 is written with `w` (R401) at vcore `n`, or with the flag at every core of die `n`. -/
def execDbgaccRead (s : State) : Out := s.debugAll fun s c => s.accGet c s.ev.w

/-- DBGACC_WRITE: DBGACC with WR = 1 is written with `w` (R401) at vcore `n`, or with the flag at every core of die `n`. -/
def execDbgaccWrite (s : State) : Out := s.debugAll fun s c => s.accPut c s.ev.w

/-! ### TRCMARK, CAPSTART, CAPSTOP (R409 to R413) -/

/-- TRCMARK (R413). -/
def execTrcmark (g : BitVec 4) (b a k : BitVec 5) (s : State) : Out :=
  instr (.trcmark g b a k) s (fun _ p => { uses := [ux b, ux a], guard := p.guardBit g 0 }) fun s c sl p =>
    .go (s.traceProc c sl p 0x30 k.toNat (p.xr a) (p.xr b))

/-- CAPSTART (R410). -/
def execCapstart (g : BitVec 4) (a : BitVec 5) (s : State) : Out :=
  instr (.capstart g a) s (fun _ p => { uses := [ux a], guard := p.guardBit g 0 }) fun s c k p =>
    let w := p.xr a
    let ev : Vector (BitVec 8) 4 := Vector.ofFn fun i : Fin 4 => w.extractLsb' (8 * i) 8
    let cp : Capture := { ev := ev, cnt := Vector.replicate 4 0, pend := Vector.replicate 4 0, pendAt := s.now, nsusp := 0, start := s.now }
    .go (s.setProc c k { p with capture := some cp })

/-- The summary word of CAPSTOP (R411). -/
def Capture.word (cp : Capture) : Nat :=
  2 ^ 63 + bit (cp.nsusp != 0) * 2 ^ 62 + cp.nsusp * 2 ^ 32 + cp.ev[3].toNat * 2 ^ 24 + cp.ev[2].toNat * 2 ^ 16
    + cp.ev[1].toNat * 2 ^ 8 + cp.ev[0].toNat

/-- CAPSTOP (R411). -/
def execCapstop (g : BitVec 4) (a d : BitVec 5) (s : State) : Out :=
  instr (.capstop g a d) s (fun _ p => { uses := [ux a, uv d], guard := p.guardBit g 0 }) fun s c k p =>
    .go (s.setProc c k (match p.capture with
      | none => (p.setV d 0).setX a 0
      | some cp =>
        let v := ofLanes 64 ((List.range 4).map fun i => ((cp.before s.now)[i]?.getD 0).toNat)
        { (p.setV d v).setX a (BitVec.ofNat 64 cp.word) with capture := none }))

/-! ### The trace ring of a die (R404, R405) -/

/-- The trace unit of a die, in the model's numbering of agents. -/
def traceUnit (d : Nat) : Nat := 8100 + d

/-- Records of a die's trace network on their way. -/
def State.tracePending (s : State) (d : Nat) : Nat := (s.net.filter fun p => p.dst == traceUnit d).length

/-- SIZE and WRPTR of a die's ring. -/
def State.traceSize (s : State) (d : Nat) : Nat := s.hbm.nat (s.die d).trbase 8
def State.traceWr (s : State) (d : Nat) : Nat := s.hbm.nat ((s.die d).trbase + 8) 8

/-- Is the ring full, as the trace unit knows it, with the records on their way counted? -/
def State.traceFull (s : State) (d : Nat) : Bool :=
  decide ((s.die d).ringRd + s.traceSize d ≤ s.traceWr d + s.tracePending d)

/-- Lets the trace unit a record in (R405)? -/
def State.traceCredit (s : State) (d : Nat) : Bool := !(s.die d).ringErr && !s.traceFull d

/-- The loss record (R404). -/
def State.lossRecord (s : State) (c : Nat) : List Word :=
  let co := s.core c
  [BitVec.ofNat 64 (0x3F * 2 ^ 56 + s.vcoreOf c), BitVec.ofNat 64 (s.cycle co), BitVec.ofNat 64 (co.lossD * 2 ^ 32 + co.lossT), 0]

/-- TRACE_DRAIN: the oldest record of core `c`'s buffer enters the trace network; a loss record takes the free entry when records
have been lost (R404). -/
def execTraceDrain (s : State) : Out :=
  let c := s.ev.c
  let d := agentDie c
  match (s.core c).trace with
  | [] => .next s
  | r :: rest =>
    if !s.traceCredit d then .next s
    else
      let pk : Packet := { src := c, dst := traceUnit d, vc := 5, since := s.now, body := .trace r }
      let s := { s with net := s.net ++ [pk] }
      let co := s.core c
      .next (s.setCore c (if co.lossT == 0 && co.lossD == 0 then { co with trace := rest }
        else { co with trace := rest ++ [s.lossRecord c], lossT := 0, lossD := 0 }))

/-- TRACE_RING_WRITE: die `n`'s trace unit writes the next record that has come, and then WRPTR (R405). -/
def execTraceRingWrite (s : State) : Out :=
  let d := s.ev.n
  let base := (s.die d).trbase
  if hbmSize ≤ base + 0x1000 then .fault (.noSuchPhysical base)
  else match (List.range s.net.length).find? fun i => match s.net[i]? with | some p => p.dst == traceUnit d | none => false with
    | none => .next s
    | some i =>
      match (s.net[i]?).map Packet.body with
      | some (Body.trace r) =>
        let s := s.drop i
        let wr := s.traceWr d
        let size := s.traceSize d
        let at_ := base + 0x1000 + 32 * (if size == 0 then 0 else wr % size)
        let s := s.writePhys 0 at_ (wordBytes r)
        .next (s.writePhys 0 (base + 8) (leBytes (wr + 1) 8))
      | _ => .next s

/-- TRACE_RDPTR_POLL: die `n`'s trace unit reads RDPTR when it finds the ring full, and every 1,024 cycles while it stays full or in
error (R405); not before software has given the ring a SIZE. -/
def execTraceRdptrPoll (s : State) : Out :=
  let d := s.ev.n
  let x := s.die d
  if !(x.ringErr || s.traceFull d) || s.traceSize d == 0 || decide (s.now < x.ringNext) then .next s
  else
    let rd := s.hbm.nat (x.trbase + 0x10) 8
    let wr := s.traceWr d
    let bad := decide (wr < rd) || decide (s.traceSize d < wr - rd)
    let s := s.writePhys 0 (x.trbase + 0x18) (leBytes (bit bad) 8)
    .next (s.modDie d fun x => { x with ringErr := bad, ringRd := if bad then x.ringRd else rd, ringNext := s.now + 1024 })

/-! ### Link counts (R406 to R408) -/

/-- Physical row and column of an agent's router; memory and service cores attach where their map entries say (R223). -/
def State.position (s : State) (c : Nat) : Nat × Nat :=
  if c < 4096 then (c % 1024 / 32, c % 32)
  else (bits (s.mapEntry c).toNat 5 5, bits (s.mapEntry c).toNat 0 5)

/-- Has a router die links (R417)? -/
def State.dieLinks (s : State) (c : Nat) : Bool :=
  let (r, q) := s.position c
  (if agentDie c < 2 then r == 0 else r == 31) && q % 3 == 1 && decide (q ≤ 28)

/-- The existing ports of a router: local, the neighbours, which continue across shared edges, and the die links (R387, R406,
R416). -/
def State.ports (s : State) (c : Nat) : List Nat :=
  let (r, q) := s.position c
  let d := agentDie c
  [0] ++ (if r != 0 || decide (2 ≤ d) then [1] else []) ++ (if q != 31 || d % 2 == 0 then [2] else [])
    ++ (if r != 31 || decide (d < 2) then [3] else []) ++ (if q != 0 || d % 2 == 1 then [4] else [])
    ++ (if s.dieLinks c then [5, 6, 7, 8] else [])

/-- Does a core-map entry of the die name the position of an agent's router (R406)? -/
def State.routerNamed (s : State) (c : Nat) : Bool :=
  (s.die (agentDie c)).map.any fun e => e.2.getLsbD 15 && bits e.2.toNat 0 10 == s.routerOf c % 1024

/-- The counts of an interval: flits and stalls are free, at most one a cycle, because the spec states neither how many flits a message
takes nor when each leaves (log entry 26). A router that no core-map entry names counts nothing (R406). -/
def State.linkCounts (s : State) (c : Nat) (n : Nat) : Core × Nat :=
  let co := s.core c
  let f := fun i => if s.routerNamed c then (Config.freeWord (2 * (s.tick * 128 + i))).toNat % (n + 1) else 0
  let keys := (s.ports c).flatMap fun p => [0, 1, 2, 3].map fun v => 4 * p + v
  ({ co with flits := keys.map fun k => (k, f k), stalls := keys.map fun k => (k, f (64 + k)) }, s.tick + 1)

/-- One dumped record, or one more loss (R404). -/
def Core.dump (co : Core) (ws : List Word) : Core :=
  if co.trace.length < 64 then { co with trace := co.trace ++ [ws] } else { co with lossD := min (co.lossD + 1) (2 ^ 32 - 1) }

/-- Word 0 of a dumped record (R408). -/
def dumpWord (kind port idx v : Nat) (part : Bool) : Word :=
  BitVec.ofNat 64 (kind * 2 ^ 56 + port * 2 ^ 52 + bit part * 2 ^ 51 + idx % 2 ^ 24 * 2 ^ 13 + v)

/-- The eight counts of a port (R408). -/
def Core.portCounts (co : Core) (p : Nat) : List Nat :=
  [0, 1, 2, 3].flatMap fun v => [(kget co.flits (4 * p + v)).getD 0, (kget co.stalls (4 * p + v)).getD 0]

/-- A packed number of 24-bit counts. -/
def pack24 : List Nat → Nat
  | [] => 0
  | n :: l => n % 2 ^ 24 + 2 ^ 24 * pack24 l

/-- The interval's dump: a record of KIND 0x40 for each port, and one of KIND 0x41 (R408). Every count starts again at zero. -/
def State.dumpCounts (s : State) (c n : Nat) (part : Bool) : State :=
  let (co, tick) := s.linkCounts c n
  match co.capture with
  | none => s
  | some cp =>
    let v := s.vcoreOf c
    let co := (s.ports c).foldl (fun (co : Core) p =>
      let w := pack24 (co.portCounts p)
      co.dump [dumpWord 0x40 p cp.idx v part, BitVec.ofNat 64 (bits w 0 64), BitVec.ofNat 64 (bits w 64 64),
        BitVec.ofNat 64 (bits w 128 64)]) co
    let co := co.dump [dumpWord 0x41 0 cp.idx v part,
      BitVec.ofNat 64 (co.lapses % 2 ^ 32 * 2 ^ 32 + co.eccCount), BitVec.ofNat 64 (co.walks % 2 ^ 32 * 2 ^ 32 + co.replays),
      BitVec.ofNat 64 (co.tileBusy % 2 ^ 32 * 2 ^ 32 + co.bubbles % 2 ^ 32)]
    { (s.setCore c { co with flits := [], stalls := [], lapses := 0, eccCount := 0, walks := 0, replays := 0, tileBusy := 0,
                             bubbles := 0 }) with tick := tick }

/-- The management agent of die `d` floods a capture packet on VC 0 to every router of the powered dies (R407). -/
def State.floodCapture (s : State) (d : Nat) (b : Body) : State :=
  { s with net := s.net ++ ((s.cores.map (·.1)).filter fun c => decide (c < 4096)).map fun c =>
      { src := mgmtAgent d, dst := c, vc := 0, since := s.now, body := b } }

/-- A capture packet has come to its router, which takes it although its core may be fenced (R389). -/
def State.onCapture (s : State) (n : Nat) (f : State → Nat → Body → Option State) : Out :=
  .next (match s.packet n with
    | some pk => (f (s.drop n) pk.dst pk.body).getD s
    | none => s)

/-- CAPTURE_START_PACKET: packet `n` starts a capture with IDX0, INTLEN and NINT at its router; one in progress ends without a dump, and
the counts start at zero (R407). -/
def execCaptureStartPacket (s : State) : Out :=
  s.onCapture s.ev.n fun s c b =>
    match b with
    | .capture true idx len count => some (s.modCore c fun co =>
      { co with capture := some { idx := idx % 2 ^ 24, len := len, count := count, done := 0, start := s.now },
                flits := [], stalls := [], lapses := 0, eccCount := 0, walks := 0, replays := 0, tileBusy := 0, bubbles := 0 })
    | _ => none

/-- CAPTURE_INTERVAL_END: an interval of the router of agent `c` ends: its counts are dumped and the next interval opens, or the
capture stops (R407, R408). -/
def execCaptureIntervalEnd (s : State) : Out :=
  let c := s.ev.c
  match (s.core c).capture with
  | none => .next s
  | some cp =>
    if s.now < cp.start + cp.len then .next s
    else
      let s := s.dumpCounts c cp.len false
      let done := cp.done + 1
      .next (s.modCore c fun co =>
        { co with capture := if cp.count != 0 && decide (cp.count ≤ done) then none
            else some { cp with idx := (cp.idx + 1) % 2 ^ 24, done := done, start := cp.start + cp.len } })

/-- CAPTURE_STOP_PACKET: packet `n` ends the interval of its router with a dump marked PARTIAL (R407). -/
def execCaptureStopPacket (s : State) : Out :=
  s.onCapture s.ev.n fun s c b =>
    match b with
    | .capture false _ _ _ => some (match (s.core c).capture with
      | none => s
      | some cp => (s.dumpCounts c (s.now - cp.start) true).modCore c fun co => { co with capture := none })
    | _ => none

end Sys2Proof.Machine
end

