-- ==== Sys2Proof/Machine/Bridges.lean ====
section
/-! DEFINITION. Sys2Proof/Machine/Bridges.lean: the UCIe bridges and their service (R418 to R421, R445, R446). The bridge is `n` and
the module `m` of the event. -/

namespace Sys2Proof.Machine

def State.bridge (s : State) (b : Nat) : Bridge := (s.bridges[b]?).getD Bridge.reset

def State.modBridge (s : State) (b : Nat) (f : Bridge → Bridge) : State :=
  { s with bridges := s.bridges.setIfInBounds b (f (s.bridge b)) }

/-- Module `m` of a bridge at reset. -/
def Module.reset : Module := { up := false, half := false, retry := 0, bad := 0, spares := 0, width := 0, row := 0 }

def Bridge.module (b : Bridge) (m : Nat) : Module := (b.mods[m]?).getD Module.reset

def Bridge.modModule (b : Bridge) (m : Nat) (f : Module → Module) : Bridge :=
  { b with mods := b.mods.setIfInBounds m (f (b.module m)) }

/-- A command that is refused or fails sets ERR (R420, R421). -/
def Bridge.refuse (b : Bridge) : Bridge := { b with err := true }

/-- BRIDGE_FLIT_RETRY: a flit on a module that carries flits fails its CRC and is retried; `flag` says that this retry fails too, and
the sixteenth failure in a row takes the module out (R419). -/
def execBridgeFlitRetry (s : State) : Out :=
  .next (s.modBridge s.ev.n fun b =>
    let m := b.module s.ev.m
    if !m.up then b
    else b.modModule s.ev.m fun m =>
      let m := { m with retry := min (m.retry + 1) (2 ^ 32 - 1), row := if s.ev.flag then m.row + 1 else 0 }
      if 16 ≤ m.row then { m with up := false, width := 2, row := 0 } else m)

/-- BRIDGE_PAUSE: BCTL command PAUSE (R421). -/
def execBridgePause (s : State) : Out :=
  .next (s.modBridge s.ev.n fun b => if b.state == 0 then { b with state := 1 } else b.refuse)

/-- BRIDGE_PAUSED: every sent flit has been acknowledged (R421). -/
def execBridgePaused (s : State) : Out :=
  .next (s.modBridge s.ev.n fun b => if b.state == 1 then { b with state := 2 } else b)

/-- A command on a module of a paused bridge (R421). -/
def Bridge.command (b : Bridge) (m : Nat) (f : Bridge → Bridge) : Bridge :=
  if 10 ≤ m || b.state != 2 then b.refuse else f b

/-- BRIDGE_REPAIR: BCTL command REPAIR begins to measure the module (R421, R446). -/
def execBridgeRepair (s : State) : Out :=
  .next (s.modBridge s.ev.n fun b => b.command s.ev.m fun b => { b with state := 3, mod := s.ev.m })

/-- BRIDGE_RETRAIN: BCTL command RETRAIN begins to train the module (R421). -/
def execBridgeRetrain (s : State) : Out :=
  .next (s.modBridge s.ev.n fun b => b.command s.ev.m fun b => { b with state := 4, mod := s.ev.m })

/-- BRIDGE_RESUME: BCTL command RESUME (R421). -/
def execBridgeResume (s : State) : Out :=
  .next (s.modBridge s.ev.n fun b =>
    if b.state != 2 || !(b.mods.any fun m => m.up) then b.refuse else { b with state := 0 })

/-- BRIDGE_MODOFF: BCTL command MODOFF clears the module's UP (R421). -/
def execBridgeModoff (s : State) : Out :=
  .next (s.modBridge s.ev.n fun b =>
    b.command s.ev.m fun b => b.modModule s.ev.m fun m => { m with up := false })

/-- The end of a repair that found `n` failing lanes (R446). -/
def Bridge.repaired (b : Bridge) (n : Nat) : Bridge :=
  let b := (b.modModule b.mod fun m => { m with bad := n, spares := if n ≤ 4 then n else m.spares })
  if n ≤ 4 then b else b.refuse

/-- The end of a training that found `lo` and `hi` failing lanes in the halves (R421, R446). -/
def Bridge.trained (b : Bridge) (lo hi : Nat) : Bridge :=
  let n := lo + hi
  let up := fun (m : Module) (half : Bool) (sp : Nat) =>
    { m with up := true, half := half, bad := n, spares := sp, width := if half then 1 else 0, row := 0 }
  if n ≤ 4 then b.modModule b.mod fun m => up m false n
  else if lo ≤ 4 || hi ≤ 4 then b.modModule b.mod fun m => up m true (min lo hi)
  else (b.modModule b.mod fun m => { m with up := false, half := false, bad := n, spares := 0, width := 2, row := 0 }).refuse

/-- BRIDGE_SERVICE_DONE: a repair or training completes; `m` lanes of the lower half and `k` of the upper half fail (R421, R446). -/
def execBridgeServiceDone (s : State) : Out :=
  let lo := min s.ev.m 32
  let hi := min s.ev.k 32
  .next (s.modBridge s.ev.n fun b =>
    if b.state == 3 then { b.repaired (lo + hi) with state := 2 }
    else if b.state == 4 then { b.trained lo hi with state := 2 }
    else b)

/-! ### Registers (R420) -/

/-- Bits of the modules, module 0 lowest. -/
def Bridge.moduleBits (b : Bridge) (f : Module → Bool) : Nat :=
  ((List.range 10).map fun m => bit (f (b.module m)) * 2 ^ m).foldl (· + ·) 0

/-- BSTAT. -/
def Bridge.stat (b : Bridge) : Nat :=
  bit b.err * 2 ^ 40 + b.state * 2 ^ 36 + b.moduleBits (·.half) * 2 ^ 26 + b.moduleBits (·.up) * 2 ^ 16

/-- BMODm. -/
def Module.word (m : Module) : Nat := m.retry * 2 ^ 32 + m.bad * 2 ^ 8 + m.spares * 2 ^ 5 + m.width

/-- A read of a register of bridge `b` at an offset of its window: BSTAT, BCTL, which reads zero, BMODm (R4, R420, R445). -/
def State.bridgeRead (s : State) (b off : Nat) : Word :=
  if off == 0 then BitVec.ofNat 64 (s.bridge b).stat
  else if 0x40 ≤ off && decide (off < 0x90) && off % 8 == 0 then BitVec.ofNat 64 ((s.bridge b).module ((off - 0x40) / 8)).word
  else 0

/-- A write of a register of bridge `b` at an offset of its window (R420, R445): a BCTL write gives a command, ERR and RETRY are
cleared by writing 1, and every other offset ignores it. -/
def State.bridgeWrite (s : State) (b off : Nat) (w : Word) : Out :=
  if off == 0 then .next (s.modBridge b fun x => if w.getLsbD 40 then { x with err := false } else x)
  else if off == 8 then
    let s' := { s with ev := { s.ev with n := b, m := bits w.toNat 8 4 } }
    let cmd := bits w.toNat 0 4
    if cmd == 1 then execBridgePause s'
    else if cmd == 2 then execBridgeRepair s'
    else if cmd == 3 then execBridgeRetrain s'
    else if cmd == 4 then execBridgeResume s'
    else if cmd == 5 then execBridgeModoff s'
    else .next (s.modBridge b Bridge.refuse)
  else if 0x40 ≤ off && decide (off < 0x90) && off % 8 == 0 then
    .next (s.modBridge b fun x => x.modModule ((off - 0x40) / 8) fun m => if w.getLsbD 32 then { m with retry := 0 } else m)
  else .next s

end Sys2Proof.Machine
end

