-- ==== Sys2Proof/Machine/HostSide.lean ====
section
/-! DEFINITION. Sys2Proof/Machine/HostSide.lean: the host interface unit (R433 to R440): host accesses, snoops, command rings and
their commands, event queues and SUMMARY. -/

namespace Sys2Proof.Machine

/-! ### Host accesses (R433, R435) -/

/-- The parts of [a, a + n) in 64-byte lines: offset and length. -/
def linePieces (a n : Nat) : List (Nat × Nat) :=
  (List.range ((a + n + 63) / 64 - a / 64)).map fun i =>
    let lo := max a (64 * (a / 64 + i))
    (lo - a, min (a + n) (64 * (a / 64 + i + 1)) - lo)

/-- The host reads `n` bytes of device memory at `a`, or writes bytes there: the host interface unit sends each line's part to its home
(R433). -/
def State.hostAccess (s : State) (a n : Nat) (data : Option (List Byte)) : State :=
  if n == 0 then s
  else (linePieces a n).foldl (fun s e => s.send hostUnit (homeOf (a + e.1)) 1
    (.hostAccess (a + e.1) e.2 (data.map fun d => (d.drop e.1).take e.2))) s

/-- The home performs an access of the host: a line that is read is one that the host may hold from now on, and a write is complete once
it is performed (R433). -/
def State.hostPerform (s : State) (a n : Nat) (data : Option (List Byte)) : State :=
  match data with
  | some d => (s.putPhys 0 a d).out (.hostWritten a n)
  | none =>
    (s.modHome (homeOf a) fun h => { h with host := insertNat (a / 64) h.host }).out (.hostRead a (s.hbm.bytes a n))

/-- Is the package offered to the host: have all four compute dies come up (R447)? -/
def State.offered (s : State) : Bool := s.dies.toList.all fun x => x.powered

/-- HOST_MEM_ACCESS: with `k` = 0 the host reads `m` bytes of device memory at `n`, or with `flag` writes the given bytes there; with
`k` = 1 packet `n` is performed at its home, where a locked line makes it wait (R359, R433). A package that is not offered to the host
takes no access of it (R447). -/
def execHostMemAccess (s : State) : Out :=
  if s.ev.k == 0 then
    let a := s.ev.n
    let len := if s.ev.flag then s.ev.bytes.length else s.ev.m
    if !s.offered then .next s
    else if hbmSize < a + len then .fault (.noSuchPhysical (a + len))
    else .next (s.hostAccess a len (if s.ev.flag then some s.ev.bytes else none))
  else
    .next (s.onPacket s.ev.n fun s pk =>
      match pk.body with
      | .hostAccess a n data => if s.locked 0 a n then none else some (s.hostPerform a n data)
      | _ => none)

/-- CXL_SNOOP: a line of aperture `n` at address `m` is taken from the host interface unit: the bytes that its owner writes there
follow, and the watchers of its monitors are told (R435). -/
def execCxlSnoop (s : State) : Out :=
  let ap := if s.ev.n == 1 then 1 else 2
  if s.ev.bytes.isEmpty then .next (s.notifyWatch ap s.ev.m 1) else .next (s.writePhys ap s.ev.m s.ev.bytes)

/-! ### Command rings (R436, R437) -/

/-- Command ring `r`. -/
def State.cmdRing (s : State) (r : Nat) : CmdRing :=
  (s.rings[r]?).getD { w0 := 0, w1 := 0, head := 0, cur := none, busy := false, asked := none, told := none }

def State.setRingDesc (s : State) (r : Nat) (x : CmdRing) : State := { s with rings := s.rings.setIfInBounds r x }

def CmdRing.ap (x : CmdRing) : Nat := bits x.w0.toNat 60 4
def CmdRing.base (x : CmdRing) : Nat := bits x.w0.toNat 0 52
def CmdRing.en (x : CmdRing) : Bool := x.w1.getLsbD 32
def CmdRing.size (x : CmdRing) : Nat := bits x.w1.toNat 0 32

/-- TAIL of a ring, in memory. -/
def State.ringTail (s : State) (x : CmdRing) : Nat := (s.phys x.ap).nat x.base 8

/-- The address of entry `i` and of its completion (R437). -/
def CmdRing.entryAt (x : CmdRing) (i : Nat) : Nat := x.base + 0x40 + 64 * (if x.size == 0 then 0 else i % x.size)
def CmdRing.doneAt (x : CmdRing) (i : Nat) : Nat :=
  x.base + 0x40 + 64 * x.size + 16 * (if x.size == 0 then 0 else i % x.size)

/-- RDESC_ENABLE: a write of word 1 `w` of RDESC `n`: SIZE and EN, which take effect while EN = 0; EN = 1 resets HEAD to TAIL and
drops an entry that was read before, and EN = 0 disables the ring (R436; log entry 129). A package that is not offered to the host has
none (R447). -/
def execRdescEnable (s : State) : Out :=
  let r := s.ev.n
  let x := s.cmdRing r
  let w := s.ev.w &&& 0x1FFFFFFFF
  if !s.offered then .next s
  else if x.en then .next (if w.getLsbD 32 then s else s.setRingDesc r { x with w1 := x.w1 &&& 0xFFFFFFFF })
  else if !w.getLsbD 32 then .next (s.setRingDesc r { x with w1 := w })
  else
    let x := { x with w1 := w, cur := none, busy := false, asked := none, told := none }
    .next (s.setRingDesc r { x with head := s.ringTail x })

/-- COMMAND_RING_FETCH: ring `n` has a command that has not been read: it is read; a ring whose TAIL is more than SIZE ahead is
disabled and the management core told (R437). -/
def execCommandRingFetch (s : State) : Out :=
  let r := s.ev.n
  let x := s.cmdRing r
  let tail := s.ringTail x
  if !x.en || x.cur.isSome || tail ≤ x.head then .next s
  else if x.size < tail - x.head then
    .next ((s.setRingDesc r { x with w1 := x.w1 &&& 0xFFFFFFFF }).out (.record [BitVec.ofNat 64 r, Config.freeWord (2 * s.tick + 1)]))
  else .next (s.setRingDesc r { x with cur := some (headerOf ((s.phys x.ap).bytes (x.entryAt x.head) 64)) })

/-- The entry in execution of ring `r` when it has a given OPC (R438). -/
def State.command (s : State) (r opc : Nat) : Option (Vector Word 8) :=
  match (s.cmdRing r).cur with
  | some w => if bits w[0].toNat 56 8 == opc then some w else none
  | none => none

def cmdCtx (w : Vector Word 8) : Nat := bits w[0].toNat 44 12

/-- Complete the entry of ring `r`: the completion and then HEAD + 1 (R437, R438). -/
def State.completeCmd (s : State) (r st : Nat) (value : Word) : State :=
  let x := s.cmdRing r
  match x.cur with
  | none => s
  | some w =>
    let c := [BitVec.ofNat 64 (st * 2 ^ 56 + bits w[0].toNat 0 32), value]
    let s := s.writePhys x.ap (x.doneAt x.head) (wordBytes c)
    let s := s.writePhys x.ap (x.base + 8) (leBytes (x.head + 1) 8)
    s.setRingDesc r { x with head := x.head + 1, cur := none, busy := false, asked := none, told := none }

/-- The bits of words 1 to 7 that a command gives no meaning; they are its reserved fields (R438, log entry 35). -/
def cmdReserved (opc : Nat) : List Word :=
  let all : Word := BitVec.allOnes 64
  if opc == 1 then []
  else if opc == 2 || opc == 3 then [0, all, all, all, all, all, all]
  else if opc == 5 || opc == 6 then [0, 0, all, all, all, all, all]
  else if opc == 7 then [0x0FF0000000000000, 0xFFFE000000000000, all, all, all, all, all]
  else if opc == 8 then [0x0FF0000000000000, 0, all, all, all, all, all]
  else [all, all, all, all, all, all, all]

/-- Is a reserved field of an entry nonzero (R438)? -/
def cmdBad (opc : Nat) (w : Vector Word 8) : Bool :=
  bits w[0].toNat 32 12 != 0 || ((w.toList.drop 1).zip (cmdReserved opc)).any fun e => e.1 &&& e.2 != 0

/-- Run a command on ring `r`; one with a nonzero reserved field is refused (R438). -/
def State.runCmd (s : State) (opc : Nat) (f : State → Nat → Vector Word 8 → Out) : Out :=
  let r := s.ev.n
  match s.command r opc with
  | none => .next s
  | some w => if cmdBad opc w then .next (s.completeCmd r 2 0) else f s r w

/-- CMD_LAUNCH on ring `n`: a launch of depth 0 by the launch agent of the die of FIRST (R438). -/
def execCmdLaunch (s : State) : Out :=
  s.runCmd 1 fun s r w =>
    let e : Vector Word 8 := Vector.ofFn fun i : Fin 8 =>
      if i.val < 6 then (w[i.val + 1]?).getD 0 else if i.val == 6 then 0 else w[7]
    if !launchOk e[0] e[1] e[7] then .next (s.completeCmd r 2 0)
    else
      let die := dieOf (bits e[1].toNat 0 13)
      if !s.hostOpen (launchAgent die) then .next s
      else match s.createLaunch die e (cmdCtx w) [] true none { core := hostUnit, uid := r } with
        | .answer st id s => .next (s.completeCmd r st (BitVec.ofNat 64 (if st == 0 then id else 0)))
        | .later s | .joining s => .next s
        | .noPhys pa => .fault (.noSuchPhysical pa)

/-- CMD_RETIRE on ring `n`: a DONE record of depth 0 is freed (R232, R438). -/
def execCmdRetire (s : State) : Out :=
  s.runCmd 2 fun s r w =>
    let id := w[1].toNat
    if !s.hostOpen (launchAgent (idDie id)) then .next s
    else .next (match s.launchRec id with
      | some l => if l.state == 5 && l.depth == 0 then (s.freeRecord id).completeCmd r 0 0 else s.completeCmd r 2 0
      | none => s.completeCmd r 2 0)

/-- Ask the launch agent of another package to cancel a launch of the context of a command (R234). -/
def State.hostAsk (s : State) (r id ctx : Nat) : State :=
  (s.setRingDesc r { s.cmdRing r with busy := true, asked := some id, told := none }).sendTo hostUnit
    (s.dest (idPkg id) (launchAgent (idDie id))) 0 (.launchAsk id ctx 1 { core := hostUnit, uid := r })

/-- CMD_CANCEL on ring `n`: as LCANCEL, and it completes when LCANCEL would retire (R234, R438). -/
def execCmdCancel (s : State) : Out :=
  s.runCmd 3 fun s r w =>
    let id := w[1].toNat
    if !idOk id || idKind id == 2 then .next (s.completeCmd r 2 0)
    else if idPkg id != s.pkgid.toNat then
      .next (if !(s.cmdRing r).busy then s.hostAsk r id (cmdCtx w)
        else match (s.cmdRing r).told with
          | some st => s.completeCmd r st 0
          | none => s)
    else if !s.hostOpen (launchAgent (idDie id)) then .next s
    else
      let st := s.idStatus id (cmdCtx w)
      .next ((if st == 0 then s.cancelTree id else s).completeCmd r st 0)

/-- CMD_JCANCEL on ring `n` (R237, R438). -/
def execCmdJcancel (s : State) : Out :=
  s.runCmd 4 fun s r w =>
    if [0, 1, 2, 3].all fun d => s.hostOpen (launchAgent d) then .next ((s.cancelJob hostUnit (cmdCtx w)).completeCmd r 0 0)
    else .next s

/-- The descriptor of PSAVE or PRESUME on the context of the entry (R384, R438). -/
def cmdDesc (w : Vector Word 8) : Word := (w[1] &&& ~~~(0xFFF : Word)) ||| BitVec.ofNat 64 (cmdCtx w)

/-- PSAVE and PRESUME: the command begins, and completes when every core of the range is done (R384, R438). -/
def State.hostPreempt (s : State) (save : Bool) (r : Nat) (w : Vector Word 8) : Out :=
  let x := s.cmdRing r
  let who : Who := { core := hostUnit, uid := r }
  let d := cmdDesc w
  let base := w[2]
  if x.busy then
    (if s.cores.any fun e => e.2.jobs.any fun j => j.who == who then .next s else .next (s.completeCmd r 0 0))
  else if saveBad d base || decide (hbmSize < base.toNat + saveSize * saveCount d) then .next (s.completeCmd r 2 0)
  else if !((saveRange d base).all fun e => s.hostOpen (launchAgent (dieOf e.1))) then .next s
  else match (if save then s.beginSave d base none who else s.beginResume d base none who) with
    | none => .next (s.completeCmd r 2 0)
    | some s => .next (s.setRingDesc r { s.cmdRing r with busy := true })

/-- CMD_PSAVE on ring `n` (R374, R438). -/
def execCmdPsave (s : State) : Out := s.runCmd 5 fun s r w => s.hostPreempt true r w

/-- CMD_PRESUME on ring `n` (R381, R438). -/
def execCmdPresume (s : State) : Out := s.runCmd 6 fun s r w => s.hostPreempt false r w

/-- CMD_NOP on ring `n`; an OPC that is no command is refused here too (R438). -/
def execCmdNop (s : State) : Out :=
  let r := s.ev.n
  match (s.cmdRing r).cur with
  | none => .next s
  | some w =>
    let opc := bits w[0].toNat 56 8
    if 1 ≤ opc && decide (opc ≤ 8) then .next s
    else .next (s.completeCmd r (if opc == 9 && !cmdBad opc w then 0 else 2) 0)

/-! ### Event queues (R439) -/

/-- Is a number a power of two within bounds? -/
def powerOfTwo (lo hi n : Nat) : Bool := (List.range (hi + 1)).any fun k => decide (lo ≤ k) && n == 2 ^ k

/-- CMD_EVQ on ring `n`: the event queue of the entry's context is configured or disabled (R439). -/
def execCmdEvq (s : State) : Out :=
  s.runCmd 7 fun s r w =>
    let ctx := cmdCtx w
    let ap := bits w[1].toNat 60 4
    let base := bits w[1].toNat 0 60
    let size := bits w[2].toNat 0 32
    if !w[2].getLsbD 48 then
      .next ({ s with evqs := match kget s.evqs ctx with
        | some q => kset s.evqs ctx { q with en := false }
        | none => s.evqs }.completeCmd r 0 0)
    else if base % 4096 != 0 || 3 ≤ ap || !powerOfTwo 10 26 size then .next (s.completeCmd r 2 0)
    else if ap == 0 && decide (hbmSize < base + 0x1000 + 32 * size) then .fault (.noSuchPhysical (base + 0x1000 + 32 * size))
    else if ap == 0 && !s.hostOpen (homeOf base) then .next s
    else
      let q : EventQueue := { en := true, ap := ap, base := base, vector := bits w[2].toNat 32 16, size := size, wrptr := 0,
                              rd := 0, loss := 0, poll := none,
                              irqAt := ((kget s.evqs ctx).map (·.irqAt)).getD 0 }
      let s := s.writePhys ap (base + 8) (leBytes 0 8)
      let s := s.writePhys ap (base + 0x18) (leBytes 0 8)
      .next ({ s with evqs := kset s.evqs ctx q }.completeCmd r 0 0)

/-- Is a queue full at a given RDPTR, or is the pointer inconsistent (R439)? -/
def EventQueue.fullAt (q : EventQueue) (rd : Nat) : Bool := decide (q.wrptr < rd) || decide (q.size ≤ q.wrptr - rd)

/-- RDPTR in the control block. -/
def State.rdptr (s : State) (q : EventQueue) : Nat := (s.phys q.ap).nat (q.base + 0x10) 8

/-- A record that finds its queue full is discarded and counted (R439). -/
def State.loseEvent (s : State) (ctx : Nat) (q : EventQueue) : State :=
  let n := min (q.loss + 1) (2 ^ 32 - 1)
  (({ s with evqs := kset s.evqs ctx { q with loss := n } } : State).writePhys q.ap (q.base + 0x18) (leBytes n 8))

/-- Write a record, WRPTR, and raise the vector when the queue was empty, at most once in 4 µs (R439). -/
def State.writeEvent (s : State) (ctx : Nat) (q : EventQueue) (words : List Word) : State :=
  let empty := s.rdptr q == q.wrptr
  let s := s.writePhys q.ap (q.base + 0x1000 + 32 * (q.wrptr % q.size)) (wordBytes words)
  let s := s.writePhys q.ap (q.base + 8) (leBytes (q.wrptr + 1) 8)
  let irq := empty && decide (q.irqAt ≤ s.now)
  let q := { q with wrptr := q.wrptr + 1, poll := none, irqAt := if irq then s.now + 5000 else q.irqAt }
  let s := { s with evqs := kset s.evqs ctx q }
  if irq then s.out (.msix q.vector) else s

/-- Is the way from the host interface unit to the control block and the next record of a queue open (R421)? -/
def State.queueOpen (s : State) (q : EventQueue) : Bool :=
  q.ap != 0 || (s.hostOpen (homeOf q.base) && s.hostOpen (homeOf (q.base + 0x1000 + 32 * (q.wrptr % q.size))))

/-- EVENT_RECORD_WRITE: the host interface unit takes the oldest record that no paused bridge holds: it goes to its context's queue, or
is lost (R421, R439). The RDPTR in memory decides, but a queue found full is looked at again only by the poll (log entry 33). -/
def execEventRecordWrite (s : State) : Out :=
  match s.events.find? fun e => s.hostOpen e.1 with
  | none => .next s
  | some (c, ctx, words) =>
    let old := s
    let s := { s with events := s.events.erase (c, ctx, words) }
    match kget s.evqs ctx with
    | none => .next { s with lostEvents := s.lostEvents + 1 }
    | some q =>
      if !q.en then .next { s with lostEvents := s.lostEvents + 1 }
      else if !s.queueOpen q then .next old
      else if q.poll.isSome then .next (s.loseEvent ctx q)
      else
        let rd := s.rdptr q
        if q.fullAt rd then .next (s.loseEvent ctx { q with rd := rd, poll := some (s.now + 1024) })
        else .next (s.writeEvent ctx { q with rd := rd } words)

/-- EVQ_RDPTR_POLL: the RDPTR of the full queue of context `n` is read again, every 1,024 cycles (R439). -/
def execEvqRdptrPoll (s : State) : Out :=
  let ctx := s.ev.n
  match kget s.evqs ctx with
  | none => .next s
  | some q =>
    match q.poll with
    | none => .next s
    | some t =>
      if s.now < t || !s.queueOpen q then .next s
      else
        let rd := s.rdptr q
        let q := { q with rd := rd, poll := if q.fullAt rd then some (s.now + 1024) else none }
        .next { s with evqs := kset s.evqs ctx q }

/-! ### SUMMARY (R440) -/

/-- Zero bytes. -/
def zeros (n : Nat) : List Byte := List.replicate n 0

/-- Saturating 16-bit RETRY totals of four modules in a word. -/
def retryWord (b : Bridge) (ms : List Nat) : Word :=
  BitVec.ofNat 64 ((ms.zip (List.range 4)).foldl (fun n e => n + min (b.module e.1).retry 65535 * 2 ^ (16 * e.2)) 0)

/-- State of a port: up once the I/O dies are powered (R440, R447). -/
def State.portWord (s : State) (retries : Nat) : Word := BitVec.ofNat 64 ((if 4 ≤ s.power then 2 else 0) * 2 ^ 62 + retries % 2 ^ 32)

/-- The entry of a context. -/
def State.contextWords (s : State) (ctx : Nat) : List Word :=
  let live := s.jobLive ctx || s.cores.any fun e => (e.2.procsOf ctx).length != 0
  let evq := kget s.evqs ctx
  let saves := s.cores.foldl (fun n e => max n ((e.2.saved.filter fun v => v.ctx == ctx).length)) 0
  let launches := (s.launches.filter fun e => !e.2.graph && e.2.live && e.2.ctx == ctx).length
  let en := match evq with | some q => q.en | none => false
  let (loss, wr) := match evq with | some q => (q.loss, q.wrptr) | none => (0, 0)
  [BitVec.ofNat 64 (bit live * 2 ^ 63 + bit en * 2 ^ 62 + saves % 8 * 2 ^ 32 + launches), pair32 loss wr]

/-- The entry of pool record `i` of die `d`. -/
def State.poolWords (s : State) (d i : Nat) : List Word :=
  match kget (s.die d).pool i with
  | none => [0, 0, 0, 0]
  | some r => [BitVec.ofNat 64 (r.state * 2 ^ 61 + r.depth * 2 ^ 56 + r.ctx * 2 ^ 44), BitVec.ofNat 64 (s.launchId d i r),
      BitVec.ofNat 64 (r.above.headD 0), BitVec.ofNat 64 (r.counter % 2 ^ 32)]

/-- Fault records that the pagers have received and not answered. -/
def State.unanswered (s : State) : List (List Word) :=
  s.cores.flatMap fun e => (e.2.faults.filter fun f => f.stage == 2).map (·.msg)

/-- The bytes of a SUMMARY. -/
def State.summaryBytes (s : State) : List Byte :=
  let faults := s.unanswered.take 4096
  let clock : Word := (s.ioClock 0).1.zeroExtend 64
  let fencedV := ([0, 1, 2, 3].flatMap fun d => (s.die d).map.filter fun e => e.2.getLsbD 14).length
  wordBytes [BitVec.ofNat 64 (2 ^ 56 + s.summaries % 2 ^ 32), clock, clock, BitVec.ofNat 64 s.lostEvents,
      BitVec.ofNat 64 faults.length, BitVec.ofNat 64 fencedV, 0, 0]
    ++ (List.range 16).flatMap (fun r => wordBytes [(s.cmdRing r).w1, BitVec.ofNat 64 (s.cmdRing r).head])
    ++ (List.range 8).flatMap (fun b => wordBytes [BitVec.ofNat 64 (s.bridge b).stat, retryWord (s.bridge b) [0, 1, 2, 3],
        retryWord (s.bridge b) [4, 5, 6, 7], retryWord (s.bridge b) [8, 9]])
    ++ (List.range 64).flatMap (fun p => match s.links[p]? with
        | some l => wordBytes [s.portWord l.retries, BitVec.ofNat 64 l.resends]
        | none => zeros 16)
    ++ (List.range 6).flatMap (fun _ => wordBytes [s.portWord 0, 0])
    ++ zeros (0x800 - 0x6A0)
    ++ (List.range 4).flatMap (fun d => (List.range 1152).flatMap fun i => leBytes ((kget (s.die d).map i).getD 0).toNat 2)
    ++ zeros (0x3000 - 0x2C00)
    ++ (List.range 4096).flatMap (fun ctx => wordBytes (s.contextWords ctx))
    ++ (List.range 4).flatMap (fun d => (List.range 2048).flatMap fun i => wordBytes (s.poolWords d i))
    ++ faults.flatMap wordBytes ++ zeros (32 * (4096 - faults.length))

/-- Bytes of a SUMMARY. -/
def summarySize : Nat := 0x73000

/-- CMD_SUMMARY on ring `n` (R440). -/
def execCmdSummary (s : State) : Out :=
  s.runCmd 8 fun s r w =>
    let ap := bits w[1].toNat 60 4
    if (ap != 1 && ap != 2) || w[2].toNat < summarySize then .next (s.completeCmd r 2 0)
    else
      let s := s.writePhys ap (bits w[1].toNat 0 60) s.summaryBytes
      .next (({ s with summaries := s.summaries + 1 }).completeCmd r 0 (BitVec.ofNat 64 summarySize))

end Sys2Proof.Machine
end

