-- ==== Sys2Proof/Machine/Fabric.lean ====
section
/-! DEFINITION. Sys2Proof/Machine/Fabric.lean: what leaves the package and what comes from other packages (R422 to R432, R464): the
route table, the links and flows of the scale-up ports, the lend tables, switch reductions, and the course transport of the
Ethernet ports. Packets of other packages name agents as this package does (log entry 28). -/

namespace Sys2Proof.Machine

/-! ### Names -/

/-- The package of a peer's agent, and the vcore that it names there. -/
def peerPkg (c : Nat) : Nat := c / 65536 - 1
def peerVcore (c : Nat) : Nat := c % 65536

/-- The I/O die that serves an agent of a package (R415); the host interface unit is on I/O die 0. -/
def ioDie (v : Nat) : Nat :=
  if v < 3968 then dieOf v / 2 else if v < 4096 then 0 else if v < 4360 then agentDie v / 2 else 0

def State.routeOf (s : State) (pkg : Nat) : Route := (kget s.routes pkg).getD { w0 := 0, w1 := 0, w2 := 0, w3 := 0 }

/-- The scale-up address of a package; the package's own stands in its own entry (R422; log entry 28). -/
def State.swaddr (s : State) (pkg : Nat) : Nat := bits (s.routeOf pkg).w0.toNat 32 10

/-! ### Links (R423) -/

def State.link (s : State) (p : Nat) : Link := (s.links[p]?).getD Link.reset

def State.modLink (s : State) (p : Nat) (f : Link → Link) : State :=
  { s with links := s.links.setIfInBounds p (f (s.link p)) }

/-- The port through which a flow leaves (log entry 27). -/
def Flow.port (f : Flow) : Nat :=
  32 * (f.srcIo % 2) + Config.port ((((f.srcPkg * 2 + f.srcIo) * 1024 + f.dstPkg) * 2 + f.dstIo) * 8 + f.vc * 2 + f.cls) % 32

/-- Highest SEQ received in order. -/
def Link.lastIn (l : Link) : Nat := (l.expect + 4095) % 4096

/-- A flit of a link with its ACK and the credits that it owes (R423). -/
def Link.flit (l : Link) (seq kind : Nat) (slots : List LinkSlot) : LinkFlit :=
  { seq := seq, ack := l.lastIn, credits := l.owed.map (min 63), kind := kind, slots := slots }

/-- Send a flit with the next SEQ, kept for a replay (R423). -/
def State.sendFlit (s : State) (p kind : Nat) (slots : List LinkSlot) : State :=
  let l := s.link p
  let f := l.flit l.seq kind slots
  (s.modLink p fun l => { l with seq := (l.seq + 1) % 4096, buffer := l.buffer ++ [(l.seq, f)], owed := l.owed.map fun n => n - min 63 n,
                                 due := false }).out (.link p f)

/-- Credits that a link still has on a virtual channel. -/
def Link.room (l : Link) (vc : Nat) : Nat := Config.linkCredits - (l.used[vc]?).getD 0

/-- The place in the order of packets of the next one to go out: the first of its virtual channel, with a credit there. -/
def Link.next (l : Link) : Option (Nat × FlowPkt × Nat) :=
  ((List.range l.waiting.length).zip l.waiting).find? fun e =>
    !((l.waiting.take e.1).any fun x => x.1.flow.vc % 4 == e.2.1.flow.vc % 4) && l.room (e.2.1.flow.vc % 4) != 0

/-- Slots of a packet: the first `new` says that it begins here. -/
def FlowPkt.slots (x : FlowPkt) (new : Bool) : Nat → List LinkSlot
  | 0 => []
  | n + 1 => { vc := x.flow.vc % 4, first := if new then some x else none } :: x.slots false n

/-- Send what the credits and the replay buffer of 2,048 flits allow; a flit holds slots of one packet (R423; log entry 59). -/
def State.pumpLink (p : Nat) : Nat → State → State
  | 0, s => s
  | fuel + 1, s =>
    let l := s.link p
    if 2048 ≤ l.buffer.length then s
    else match l.next with
      | none => s
      | some (i, x, left) =>
        let vc := x.flow.vc % 4
        let n := min 4 (min left (l.room vc))
        let s := s.sendFlit p 0 (x.slots (left == x.len) n)
        State.pumpLink p fuel (s.modLink p fun l =>
          { l with used := l.used.setIfInBounds vc ((l.used[vc]?).getD 0 + n),
                   waiting := if left ≤ n then l.waiting.eraseIdx i else l.waiting.set i (x, left - n) })

/-- Rounds of `pumpLink` that a link can need. -/
def linkFuel : Nat := 2048

/-- A packet takes its turn on the link of a port (R423); one that is still waiting there is not queued again. -/
def State.linkSend (s : State) (p : Nat) (x : FlowPkt) : State :=
  let s := if (s.link p).waiting.any fun e => e.1 == x then s
    else s.modLink p fun l => { l with waiting := l.waiting ++ [(x, x.len)] }
  State.pumpLink p linkFuel s

/-- LEN of the next packet to leave (log entry 59). -/
def State.packetLen (s : State) : Nat × State := (1 + Config.flits s.tick % 255, { s with tick := s.tick + 1 })

/-- A packet of one slot with no FSEQ of its own leaves for the other end of a flow, or under a reduction identifier. -/
def State.linkControl (s : State) (f : Flow) (fseq rid : Nat) (b : FlowBody) : State :=
  let (n, s) := s.packetLen
  s.linkSend f.port { flow := f, fseq := fseq, rid := rid, len := n, body := b }

/-- Idle flits return the ACKs and credits that no data flit has taken (R423). -/
def State.idleFlits (s : State) : State :=
  (List.range 64).foldl (fun s p =>
    let l := s.link p
    if (l.due || l.owed.toList.any fun n => n != 0) && decide (l.buffer.length < 2048) then s.sendFlit p 1 [] else s) s

/-- The entries of a replay buffer after the one that an ACK names; all of them when it names none. -/
def afterAck {α : Type} (seq : Nat) (l : List (Nat × α)) : List (Nat × α) :=
  if l.any fun e => e.1 == seq then (l.dropWhile fun e => e.1 != seq).drop 1 else l

/-! ### Flows (R424) -/

/-- A flow that has carried nothing yet. -/
def FlowState.start (f : Flow) : FlowState :=
  { flow := f, next := 0, unacked := [], waiting := [], resends := 0, lastAck := 0, expect := 0, got := [], kept := [], naked := none, owed := 0,
    ackAt := none }

def State.flowState (s : State) (f : Flow) : FlowState := (s.flows.find? fun x => x.flow == f).getD (FlowState.start f)

def State.setFlow (s : State) (x : FlowState) : State :=
  if s.flows.any fun y => y.flow == x.flow then
    { s with flows := s.flows.map fun y => if y.flow == x.flow then x else y }
  else { s with flows := s.flows ++ [x] }

/-- Send waiting packets of a flow while at most 16 are unacknowledged (R424). -/
def State.pump (f : Flow) : Nat → State → State
  | 0, s => s
  | n + 1, s =>
    let x := s.flowState f
    match x.waiting with
    | [] => s
    | pk :: rest =>
      if 16 ≤ x.unacked.length then s
      else
        let (len, s) := s.packetLen
        let fp : FlowPkt := { flow := f, fseq := x.next, rid := 0, len := len, body := .data pk }
        let y := { x with next := (x.next + 1) % 2 ^ 24, unacked := x.unacked ++ [fp], waiting := rest,
                          lastAck := if x.unacked.isEmpty then s.now else x.lastAck }
        State.pump f n ((s.setFlow y).linkSend f.port fp)

/-- The flow of a packet that leaves for another package of the domain. -/
def State.flowOf (s : State) (pk : Packet) : Flow :=
  { srcPkg := s.swaddr s.pkgid.toNat, srcIo := senderIo pk.src, dstPkg := s.swaddr (peerPkg pk.dst),
    dstIo := ioDie (peerVcore pk.dst), vc := if pk.vc == 4 then 0 else pk.vc, cls := bit (pk.vc == 4) }

def State.flowSend (s : State) (pk : Packet) : State :=
  let f := s.flowOf pk
  let x := s.flowState f
  State.pump f 16 (s.setFlow { x with waiting := x.waiting ++ [pk] })

/-! ### Scale-out (R430 to R432) -/

/-- The traffic that crosses the Ethernet ports (R430). -/
def Body.course : Body → Bool
  | .creditReq .. | .withdraw .. | .chanAns .. | .creditRet .. | .bindQuery .. | .chanMsg .. | .tileData .. | .claimRow ..
  | .claimAns .. | .row .. | .probe .. => true
  | _ => false

/-- A direction that has carried nothing yet. -/
def OutFlow.start (peer vc : Nat) : OutFlow :=
  { peer := peer, vc := vc, psn := 0, expect := 0, window := 16, grown := 0, unacked := [], waiting := [], expiries := 0,
    timeout := 125000, since := 0 }

def State.outFlow (s : State) (peer vc : Nat) : OutFlow :=
  (s.outflows.find? fun x => x.peer == peer && x.vc == vc).getD (OutFlow.start peer vc)

def State.setOutFlow (s : State) (x : OutFlow) : State :=
  if s.outflows.any fun y => y.peer == x.peer && y.vc == x.vc then
    { s with outflows := s.outflows.map fun y => if y.peer == x.peer && y.vc == x.vc then x else y }
  else { s with outflows := s.outflows ++ [x] }

/-- The IP address of a package's route entry (R422). -/
def State.ipOf (s : State) (pkg : Nat) : BitVec 128 := (s.routeOf pkg).w3 ++ (s.routeOf pkg).w2

/-- Bytes of an IP header: an IPv4-mapped address is reached over IPv4 (R422, R430). -/
def ipHeader (a : BitVec 128) : Nat := if a.toNat / 2 ^ 32 == 0xFFFF then 20 else 40

/-- The flits that fit into one UDP payload (R430, R431; log entry 61). -/
def State.maxFlits (s : State) (peer : Nat) : Nat :=
  min 128 ((max 1500 (min 9216 Config.mtu) - ipHeader (s.ipOf peer) - 8 - 32) / 64)

/-- A packet of the course transport for a peer, addressed by the route table (R422, R431). The domain of this package stands in its own
entry (log entry 28). -/
def State.coursePacket (s : State) (peer vc type : Nat) (ece : Bool) (psn ackpsn nflits : Nat) (pkts : List Packet) : OutPkt :=
  { src := s.pkgid.toNat, dst := peer, vc := vc, type := type, ece := ece, psn := psn, ackpsn := ackpsn, nflits := nflits,
    srcDom := bits (s.routeOf s.pkgid.toNat).w0.toNat 0 32, dstDom := bits (s.routeOf peer).w0.toNat 0 32, pkts := pkts,
    ip := s.ipOf peer, udp := bits (s.routeOf peer).w1.toNat 0 16 }

/-- As many waiting packets as fit into `room` flits, each with its length, the first in any case (R431). -/
def packFlits (room limit tick : Nat) : List Packet → Nat × List Packet
  | [] => (0, [])
  | pk :: rest =>
    let n := 1 + Config.flits tick % limit
    if room < n then (0, [])
    else
      let r := packFlits (room - n) limit (tick + 1) rest
      (n + r.1, pk :: r.2)

/-- Send waiting packets of a direction within its window (R432). -/
def State.pumpOut (peer vc : Nat) : Nat → State → State
  | 0, s => s
  | n + 1, s =>
    let x := s.outFlow peer vc
    if x.waiting.isEmpty || decide (x.window ≤ x.unacked.length) then s
    else
      let (nflits, pkts) := packFlits (s.maxFlits peer) (s.maxFlits peer) s.tick x.waiting
      let o := s.coursePacket peer vc 0 false x.psn 0 nflits pkts
      let y := { x with psn := (x.psn + 1) % 2 ^ 32, unacked := x.unacked ++ [o], waiting := x.waiting.drop pkts.length,
                        since := if x.unacked.isEmpty then s.now else x.since }
      State.pumpOut peer vc n (({ s with tick := s.tick + pkts.length }.setOutFlow y).out (.course o))

def State.courseSend (s : State) (pk : Packet) : State :=
  let peer := peerPkg pk.dst
  let vc := if pk.vc == 4 then 0 else pk.vc
  let x := s.outFlow peer vc
  State.pumpOut peer vc 1024 (s.setOutFlow { x with waiting := x.waiting ++ [pk] })

/-! ### Leaving the package (R422) -/

/-- Traffic that may not cross scale-out is refused with PROT, a SPAWN with REFUSED (R183, R430). -/
def State.deny (s : State) (pk : Packet) : State :=
  match pk.body.dead with
  | some a => s.send netUnit pk.src 2 (a.withStatus 5)
  | none => s

/-- A contribution to a switch reduction leaves under its RID (R428, R429). It goes to the switches, so DSTPKG names no package: the
model gives the package's own (log entry 59). -/
def State.contribute (s : State) (c rid member seq : Nat) (words : List Word) : State :=
  let a := s.swaddr s.pkgid.toNat
  s.linkControl { srcPkg := a, srcIo := senderIo c, dstPkg := a, dstIo := senderIo c, vc := 2, cls := 0 } 0 rid
    (.contribution member seq words)

/-- Packet `pk`, no longer in the mesh, takes the route of its package (R422). -/
def State.leave (s : State) (pk : Packet) : State :=
  match pk.body with
  | .contribution rid member seq words => s.contribute pk.src rid member seq words
  | _ =>
    let kind := s.routeKind (peerPkg pk.dst)
    if kind == 2 then s.flowSend pk
    else if kind == 3 then (if pk.body.course then s.courseSend pk else s.deny pk)
    else s.refuse pk

/-- The first packet that can leave: none that a bridge, an earlier packet or a lapsed lease holds back (R290, R421). -/
def State.nextOut (s : State) : Option (Nat × Packet) :=
  (List.range s.net.length).findSome? fun n =>
    match s.net[n]? with
    | some pk =>
      if (pk.dst < 65536 && pk.dst != ioUnit)
          || (decide (pk.src < 4360) && !((s.bridges[4 + agentDie pk.src]?).getD Bridge.reset).carries) then none
      else match s.packet n with
        | some pk => if s.rejects pk then none else some (n, pk)
        | none => none
    | none => none

def State.egressN : Nat → State → State
  | 0, s => s
  | k + 1, s => match s.nextOut with
    | some (n, pk) => State.egressN k ((s.drop n).leave pk)
    | none => s

/-! ### Arriving from another package -/

/-- What a packet of another package asks for is asked with the class of its cores (R265, R425). -/
def Body.fromPeer : Body → Body
  | .access ea off size data mask _ self who => .access ea off size data mask 4 self who
  | .ringClaim ring ctx len _ third job memop => .ringClaim ring ctx len 4 third job memop
  | b => b

/-- A packet of another package enters the mesh; one for a vcore that is unmapped, fenced or not assigned is refused with DEAD (R222,
R389). -/
def State.enter (s : State) (via : Option Flow) (pk : Packet) : State :=
  match (if pk.dst == hostUnit then some hostUnit else s.live pk.dst) with
  | some d => { s with net := s.net ++ [{ pk with dst := d, since := s.now, body := pk.body.fromPeer, via := via }] }
  | none => s.refuse pk

/-- Does the mesh take another packet of a flow (R424; log entry 60)? -/
def State.meshTakes (s : State) (f : Flow) : Bool :=
  let n := (s.net.filter fun p => p.via == some f).length
  n == 0 || decide (n < Config.meshRoom)

/-- The mesh takes what it can of a flow's receive buffer, in order (R424). -/
def State.feedMesh (f : Flow) : Nat → State → State
  | 0, s => s
  | n + 1, s =>
    let x := s.flowState f
    match x.kept with
    | [] => s
    | pk :: rest => if s.meshTakes f then State.feedMesh f n ((s.setFlow { x with kept := rest }).enter (some f) pk) else s

/-- Put what has come in order into a flow's receive buffer of 16 (R424). -/
def State.drainFlow (f : Flow) : Nat → State → State
  | 0, s => s
  | n + 1, s =>
    let x := s.flowState f
    match x.got.find? fun e => e.1 == x.expect with
    | none => s
    | some e =>
      if 16 ≤ x.kept.length then s
      else State.drainFlow f n (s.setFlow { x with
        got := x.got.filter (fun g => g.1 != x.expect), expect := (x.expect + 1) % 2 ^ 24, owed := x.owed + 1, kept := x.kept ++ [e.2] })

/-- Ack a flow up to its last packet in order (R424). While its receive buffer is full the ack is repeated every 10 µs, so that packets
that the mesh does not take cause no resend (log entry 60). -/
def State.ackFlow (s : State) (f : Flow) : State :=
  let x := s.flowState f
  let again := if 16 ≤ x.kept.length then some (s.now + 12500) else none
  (s.setFlow { x with owed := 0, ackAt := again }).linkControl f.back ((x.expect + 2 ^ 24 - 1) % 2 ^ 24) 0 .ack

/-- The first FSEQ that is missing before a packet that has come. -/
def FlowState.missing (x : FlowState) : Option Nat :=
  if x.got.isEmpty then none
  else
    let seq := fun i => (x.expect + i) % 2 ^ 24
    let has := fun i => x.got.any fun e => e.1 == seq i
    ((List.range 16).find? fun i => !has i && (List.range 16).any fun j => decide (i < j) && has j).map seq

/-- Move a flow's packets on: into the receive buffer, into the mesh, with the acks and the nak that are due: an ack every 16 packets or
10 µs after the first one, a nak once for the first missing FSEQ (R424). -/
def State.serveFlow (s : State) (f : Flow) : State :=
  let s := State.feedMesh f 16 (State.drainFlow f 17 (State.feedMesh f 16 (State.drainFlow f 17 s)))
  let x := s.flowState f
  let s := match x.missing with
    | some n => if x.naked == some n then s else (s.setFlow { x with naked := some n }).linkControl f.back n 0 .nak
    | none => s
  if 16 ≤ x.owed then s.ackFlow f
  else if (x.owed != 0 || 16 ≤ x.kept.length) && x.ackAt.isNone then s.setFlow { s.flowState f with ackAt := some (s.now + 12500) }
  else s

/-- A packet of a flow comes to the receiving I/O die; one that came before is acked again (R424). -/
def State.receive (s : State) (f : Flow) (fseq : Nat) (pk : Packet) : State :=
  let x := s.flowState f
  let ahead := (fseq + 2 ^ 24 - x.expect) % 2 ^ 24
  if 2 ^ 23 ≤ ahead then s.ackFlow f
  else if 16 ≤ ahead || x.got.any fun e => e.1 == fseq then s
  else (s.setFlow { x with got := x.got ++ [(fseq, pk)] }).serveFlow f

/-- Everything that can leave the package does, and the mesh takes what has come. -/
def State.egress (s : State) : State :=
  let s := State.egressN s.net.length s
  let s := (s.flows.map (·.flow)).foldl State.serveFlow s
  s.idleFlits

/-! ### Acks and resends (R424) -/

/-- The packets of a flow up to FSEQ `n` have been received (R424). An ack that names none of them only shows that the peer is there. -/
def State.flowAcked (s : State) (f : Flow) (n : Nat) : State :=
  let x := s.flowState f
  if x.unacked.any fun e => e.fseq == n then
    State.pump f 16 (s.setFlow { x with unacked := (x.unacked.dropWhile fun e => e.fseq != n).drop 1, resends := 0, lastAck := s.now })
  else s.setFlow { x with lastAck := s.now }

/-- Send the unacknowledged packets of a flow again (R424). -/
def State.resendFlow (s : State) (f : Flow) (x : FlowState) : State :=
  let s := (s.setFlow { x with resends := x.resends + 1, lastAck := s.now }).modLink f.port fun l => { l with resends := l.resends + 1 }
  x.unacked.foldl (fun s e => s.linkSend f.port e) s

/-- A peer is unreachable: UNREACH in its route entry, the management core is told, and everything that waits on the flow is
answered DEAD (R424, R432). What the record holds besides the package is not stated (log entry 14). -/
def State.unreachable (s : State) (pkg : Nat) (pks : List Packet) : State :=
  let r := s.routeOf pkg
  let s := { s with routes := kset s.routes pkg { r with w0 := r.w0 ||| BitVec.ofNat 64 (2 ^ 61) } }
  let s := s.out (.record [BitVec.ofNat 64 pkg, Config.freeWord (2 * s.tick + 1)])
  pks.foldl (fun s pk => s.refuse pk) s

/-- The packages whose scale-up address is the given one (R422). -/
def State.withAddress (s : State) (a : Nat) : List Nat :=
  (s.routes.filter fun e => bits e.2.w0.toNat 62 2 == 2 && bits e.2.w0.toNat 32 10 == a).map (·.1)

/-- The mesh packet that a packet of a flow carries. -/
def FlowPkt.packet? (x : FlowPkt) : Option Packet :=
  match x.body with
  | .data p => some p
  | _ => none

/-- A flow makes no progress: after 8 resends its peer is unreachable, otherwise it is sent again (R424). -/
def State.stalled (s : State) (f : Flow) (x : FlowState) : State :=
  if 8 ≤ x.resends then
    let pks := x.unacked.filterMap FlowPkt.packet? ++ x.waiting
    let s := s.setFlow { x with unacked := [], waiting := [], resends := 0 }
    match s.withAddress f.dstPkg with
    | pkg :: _ => s.unreachable pkg pks
    | [] => pks.foldl (fun s pk => s.refuse pk) s
  else s.resendFlow f x

/-- The packet of a flow with FSEQ `n` is missing at its receiver: those before it are acknowledged, and the sender resends from it
(R424). -/
def State.flowNak (s : State) (f : Flow) (n : Nat) : State :=
  let x := s.flowState f
  if !(x.unacked.any fun e => e.fseq == n) then s
  else
    let rest := x.unacked.dropWhile fun e => e.fseq != n
    let x := if rest.length == x.unacked.length then x else { x with unacked := rest, resends := 0 }
    State.pump f 16 (s.stalled f x)

/-- E2E_ACK: the packets of a flow up to FSEQ `n` have been received (R424). -/
def execE2eAck (s : State) : Out := .next (s.flowAcked s.ev.flow s.ev.n)

/-- E2E_NAK: the packet of a flow with FSEQ `n` is missing at its receiver (R424). -/
def execE2eNak (s : State) : Out := .next (s.flowNak s.ev.flow s.ev.n)

/-- E2E_ACK_TIMER: a flow's ack is due 10 µs after the first packet that it covers (R424). -/
def execE2eAckTimer (s : State) : Out :=
  match (s.flowState s.ev.flow).ackAt with
  | some t => if t ≤ s.now then .next (s.ackFlow s.ev.flow) else .next s
  | none => .next s

/-- E2E_RESEND_TIMEOUT: 1 ms after the last ack an unacknowledged packet is resent (R424). -/
def execE2eResendTimeout (s : State) : Out :=
  let f := s.ev.flow
  let x := s.flowState f
  if x.unacked.isEmpty || decide (s.now < x.lastAck + 1250000) then .next s else .next (s.stalled f x)

/-! ### Reductions (R428, R429) -/

/-- The valid reduction entry with a switch's identifier. -/
def State.reductionOf (s : State) (rid : Nat) : Option (Nat × Reduction) :=
  s.reductions.find? fun r => r.2.w0.getLsbD 63 && bits r.2.w0.toNat 0 16 == rid

/-- Has the root router of a reduction sent its contribution to sequence `n`? -/
def State.contributed (s : State) (c g n : Nat) : Bool :=
  (s.group c g).seqs.any fun q => q.seq == n && q.sent

/-- The switches return sequence `seq` of reduction `rid` with a status (R6), the result and the contributor mask. The mask is written
first; a contribution that the mask leaves out came late (R428, R429). The result goes on from the I/O die, so a paused bridge holds it
(R421). -/
def State.reductionResult (s : State) (rid seq : Nat) (words : List Word) (status : Nat) (bytes : List Byte) : Out :=
  match s.reductionOf rid with
  | none => .next s
  | some (i, r) =>
    let g := bits r.w0.toNat 30 6
    let member := bits r.w0.toNat 20 10
    let at_ := bits r.w1.toNat 0 52 + 128 * (seq % 4)
    let mask := (List.range 128).map fun n => (bytes[n]?).getD 0
    match s.agent (bits r.w0.toNat 38 13) with
    | none => .next s
    | some c =>
      if hbmSize < at_ + 128 then .fault (.noSuchPhysical at_)
      else
        let s := s.writePhys 0 at_ mask
        let folded := ((mask[member / 8]?).getD 0).getLsbD (member % 8)
        let s := if !folded && s.contributed c g seq then s.countLate i r else s
        .next (s.route ioUnit c (.combineRes g seq words status))

/-- REDUCTION_RESULT: `m` is the sequence, `n` the reduction and `k` the status (R429). -/
def execReductionResult (s : State) : Out := s.reductionResult s.ev.n s.ev.m s.ev.words s.ev.k s.ev.bytes

/-! ### Link flits (R423) -/

/-- A packet of the fabric has come whole: data of a flow, an ack or nak of one that this package sends, or a result (R424, R429). -/
def State.fabricPacket (s : State) (x : FlowPkt) : Out :=
  match x.body with
  | .data pk => .next (s.receive x.flow x.fseq pk)
  | .ack => .next (s.flowAcked x.flow.back x.fseq)
  | .nak => .next (s.flowNak x.flow.back x.fseq)
  | .result seq words status mask => s.reductionResult x.rid seq words status mask
  | .contribution .. => .next s

/-- A slot of a link flit comes to port `p`: its buffer is a credit to return, and a packet whose last slot it is has come whole. -/
def State.slotIn (s : State) (p : Nat) (x : LinkSlot) : Out :=
  let vc := x.vc % 4
  let s := s.modLink p fun l => { l with owed := l.owed.setIfInBounds vc ((l.owed[vc]?).getD 0 + 1) }
  match (match x.first with | some fp => some (fp, fp.len) | none => kget (s.link p).coming vc) with
  | none => .next s
  | some (fp, left) =>
    if left ≤ 1 then (s.modLink p fun l => { l with coming := kdel l.coming vc }).fabricPacket fp
    else .next (s.modLink p fun l => { l with coming := kset l.coming vc (fp, left - 1) })

/-- The slots of a flit one after the other. -/
def State.slotsIn (p : Nat) : List LinkSlot → State → Out
  | [], s => .next s
  | x :: l, s =>
    match s.slotIn p x with
    | .next s => State.slotsIn p l s
    | o => o

/-- Go-back-N: the flits of port `p` from SEQ `m` on are sent again (R423). -/
def State.replayLink (s : State) (p m : Nat) : State :=
  let again := (s.link p).buffer.dropWhile fun e => e.1 != m
  if again.isEmpty then s
  else
    let s := s.modLink p fun l => { l with retries := min (l.retries + 1) (2 ^ 32 - 1) }
    again.foldl (fun s e => s.out (.link p e.2)) s

/-- SCALEUP_LINK_FLIT: a link flit comes to port `n`, with a good CRC or, without `flag`, dropped and asked for again by its SEQ. A good
one brings an ACK; the expected one also brings credits and slots; a retry request names in SEQ the flit that it asks for (R423). -/
def execScaleupLinkFlit (s : State) : Out :=
  let p := s.ev.n
  let l := s.link p
  if 64 ≤ p then .next s
  else if !s.ev.flag then .next (s.out (.link p { seq := l.expect, ack := l.lastIn, credits := Vector.replicate 4 0, kind := 2, slots := [] }))
  else match s.ev.flit with
    | none => .next s
    | some f =>
      if f.kind == 2 then .next (s.replayLink p f.seq)
      else if f.kind == 3 then .next s
      else
        let s := s.modLink p fun l => { l with buffer := afterAck f.ack l.buffer }
        if f.seq != l.expect then .next (State.pumpLink p linkFuel s)
        else
          let s := s.modLink p fun l =>
            { l with expect := (l.expect + 1) % 4096, due := l.due || f.kind == 0,
                     used := Vector.ofFn fun i : Fin 4 => l.used[i] - f.credits[i] }
          State.slotsIn p (if f.kind == 0 then f.slots.take 4 else []) (State.pumpLink p linkFuel s)

/-- SCALEUP_RETRY_REQUEST: the other end of port `n` asks for the flits from SEQ `m` on: go-back-N (R423). -/
def execScaleupRetryRequest (s : State) : Out := .next (s.replayLink s.ev.n s.ev.m)

/-! ### Lend tables (R426, R427) -/

def State.lend (s : State) (e : Nat) : Lend := (kget s.lends e).getD { w0 := 0, w1 := 0, inUse := 0 }

/-- The permission that a request needs of a lend entry, as a bit of word 0: RD, W or ATOM (R426, R427). -/
def Body.lendBit : Body → Option Nat
  | .amo _ op _ _ _ _ _ _ => some (if op == 0 then 56 else if op == 1 then 57 else 58)
  | .farRead .. => some 56
  | .nextt .. => some 58
  | .copyRead .. => some 56
  | .copyWrite .. => some 57
  | _ => none

/-- Does an entry cover a request for a physical address from a scale-up address (R426)? -/
def Lend.covers (l : Lend) (frame addr need : Nat) : Bool :=
  let first := bits l.w0.toNat 0 36
  l.w0.getLsbD 63 && decide (first ≤ frame) && decide (frame < first + bits l.w1.toNat 0 32)
    && bits l.w0.toNat 46 10 == addr && l.w0.getLsbD need

/-- LEND_REQUEST: packet `n`, a request of another package through APERTURE 3, is admitted by an entry of the I/O die that
serves its home for the SRCPKG of its routing header, or refused with PROT (R426, R427). -/
def execLendRequest (s : State) : Out :=
  match s.packet s.ev.n with
  | none => .next s
  | some pk =>
    match pk.body.homeReq with
    | none => .next s
    | some r =>
      if pk.src < 65536 || 65536 ≤ pk.dst || r.ap != 3 then .next s
      else
        let io := agentDie pk.dst / 2
        let hit := match pk.body.lendBit, pk.via with
          | some need, some f => s.lends.find? fun e : Nat × Lend => e.1 / 256 == io && e.2.covers (r.pa / 65536) f.srcPkg need
          | _, _ => none
        match hit with
        | none => .next ((s.drop s.ev.n).deny pk)
        | some (e, l) =>
          if hbmSize ≤ r.pa then .fault (.noSuchPhysical r.pa)
          else
            let pk := { pk with body := pk.body.withReq { r with ap := lentAp e } }
            .next { s with net := s.net.set s.ev.n pk, lends := kset s.lends e { l with inUse := l.inUse + 1 } }

/-- LEND_ENTRY_WRITE: words `w` and `w2` are written to lend entry `n`, numbered 256 × I/O die + entry; V = 0 sets DRAIN
(R426). -/
def execLendEntryWrite (s : State) : Out :=
  if 512 ≤ s.ev.n then .next s
  else
    let l := s.lend s.ev.n
    let w0 := s.ev.w &&& 0x87FFC00FFFFFFFFF
    let drain := if s.ev.w.getLsbD 63 then l.w0 &&& 0x4000000000000000 else 0x4000000000000000
    .next { s with lends := kset s.lends s.ev.n { l with w0 := w0 ||| drain, w1 := s.ev.w2 &&& 0xFFFFFFFF } }

/-- LEND_DRAIN_DONE: every request admitted under entry `n` has been performed (R426). -/
def execLendDrainDone (s : State) : Out :=
  let l := s.lend s.ev.n
  if l.w0.getLsbD 62 && l.inUse == 0 then
    .next { s with lends := kset s.lends s.ev.n { l with w0 := l.w0 &&& ~~~(0x4000000000000000 : Word) } }
  else .next s

/-! ### Course transport events (R432) -/

/-- Answer a data packet: an ack or a nak with the next PSN expected (R431). -/
def State.courseAnswer (s : State) (o : OutPkt) (type expect : Nat) : State :=
  s.out (.course (s.coursePacket o.src o.vc type o.ece 0 expect 0 []))

/-- The effect of an ack of `n` packets on the window (R432). -/
def OutFlow.acked (x : OutFlow) (n : Nat) (ece : Bool) : OutFlow :=
  if ece then { x with window := max 1 (x.window / 2), grown := 0 }
  else if x.window ≤ x.grown + n then { x with window := min 1024 (x.window + 1), grown := x.grown + n - x.window }
  else { x with grown := x.grown + n }

/-- An ack or nak: the packets before the expected PSN are freed; a nak sends the others again (R432). -/
def State.courseAcked (s : State) (o : OutPkt) : State :=
  let x := s.outFlow o.src o.vc
  let old := fun q : OutPkt => decide ((o.ackpsn + 2 ^ 32 - q.psn) % 2 ^ 32 - 1 < 2 ^ 31) && q.psn != o.ackpsn
  let rest := x.unacked.dropWhile old
  let n := x.unacked.length - rest.length
  let x := { x with unacked := rest }
  let x := if n == 0 then x else { x with expiries := 0, timeout := 125000, since := s.now }
  let s := s.setOutFlow (x.acked n (o.ece && o.type == 1))
  let s := if o.type == 2 then rest.foldl (fun s q => s.out (.course q)) s else s
  State.pumpOut o.src o.vc 1024 s

/-- SCALEOUT_PACKET: a data, ack or nak packet of the course transport arrives (R431, R432); ECE of a data packet stands for the
congestion mark of its IP header. -/
def execScaleoutPacket (s : State) : Out :=
  match s.ev.out with
  | none => .next s
  | some o =>
    if o.dst != s.pkgid.toNat || o.version != 1 then .next s
    else if o.type == 0 then
      let x := s.outFlow o.src o.vc
      if o.psn == x.expect then
        let e := (x.expect + 1) % 2 ^ 32
        let s := o.pkts.foldl (fun s pk => if pk.body.course then s.enter none pk else s) (s.setOutFlow { x with expect := e })
        .next (s.courseAnswer o 1 e)
      else if (o.psn + 2 ^ 32 - x.expect) % 2 ^ 32 < 2 ^ 31 then .next (s.courseAnswer o 2 x.expect)
      else .next (s.courseAnswer o 1 x.expect)
    else if o.type ≤ 2 then .next (s.courseAcked o)
    else .next s

/-- SCALEOUT_TIMEOUT: the retransmission time-out of direction `n` expires: everything is sent again and the time-out doubles up
to 3.2 ms; the tenth expiry in a row makes the peer unreachable (R432). -/
def execScaleoutTimeout (s : State) : Out :=
  match s.outflows[s.ev.n]? with
  | none => .next s
  | some x =>
    if x.unacked.isEmpty || decide (s.now < x.since + x.timeout) then .next s
    else if 9 ≤ x.expiries then
      let pks := x.unacked.flatMap (·.pkts) ++ x.waiting
      .next ((s.setOutFlow { x with unacked := [], waiting := [], expiries := 0, timeout := 125000 }).unreachable x.peer pks)
    else
      let s := s.setOutFlow { x with expiries := x.expiries + 1, timeout := min (2 * x.timeout) 4000000, since := s.now }
      .next (x.unacked.foldl (fun s q => s.out (.course q)) s)

end Sys2Proof.Machine
end

