-- ==== Sys2Proof/Machine/Boot.lean ====
section
/-! DEFINITION. Sys2Proof/Machine/Boot.lean: power-on, boot mode and the raw links (R447 to R459), the thermal governor (R462),
attestation (R442), and the writes of the management plane (R463). -/

namespace Sys2Proof.Machine

/-! ### Raw links (R451 to R456) -/

/-- Physical position of a router in its die. -/
def State.routerAt (s : State) (c : Nat) : Nat := 32 * (s.position c).1 + (s.position c).2

/-- Is the core fused off (R449)? Position (0, 0) and the die-link positions never are. -/
def isFused (c : Nat) : Bool :=
  c % 1024 != 0 && !((if agentDie c < 2 then c % 1024 / 32 == 0 else c % 1024 / 32 == 31) && c % 32 % 3 == 1 && decide (c % 32 ≤ 28))
    && Config.fused c

/-- The router of position `p` of the die of agent `c`. -/
def rawAgent (c p : Nat) : Nat := 1024 * agentDie c + p

/-- Is a raw header refused (R453)? -/
def State.rawRefused (s : State) (c : Nat) (h : Word) : Bool :=
  let k := bits h.toNat 60 4
  let own := s.routerAt c
  bits h.toNat 42 18 != 0 || !(k == 1 || k == 3 || k == 4 || k == 5)
    || (k != 5 && (!(s.core c).boot || own != 0 || 4096 ≤ c || bits h.toNat 32 10 != 0 || (k != 3 && bits h.toNat 0 32 != 0)
        || (k == 3 && (bits h.toNat 0 5 != 0 || 0x4000 ≤ bits h.toNat 0 32))))
    || (k == 5 && bits h.toNat 32 10 == own)

/-- A raw flit enters the mesh; raw traffic goes by position, whatever the core map says (R451). -/
def State.sendRaw (s : State) (src dst : Nat) (hdr : Word) (v : VReg) (who : Who) : State :=
  { s with net := s.net ++ [{ src := src, dst := dst, vc := 0, since := s.now, body := .raw hdr v who }] }

/-- The header of a DATA flit as received: the source's position in place of the destination's (R452). -/
def rawFrom (h : Word) (own : Nat) : Word := BitVec.ofNat 64 (bits h.toNat 60 4 * 2 ^ 60 + own * 2 ^ 32 + bits h.toNat 0 32)

/-- LSEND (R453): a broadcast reaches every other router of the die (R451); a DATA flit waits for its destination's answer. A VC 0
credit is always there (log entry 29). -/
def execLsend (g : BitVec 4) (b a d : BitVec 5) (s : State) : Out :=
  instr (.lsend g b a d) s (fun _ p => { priv := true, uses := [ux b, uv a, ux d], guard := p.guardBit g 0 }) fun s c k p =>
    let h := p.xr b
    let who : Who := { core := c, uid := p.uid }
    if p.isDraft then .barred
    else if s.rawRefused c h then .go (s.setProc c k (p.setX d 2))
    else if bits h.toNat 60 4 == 5 then
      .hold (s.sendRaw c (rawAgent c (bits h.toNat 32 10)) (rawFrom h (s.routerAt c)) (p.vr a) who) .lsendAck
    else
      let s := (List.range 1023).foldl (fun (s : State) p' => s.sendRaw c (rawAgent c (p' + 1)) h (p.vr a) who) s
      .go (s.setProc c k (p.setX d 0))

/-- LRECV (R454). -/
def execLrecv (g : BitVec 4) (b d : BitVec 5) (s : State) : Out :=
  instr (.lrecv g b d) s (fun _ p => { priv := true, uses := [uv b, ux d], guard := p.guardBit g 0 }) fun s c k p =>
    match (s.core c).rawq with
    | [] => .hold s .lrecv
    | (h, v) :: rest =>
      .go ((s.modCore c fun co => { co with rawq := rest }).setProc c k ((p.setX d h).setV b v))

/-- A raw agent takes packet `n` when `f` can take its flit: its header, payload and sender. -/
def State.onRaw (s : State) (n : Nat) (f : State → Packet → Word → VReg → Who → Option State) : State :=
  match s.packet n with
  | none => s
  | some p =>
    match p.body with
    | .raw h v who => (f (s.drop n) p h v who).getD s
    | _ => s

def rawKind (h : Word) : Nat := bits h.toNat 60 4

/-- RAW_DISCOVER: a DISCOVER flit, packet `n`, makes a router send its REPORT to (0, 0); what its payload holds is not stated (log
entry 14). -/
def execRawDiscover (s : State) : Out :=
  .next (s.onRaw s.ev.n fun s pk h _ who =>
    if rawKind h != 1 then none
    else
      let c := pk.dst
      let hdr := BitVec.ofNat 64 (2 * 2 ^ 60 + c % 1024 * 2 ^ 32 + bit (s.dieLinks c) * 2 + bit (isFused c))
      let v := ofLanes 64 ((List.range 4).map fun i => (Config.freeWord (8 * s.tick + 2 * i)).toNat)
      some ({ s with tick := s.tick + 1 }.sendRaw c (rawAgent c 0) hdr v who))

/-- The raw queue of a core takes a flit when it holds fewer than 16 (R452). -/
def State.queueRaw (s : State) (c : Nat) (h : Word) (v : VReg) : Option State :=
  if 16 ≤ (s.core c).rawq.length then none else some (s.modCore c fun co => { co with rawq := co.rawq ++ [(h, v)] })

/-- RAW_REPORT: a REPORT flit, packet `n`, is queued at (0, 0) (R452). -/
def execRawReport (s : State) : Out :=
  .next (s.onRaw s.ev.n fun s pk h v _ => if rawKind h != 2 then none else s.queueRaw pk.dst h v)

/-- RAW_IMAGE: an IMAGE flit, packet `n`, is written into the boot region of a core that is not fused (R452). -/
def execRawImage (s : State) : Out :=
  .next (s.onRaw s.ev.n fun s pk h v _ =>
    if rawKind h != 3 then none
    else if isFused pk.dst || pk.dst % 1024 == 0 then some s
    else some (s.modCore pk.dst fun co => { co with bootMem := co.bootMem.put (bits h.toNat 0 14) (leBytes v.toNat 32) }))

/-- The record of a process that starts at boot address 0: context 0, no launch (R450, R452, R466). -/
def bootRecord (co : Core) (args : Vector Word 4) (now : Nat) : Record :=
  { hdr := 0, args := args, exact := false, index := 0, ctx := 0, prio := 0, launch := none, since := now,
    header := some (headerOf (co.bootMem.bytes 0 64)), exactHdr := none, tol := 0, glim := 0, reserved := false }

/-- Does a core-map entry below 992 name the core (R452)? -/
def State.mapped (s : State) (c : Nat) : Bool :=
  (s.die (c / 1024)).map.any fun e => decide (e.1 < 992) && e.2.getLsbD 15 && bits e.2.toNat 0 10 == c % 1024

/-- RAW_START: a START flit, packet `n`, starts a process on a core that works and is mapped: its record waits for a slot like any
other, at priority 0, and the flit waits while the spawn queue is full (R182, R452; log entry 30). -/
def execRawStart (s : State) : Out :=
  .next (s.onRaw s.ev.n fun s pk h v _ =>
    if rawKind h != 4 then none
    else if isFused pk.dst || pk.dst % 1024 == 0 || !s.mapped pk.dst then some s
    else if queueSize ≤ (s.core pk.dst).queue.length then none
    else
      let args : Vector Word 4 := Vector.ofFn fun i : Fin 4 => v.extractLsb' (64 * i) 64
      some (s.modCore pk.dst fun co => { co with queue := co.queue ++ [bootRecord co args s.now] }))

/-- RAW_DATA: packet `n` is a DATA flit, which is queued at its destination and answered, or the answer to one (R452, R453). A
fused core queues nothing and answers DEAD. -/
def execRawData (s : State) : Out :=
  match s.packet s.ev.n with
  | none => .next s
  | some pk =>
    match pk.body with
    | .raw h v who =>
      if rawKind h != 5 then .next s
      else
        let answer := fun (s : State) (st : Nat) =>
          { s with net := s.net ++ [{ src := pk.dst, dst := pk.src, vc := 2, since := s.now, body := .rawAns who st }] }
        if isFused pk.dst then .next (answer (s.drop s.ev.n) 1)
        else match (s.drop s.ev.n).queueRaw pk.dst h v with
          | some s' => .next (answer s' 0)
          | none => .next s
    | .rawAns who st =>
      let s := s.drop s.ev.n
      match s.waitOf who.core who.uid with
      | some .lsendAck =>
        .next (s.resume who.core who.uid fun s k p i =>
          match i with
          | .lsend _ _ _ d => .go (s.setProc who.core k (p.setX d (BitVec.ofNat 64 st)))
          | _ => .go s)
      | _ => .next s
    | _ => .next s

/-! ### Power (R447, R459) -/

/-- An image as it is supplied: its bytes and then its ML-DSA-44 signature of 2,420 bytes. The image, when the signature holds for its
digest; one whose signature fails is not loaded (R1, R442, R448). -/
def verified (bs : List Byte) : Option (List Byte) :=
  let image := bs.take (bs.length - 2420)
  if bs.length < 2420 || !Config.verifies (Config.digest image) (bs.drop image.length) then none else some image

/-- POWER_INPUT_VALID: the 48 V input enters its range, the management cores leave reset, and their boot ROMs verify the management
firmware (`bytes`) before they run it (R447, R448). -/
def execPowerInputValid (s : State) : Out :=
  if s.power != 0 then .next s
  else match verified s.ev.bytes with
    | some image => .next { s with power := 2, powerAt := s.now, digests := s.digests ++ [Config.digest image] }
    | none => .next s

/-- The cycle, after the input became valid, at which a step may begin (R447): 2 and 3 power the I/O dies; 4 + 2d powers compute die
d and 5 + 2d trains its stacks; the clock is 1.25 GHz (R462). -/
def powerDue (n : Nat) : Nat :=
  if n == 2 then 12500000 else if n == 3 then 15000000
  else 25000000 + 6250000 * ((n - 4) / 2) + (if n % 2 == 1 then 2500000 else 0)

/-- The agents of a die: its 1,024 core positions, its memory cores and its service cores. -/
def dieAgents (d : Nat) : List Nat :=
  (List.range 1024).map (fun i => 1024 * d + i) ++ (List.range 64).map (fun i => 4096 + 64 * d + i) ++ [pagerOf d, launchAgent d]

/-- Training leaves every module of a bridge up (R420). -/
def Bridge.raise (b : Bridge) : Bridge := { b with mods := b.mods.map fun m => { m with up := true } }

/-- The bridges of die `d` whose other end is powered are trained. -/
def State.raiseBridges (s : State) (d : Nat) : State :=
  let up := fun e => (s.die e).powered
  let ends : List (Nat × Nat × Nat) := [(0, 0, 1), (1, 2, 3), (2, 0, 2), (3, 1, 3)]
  let s1 := s.modBridge (4 + d) Bridge.raise
  (ends.filter fun e => (e.2.1 == d || e.2.2 == d) && up e.2.1 && up e.2.2).foldl (fun s e => s.modBridge e.1 Bridge.raise) s1

/-- Compute die `d` powers up with every core in core-reset state and in boot mode, and its clock copy at the reference (R447). -/
def State.powerDie (s : State) (d : Nat) : State :=
  let s := (dieAgents d).foldl (fun s c => s.setCore c { Core.reset with resetAt := s.now }) s
  let s := s.modDie d fun _ => { Die.reset with clock := s.clock, powered := true }
  s.raiseBridges d

/-- POWER_STEP: the next power-on step takes place, or fails without `flag`: its die or stacks stay unpowered and the management
core notes it (R447). Before step 4 PKGID is written (R459). -/
def execPowerStep (s : State) : Out :=
  let n := s.power
  if n < 2 || 11 < n || decide (s.now < s.powerAt + powerDue n) then .next s
  else
    let s := { s with power := n + 1, pkgid := if n == 3 then Config.pkgid else s.pkgid }
    let d := (n - 4) / 2
    if !s.ev.flag then .next (s.out (.record [BitVec.ofNat 64 n, Config.freeWord (2 * s.tick + 1)]))
    else if n == 2 then .next { s with clock := 0, clockAt := s.now }
    else if n == 3 then .next s
    else if n % 2 == 0 then .next (s.powerDie d)
    else if (s.die d).powered then .next { s with hbmStacks := s.hbmStacks ++ [2 * d, 2 * d + 1] }
    else .next s

/-! ### The boot program (R450) -/

/-- The core-map entries that the management agent writes from fuses (R223, R450). -/
def fuseMap (d : Nat) (m : KMap (BitVec 16)) : KMap (BitVec 16) :=
  (List.range 66).foldl (fun m j =>
    kset m (992 + j) (0x8000 ||| (Config.attach (placeVcore d (992 + j))).zeroExtend 16)) m

/-- A header whose PRIV is set. -/
def privHeader (h : Vector Word 8) : Vector Word 8 := h.set 2 (h[2] ||| 8)

/-- The boot process of the corner core: privileged, context 0, its window at offset 0 and left as it is (R450). -/
def State.startBoot (s : State) (c d : Nat) : Out :=
  let co := s.core c
  let args : Vector Word 4 := Vector.ofFn fun i : Fin 4 => if i.val = 0 then BitVec.ofNat 64 d else 0
  let r := bootRecord co args s.now
  let h := privHeader (headerOf (co.bootMem.bytes 0 64))
  match headerBad h with
  | some b => s.endRecord c 0 { r with header := some h } 2 (BitVec.ofNat 64 b) id
  | none =>
    let p := { r with header := some h }.process h s.nextUid co.genCtr 0 (s.localAddr 0 0) 0 (256 * hfield h 1 0 10)
      (s.shareOf 0) (co.freePorts.take (hfield h 1 48 7)) (co.freeRings.take (hfield h 1 32 5))
    let co := { (co.bind p) with genCtr := co.genCtr + 1 }
    let k := (co.emptySlots.head?).getD 0
    let co := co.setSlot k ({ co.slot k with proc := some p }.wake co.halted s.now)
    .next ({ s.setCore c co with nextUid := s.nextUid + 1 }.traceProc c k p 0x31 0 p.hdrAddr p.index)

/-- The management agent of die `d` writes the map entries, the boot image and the core image, and starts the boot program (R450). -/
def State.loadBoot (s : State) (d : Nat) (boot image : List Byte) : Out :=
  let c := 1024 * d
  let s := s.modDie d fun x => { x with map := fuseMap d x.map, reported := true }
  let s := s.modCore c fun co =>
    { co with bootMem := co.bootMem.put 0 boot, spad := co.spad.put 0 image }
  ({ s with digests := s.digests ++ [Config.digest boot, Config.digest image] }).startBoot c d

/-- Is die `d` powered, with its stacks trained and no boot program started yet (R447)? -/
def State.bootReady (s : State) (d : Nat) : Bool :=
  decide (d < 4) && (s.die d).powered && !(s.die d).reported && s.hbmStacks.contains (2 * d) && s.hbmStacks.contains (2 * d + 1)

/-- BOOT_PROGRAM_START: on die `n`, powered and with its stacks trained, the boot image (`bytes`) and the core image (`image`) are
verified, written, and the boot program starts; when a signature fails every core of the die stays idle (R447, R448, R450). -/
def execBootProgramStart (s : State) : Out :=
  match verified s.ev.bytes, verified s.ev.image with
  | some boot, some image =>
    if !s.bootReady s.ev.n || 0x4000 < boot.length || 0x4000 < image.length then .next s else s.loadBoot s.ev.n boot image
  | _, _ => .next s

/-! ### Leaving boot mode (R449, R458) -/

/-- BOOT = 0 on a core: what was suspended because of boot mode is issued again and then translates (R449). -/
def State.unboot (s : State) (c : Nat) : State :=
  let co := s.core c
  if !co.boot then s
  else
    let again := fun cp : Copy =>
      { cp with fixups := cp.fixups.map fun f => if f.cookie == 0 then { f with go := true } else f }
    let co := { co with boot := false, copies := co.copies.map again }
    let us := (slotNumbers.filter fun k => (co.slot k).state == .suspended).filterMap (fun k => (co.slot k).proc.map (·.uid))
      ++ (co.parked.filter (·.susp)).map (·.proc.uid)
    us.foldl (fun s u => s.reissue c u) (s.setCore c co)

/-- A route entry that names this package (R422, R458). -/
def State.ownRoute (s : State) : State :=
  let r := s.routeOf s.pkgid.toNat
  let own : Route := { r with w0 := (r.w0 &&& 0x1FFFFFFFFFFFFFFF) ||| 0x4000000000000000 }
  { s with routes := kset s.routes s.pkgid.toNat own }

/-- LEAVE_BOOT_MODE: once the boot program of every die has been started (log entry 31), CTXBASE `w` and the dies' TRBASE `words`
are written, the route tables name this package, and BOOT becomes 0 on every core (R458). -/
def execLeaveBootMode (s : State) : Out :=
  if !([0, 1, 2, 3].all fun d => (s.die d).reported) then .next s
  else
    let s := { s with ctxbase := s.ev.w.toNat }
    let s := [0, 1, 2, 3].foldl (fun (s : State) d => s.modDie d fun x => { x with trbase := ((s.ev.words[d]?).getD 0).toNat }) s
    .next ((List.range 4096).foldl (fun s c => s.unboot c) s.ownRoute)

/-! ### Thermal events and attestation (R442, R462) -/

/-- THERMAL_HIGH: a sensor of die `n` reads above 105 °C (R462). -/
def execThermalHigh (s : State) : Out :=
  if 4 ≤ s.ev.n || (s.die s.ev.n).hot then .next s
  else .next ((s.modDie s.ev.n fun x => { x with hot := true }).out (.record [BitVec.ofNat 64 s.ev.n, Config.freeWord (2 * s.tick + 1)]))

/-- THERMAL_NORMAL: every sensor of die `n` reads 105 °C or below again (R462). -/
def execThermalNormal (s : State) : Out := .next (s.modDie s.ev.n fun x => { x with hot := false })

/-- THERMAL_SHUTDOWN: above 115 °C the module loses power, and everything in it with it; what lies outside stays (R462). -/
def execThermalShutdown (s : State) : Out :=
  .next { State.reset with
    tick := s.tick, nextUid := s.nextUid, inbox := s.inbox, outbox := s.outbox ++ [.powerOff], hostMem := s.hostMem,
    cxlMem := s.cxlMem }

/-- ATTESTATION_REQUEST: the answer holds the digests of the images loaded since reset and is signed (R442). -/
def execAttestationRequest (s : State) : Out :=
  .next ({ s with tick := s.tick + 1 }.out
    (.attest s.digests (Config.signature (s.digests.flatMap fun d : BitVec 256 => leBytes d.toNat 32) s.tick)))

/-! ### Registers of the management plane and of BAR0 (R4, R397, R445, R463) -/

/-- A write of DBGCTL of core `c`: its fields, and then HALT and STEP (R397, R400). STEP = 1 on a core that is not halted sets ERR; with
HALT = 0 on a halted core the core resumes (log entry 62). -/
def State.writeDbgctl (s : State) (c : Nat) (w : Word) : State :=
  let v : BitVec 14 := w.truncate 14
  let s := s.modCore c fun co =>
    { co with dbgctl := ((co.dbgctl &&& 0x2003) ||| (v &&& 0x0FF4)) &&& (if v.getLsbD 13 then 0x1FFF else 0x3FFF) }
  let halted := (s.core c).halted
  let s := if v.getLsbD 12 && (!halted || v.getLsbD 0) then s.dbgStep c (bits w.toNat 8 4) else s
  if !v.getLsbD 0 then s.dbgResume c else if halted then s else s.dbgHalt c

/-- DBGCTL as it reads: STEP is write-only (R4, R397). -/
def Core.dbgctlWord (co : Core) : Word := (co.dbgctl &&& 0x2FF7).zeroExtend 64

/-- MCTL of a core (R449). -/
def State.mctl (s : State) (c : Nat) : Word :=
  BitVec.ofNat 64 (bit (isFused c) * 4 + bit (s.dieLinks c) * 2 + bit (s.core c).boot)

/-- A route-table word is written; a write of word 0 clears UNREACH (R422). -/
def Route.write (r : Route) (i : Nat) (w : Word) : Route :=
  if i == 0 then { r with w0 := w &&& 0xC00003FFFFFFFFFF }
  else if i == 1 then { r with w1 := w &&& 0xFFFF }
  else if i == 2 then { r with w2 := w }
  else { r with w3 := w }

/-- A word of a reduction entry is written; LATE is cleared by a write with bit 0 set (R428). -/
def Reduction.write (r : Reduction) (i : Nat) (w : Word) : Reduction :=
  if i == 0 then { r with w0 := w &&& 0xFFFFFFFFFFF0FFFF }
  else if i == 1 then { r with w1 := w &&& 0xFFFFFFFFFFFFF }
  else if i == 2 then { r with w2 := if w.getLsbD 0 then 0 else r.w2 }
  else r

/-- A reduction entry, numbered 256 × I/O die + entry. -/
def State.reduction (s : State) (e : Nat) : Reduction := (kget s.reductions e).getD { w0 := 0, w1 := 0, w2 := 0 }

/-- A word of a route-table or reduction entry. -/
def State.writeTable (s : State) (n u : Nat) (w : Word) : State :=
  if n == 8 then
    if u / 4 < 1024 then { s with routes := kset s.routes (u / 4) ((s.routeOf (u / 4)).write (u % 4) w) } else s
  else if u / 4 < 512 then { s with reductions := kset s.reductions (u / 4) ((s.reduction (u / 4)).write (u % 4) w) }
  else s

/-- A register of a core that the management agent writes as plain data: `n` as in `execRegisterWrite`, with index `i`. -/
def Core.writeMgmt (co : Core) (n i : Nat) (w : Word) : Core :=
  if n == 0 then { co with peermask := w.truncate 16 &&& 0xFC }
  else if n == 1 then { co with lwcycles := w.truncate 32 }
  else if n == 2 then { co with trcctl := w &&& 0xFFF800000000007F }
  else if n == 4 then { co with bpc := co.bpc.setIfInBounds i w }
  else if n == 5 then { co with dbgdata := w }
  else co

/-- The same registers as they read; DBGACC, which is write-only, reads zero (R4). -/
def Core.readMgmt (co : Core) (n i : Nat) : Word :=
  if n == 0 then co.peermask.zeroExtend 64
  else if n == 1 then co.lwcycles.zeroExtend 64
  else if n == 2 then co.trcctl
  else if n == 3 then co.dbgctlWord
  else if n == 4 then (co.bpc[i]?).getD 0
  else if n == 5 then co.dbgdata
  else 0

/-- A write of a register of core `c`: DBGCTL and DBGACC also act (R397, R401). -/
def State.writeCore (s : State) (n i : Nat) (w : Word) (c : Nat) : State :=
  if n == 3 then s.writeDbgctl c w
  else if n == 6 then (if w.getLsbD 63 then s.accPut c w else s.accGet c w)
  else s.modCore c fun co => co.writeMgmt n i w

/-- What a unit reads as: word `u` mod 4 of a route entry (8) or reduction entry (9), CTXBASE (10), TRBASE (11), the bridge window
(12), word `u` mod 4 of RDESC `u`/4 (15), word `u` mod 2 of entry `u`/2 mod 64 of the combine table of vcore `u`/128 (16), core-map entry
`u` mod 2^11 of die `u`/2^11 (17), word `u` mod 2 of lend entry `u`/2 (18). -/
def State.readTable (s : State) (n u : Nat) : Word :=
  let pick := fun (l : List Word) => (l[u % 4]?).getD 0
  if n == 7 then s.mctl u
  else if n == 8 then let r := s.routeOf (u / 4); pick [r.w0, r.w1, r.w2, r.w3]
  else if n == 9 then let r := s.reduction (u / 4); pick [r.w0, r.w1, r.w2, 0]
  else if n == 10 then BitVec.ofNat 64 s.ctxbase
  else if n == 11 then BitVec.ofNat 64 (s.die u).trbase
  else if n == 12 then (if u < 0x800 then s.bridgeRead (u / 0x100) (u % 0x100) else 0)
  else if n == 15 then let x := s.cmdRing (u / 4); pick [x.w0, x.w1, BitVec.ofNat 64 x.head, 0]
  else if n == 16 then
    (match s.agent (u / 128) with
     | some c => let e := s.group c (u / 2 % 64); if u % 2 == 0 then e.word0 else e.word
     | none => 0)
  else if n == 17 then ((kget (s.die (u / 2048)).map (u % 2048)).getD 0).zeroExtend 64
  else if n == 18 then (if u % 2 == 0 then (s.lend (u / 2)).w0 else (s.lend (u / 2)).w1)
  else 0

/-- The management agent of die `u` starts a capture of `w2` intervals of `w`[55:32] cycles from index `w`[23:0], or stops it; an interval
length outside its range is ignored (R407; log entry 63). -/
def State.controlCapture (s : State) (u : Nat) (start : Bool) (w w2 : Word) : State :=
  let len := bits w.toNat 32 32
  if !start then s.floodCapture u (.capture false 0 0 0)
  else if len < 1024 || 16777215 < len then s
  else s.floodCapture u (.capture true (bits w.toNat 0 24) len w2.toNat)

/-- A byte that the management agent writes into a core in boot mode: scratchpad (13) or boot region (14) (R449, R450). -/
def Core.writeBoot (co : Core) (n size a : Nat) (b : Byte) : Core :=
  if !co.boot then co
  else if n == 13 then (if a < size then { co with spad := co.spad.write a b } else co)
  else if a < 0x4000 then { co with bootMem := co.bootMem.write a b }
  else co

/-- Word 0 of a disabled ring's descriptor (R436). -/
def CmdRing.write0 (r : CmdRing) (w : Word) : CmdRing :=
  if r.w1.getLsbD 32 then r else { r with w0 := w &&& 0xF00FFFFFFFFFFFFF }

/-- REGISTER_WRITE: the value `w` is written to register `n` of unit `m`, or, with `k` = 1, the register is read (R4, R445, R463). By `n`:
0 PEERMASK, 1 LWCYCLES, 2 TRCCTL, 3 DBGCTL, 4 BPC, 5 DBGDATA and 6 DBGACC of vcore `m`/4, or with `flag` of every core of die `m`/4, with
`m` mod 4 the number of a BPC (R397); 7 MCTL of the core at position `m`; 8 word `m` mod 4 of route entry `m`/4; 9 word `m` mod 4 of
reduction entry `m`/4; 10 CTXBASE; 11 TRBASE of die `m`; 12 the bridge window of BAR0 at offset `m`, of which an access with `k` = 2 is
of another size than 8 bytes, as is a read of it with `flag` (R445); 13 the scratchpad byte and 14 the boot-region byte `m` mod 2^18 of core `m`/2^18 in boot mode; 15
RDESC word 0 of ring `m`/4; 16, 17 and 18 what only reads (see `State.readTable`); 19 a capture, which starts with `flag` and otherwise
stops, from die `m`. -/
def execRegisterWrite (s : State) : Out :=
  let n := s.ev.n
  let u := s.ev.m
  let w := s.ev.w
  if s.ev.k == 1 then
    let v := if n < 7 then ((s.agent (u / 4)).map fun c => (s.core c).readMgmt n (u % 4)).getD 0
      else if n == 12 && s.ev.flag then 0 else s.readTable n u
    .next (s.out (.regRead n u v))
  else if n < 7 then .next ((s.debugTargets (u / 4) s.ev.flag).foldl (State.writeCore · n (u % 4) w ·) s)
  else if n == 7 then
    if 4096 ≤ u then .next s
    else if w.getLsbD 0 then .next (s.modCore u fun co => { co with boot := true })
    else .next (s.unboot u)
  else if n < 10 then .next (s.writeTable n u w)
  else if n == 10 then .next { s with ctxbase := w.toNat }
  else if n == 11 then .next (s.modDie u fun x => { x with trbase := w.toNat })
  else if n == 12 then (if u < 0x800 && s.ev.k != 2 then s.bridgeWrite (u / 0x100) (u % 0x100) w else .next s)
  else if n == 13 || n == 14 then
    let c := u / 2 ^ 18
    if 4096 ≤ c then .next s else .next (s.modCore c fun co => co.writeBoot n (spadSize c) (u % 2 ^ 18) (w.truncate 8))
  else if n == 15 then .next (if u % 4 == 0 then s.setRingDesc (u / 4) ((s.cmdRing (u / 4)).write0 w) else s)
  else if n == 19 then .next (s.controlCapture u s.ev.flag w s.ev.w2)
  else .next s

end Sys2Proof.Machine
end

