-- ==== Sys2Proof/Machine/Vector.lean ====
section
/-! DEFINITION. Sys2Proof/Machine/Vector.lean: the vector unit: floating-point and integer lanes, compares, conversions,
lane moves, reductions, scans, sorting and MX blocks (R124 to R148), and the grant and result of its timed forms. -/

namespace Sys2Proof.Machine

/-! ### How a vector instruction takes effect -/

/-- A form whose result is there before the next issue (R124): `f` gives the lanes under the mask. -/
def vecOp (i : Instr) (g : BitVec 4) (w : Nat) (uses : List Use) (d : BitVec 5)
    (f : Proc → Nat → Fp → Nat × Fp) (s : State) : Out :=
  regInstr i s (uv d :: uses) (fun p => p.anyActive g w) fun p => p.vecLanes g w d (f p)

/-- A form that leaves the rotation for some cycles and needs no shared unit (R124). -/
def vecTimed (i : Instr) (uses : Proc → List Use) (guard : Proc → Bool) (cycles : Nat) (s : State) : Out :=
  instr i s (fun _ p => { uses := uses p, guard := guard p }) fun s _ _ _ => .hold s (.vecRun (s.now + cycles))

/-- Cycles of VDIV and VSQRT by format (R124). -/
def vdivCycles (t : BitVec 2) : Nat := if t == 0 then 24 else if t == 1 then 16 else 10

/-- A form that waits for the vector divider: granted in issue order (R124, R147). -/
def vecDivide (i : Instr) (uses : List Use) (g : BitVec 4) (t : BitVec 2) (s : State) : Out :=
  instr i s (fun _ p => { uses := uses, guard := p.anyActive g (ftFmt t.toNat).width }) fun s c _ p =>
    let co := s.core c
    if co.vdiv.isNone && co.vdivq.isEmpty then
      .hold (s.setCore c { co with vdiv := some p.uid }) (.vecRun (s.now + vdivCycles t))
    else .hold (s.setCore c { co with vdivq := co.vdivq.filter (· != p.uid) ++ [p.uid] }) (.vecQueue 0)

/-! ### Lane functions -/

/-- The two operands of lane `i`. -/
def Proc.laneA (p : Proc) (a : BitVec 5) (w i : Nat) : Nat := lane (p.vr a) w i

/-- A rounded lane of format `t` (R129). -/
def fpLane (t : Fmt) (v : Num) (x : Fp) : Nat × Fp := t.round 0 v x

/-- Two-operand arithmetic of major 0x24 (R129). -/
def fpBin (i : Instr) (g : BitVec 4) (t : BitVec 2) (b a d : BitVec 5) (f : Fmt → Nat → Nat → Nat → Fp → Nat × Fp)
    (s : State) : Out :=
  let ft := ftFmt t.toNat
  vecOp i g ft.width [uv b, uv a] d (fun p i x =>
    f ft (p.laneA a ft.width i) (p.laneA b ft.width i) (p.laneA d ft.width i) x) s

/-- VADD (R129). -/
def execVadd (g : BitVec 4) (t : BitVec 2) (b a d : BitVec 5) (s : State) : Out :=
  fpBin (.vadd g t b a d) g t b a d (fun ft a b _ x => ft.add 0 a b x) s

/-- VSUB (R129). -/
def execVsub (g : BitVec 4) (t : BitVec 2) (b a d : BitVec 5) (s : State) : Out :=
  fpBin (.vsub g t b a d) g t b a d (fun ft a b _ x => fpLane ft (Num.sum 0 [ft.value a, (ft.value b).neg]) x) s

/-- VMUL (R129). -/
def execVmul (g : BitVec 4) (t : BitVec 2) (b a d : BitVec 5) (s : State) : Out :=
  fpBin (.vmul g t b a d) g t b a d (fun ft a b _ x => fpLane ft ((ft.value a).mul (ft.value b)) x) s

/-- VDIV on the vector divider (R124, R129). -/
def execVdiv (g : BitVec 4) (t : BitVec 2) (b a d : BitVec 5) (s : State) : Out :=
  vecDivide (.vdiv g t b a d) [uv b, uv a, uv d] g t s

/-- VFMA: a × b + c, one rounding (R81, R129). -/
def execVfma (g : BitVec 4) (t : BitVec 2) (b a d : BitVec 5) (s : State) : Out :=
  fpBin (.vfma g t b a d) g t b a d (fun ft a b c x => ft.fma 0 (ft.value a) (ft.value b) (ft.value c) x) s

/-- VFMS: a × b − c (R129). -/
def execVfms (g : BitVec 4) (t : BitVec 2) (b a d : BitVec 5) (s : State) : Out :=
  fpBin (.vfms g t b a d) g t b a d (fun ft a b c x => ft.fma 0 (ft.value a) (ft.value b) (ft.value c).neg x) s

/-- VFNMA: c − a × b (R129). -/
def execVfnma (g : BitVec 4) (t : BitVec 2) (b a d : BitVec 5) (s : State) : Out :=
  fpBin (.vfnma g t b a d) g t b a d (fun ft a b c x => ft.fma 0 (ft.value a).neg (ft.value b) (ft.value c) x) s

/-- VMIN (R129, R130). -/
def execVmin (g : BitVec 4) (t : BitVec 2) (b a d : BitVec 5) (s : State) : Out :=
  fpBin (.vmin g t b a d) g t b a d (fun ft a b _ x => ft.minMax false a b x) s

/-- VMAX (R129, R130). -/
def execVmax (g : BitVec 4) (t : BitVec 2) (b a d : BitVec 5) (s : State) : Out :=
  fpBin (.vmax g t b a d) g t b a d (fun ft a b _ x => ft.minMax true a b x) s

/-! ### Unary forms (R131, R132) -/

/-- A one-operand form of major 0x25. -/
def fpUn (i : Instr) (g : BitVec 4) (t : BitVec 2) (a d : BitVec 5) (f : Fmt → Nat → Fp → Nat × Fp) (s : State) : Out :=
  let ft := ftFmt t.toNat
  vecOp i g ft.width [uv a] d (fun p i x => f ft (p.laneA a ft.width i) x) s

/-- A sign operation: a NaN gives the canonical NaN (R131). DESIGN CHOICE (log entry 43): the result is exact and without Round, so FTZ
does not flush a BF16 subnormal. -/
def signOp (f : Fmt → Nat → Nat) (ft : Fmt) (n : Nat) (x : Fp) : Nat × Fp :=
  match ft.value n with
  | .nan nv => (ft.canonNaN, x.raiseIf nv flagNV)
  | _ => (f ft n, x)

/-- VNEG (R131). -/
def execVneg (g : BitVec 4) (t : BitVec 2) (a d : BitVec 5) (s : State) : Out :=
  fpUn (.vneg g t a d) g t a d (signOp fun ft n => n ^^^ 2 ^ (ft.width - 1)) s

/-- VABS (R131). -/
def execVabs (g : BitVec 4) (t : BitVec 2) (a d : BitVec 5) (s : State) : Out :=
  fpUn (.vabs g t a d) g t a d (signOp fun ft n => n % 2 ^ (ft.width - 1)) s

/-- VRINT of one lane (R131). -/
def rintLane (rm : Nat) (ft : Fmt) (n : Nat) (x : Fp) : Nat × Fp :=
  match ft.value n with
  | .nan nv => (ft.canonNaN, x.raiseIf nv flagNV)
  | .inf _ => (n, x)
  | .fin neg m e _ =>
    let (r, nx) := Num.rint rm neg m e
    ((ft.round 0 (.fin neg r 0 false) x).1, x.raiseIf nx flagNX)

/-- VRINT (R131). -/
def execVrint (g : BitVec 4) (t r : BitVec 2) (a d : BitVec 5) (s : State) : Out :=
  fpUn (.vrint g t r a d) g t a d (rintLane r.toNat) s

/-- VSQRT on the vector divider (R124, R131). -/
def execVsqrt (g : BitVec 4) (t r : BitVec 2) (a d : BitVec 5) (s : State) : Out :=
  vecDivide (.vsqrt g t r a d) [uv a, uv d] g t s

/-- Trim(FT, P) (R132). -/
def trimFmt (ft : Fmt) : Fmt :=
  let p := if ft.f == 10 then 10 else if ft.f == 7 then 7 else 12
  { ft with f := p, drop := ft.f - p }

/-- A seed form: six cycles, pipelined (R124, R132). -/
def seedForm (i : Instr) (g : BitVec 4) (t : BitVec 2) (a d : BitVec 5) (s : State) : Out :=
  vecTimed i (fun _ => [uv a, uv d]) (fun p => p.anyActive g (ftFmt t.toNat).width) 6 s

/-- VRCPA (R132). -/
def execVrcpa (g : BitVec 4) (t : BitVec 2) (a d : BitVec 5) (s : State) : Out := seedForm (.vrcpa g t a d) g t a d s

/-- VRSQA (R132). -/
def execVrsqa (g : BitVec 4) (t : BitVec 2) (a d : BitVec 5) (s : State) : Out := seedForm (.vrsqa g t a d) g t a d s

/-- VEXPA (R132). -/
def execVexpa (g : BitVec 4) (t : BitVec 2) (a d : BitVec 5) (s : State) : Out := seedForm (.vexpa g t a d) g t a d s

/-- VLOGA (R132). -/
def execVloga (g : BitVec 4) (t : BitVec 2) (a d : BitVec 5) (s : State) : Out := seedForm (.vloga g t a d) g t a d s

/-! ### Integer and logic forms (R134) -/

/-- A form of major 0x26 on w-bit lanes. -/
def intBin (i : Instr) (g : BitVec 4) (w : BitVec 2) (b a d : BitVec 5) (f : Nat → Nat → Nat → Nat) (s : State) : Out :=
  let wb := wBits w.toNat
  vecOp i g wb [uv b, uv a] d (fun p i x => (f wb (p.laneA a wb i) (p.laneA b wb i) % 2 ^ wb, x)) s

/-- VIADD (R134). -/
def execViadd (g : BitVec 4) (w : BitVec 2) (b a d : BitVec 5) (s : State) : Out :=
  intBin (.viadd g w b a d) g w b a d (fun _ a b => a + b) s

/-- VISUB (R134). -/
def execVisub (g : BitVec 4) (w : BitVec 2) (b a d : BitVec 5) (s : State) : Out :=
  intBin (.visub g w b a d) g w b a d (fun w a b => a + 2 ^ w - b) s

/-- VIMUL (R134). -/
def execVimul (g : BitVec 4) (w : BitVec 2) (b a d : BitVec 5) (s : State) : Out :=
  intBin (.vimul g w b a d) g w b a d (fun _ a b => a * b) s

/-- VIMIN.i (R134). -/
def execViminI (g : BitVec 4) (w : BitVec 2) (b a d : BitVec 5) (s : State) : Out :=
  intBin (.viminI g w b a d) g w b a d (fun w a b => if sInt w b < sInt w a then b else a) s

/-- VIMIN.n (R134). -/
def execViminN (g : BitVec 4) (w : BitVec 2) (b a d : BitVec 5) (s : State) : Out :=
  intBin (.viminN g w b a d) g w b a d (fun _ a b => min a b) s

/-- VIMAX.i (R134). -/
def execVimaxI (g : BitVec 4) (w : BitVec 2) (b a d : BitVec 5) (s : State) : Out :=
  intBin (.vimaxI g w b a d) g w b a d (fun w a b => if sInt w a < sInt w b then b else a) s

/-- VIMAX.n (R134). -/
def execVimaxN (g : BitVec 4) (w : BitVec 2) (b a d : BitVec 5) (s : State) : Out :=
  intBin (.vimaxN g w b a d) g w b a d (fun _ a b => max a b) s

/-- VIADDS.i (R66, R134). -/
def execViaddsI (g : BitVec 4) (w : BitVec 2) (b a d : BitVec 5) (s : State) : Out :=
  intBin (.viaddsI g w b a d) g w b a d (fun w a b => wrapInt w (satS (sInt w a + sInt w b) w)) s

/-- VIADDS.n (R66, R134). -/
def execViaddsN (g : BitVec 4) (w : BitVec 2) (b a d : BitVec 5) (s : State) : Out :=
  intBin (.viaddsN g w b a d) g w b a d (fun w a b => wrapInt w (satU ((a : Int) + b) w)) s

/-- VAND (R134). -/
def execVand (g : BitVec 4) (w : BitVec 2) (b a d : BitVec 5) (s : State) : Out :=
  intBin (.vand g w b a d) g w b a d (fun _ a b => a &&& b) s

/-- VOR (R134). -/
def execVor (g : BitVec 4) (w : BitVec 2) (b a d : BitVec 5) (s : State) : Out :=
  intBin (.vor g w b a d) g w b a d (fun _ a b => a ||| b) s

/-- VXOR (R134). -/
def execVxor (g : BitVec 4) (w : BitVec 2) (b a d : BitVec 5) (s : State) : Out :=
  intBin (.vxor g w b a d) g w b a d (fun _ a b => a ^^^ b) s

/-- VSHL (R134). -/
def execVshl (g : BitVec 4) (w : BitVec 2) (b a d : BitVec 5) (s : State) : Out :=
  intBin (.vshl g w b a d) g w b a d (fun w a b => a * 2 ^ (b % w)) s

/-- VSHR.n (R134). -/
def execVshrN (g : BitVec 4) (w : BitVec 2) (b a d : BitVec 5) (s : State) : Out :=
  intBin (.vshrN g w b a d) g w b a d (fun w a b => a / 2 ^ (b % w)) s

/-- VSHR.i (R134). -/
def execVshrI (g : BitVec 4) (w : BitVec 2) (b a d : BitVec 5) (s : State) : Out :=
  intBin (.vshrI g w b a d) g w b a d (fun w a b => wrapInt w (sInt w a / (2 ^ (b % w) : Nat))) s

/-! ### Compares and selects (R135, R136) -/

/-- The format of a compare class and width; none for the integer classes (R135). -/
def cmpFmt (l w : BitVec 2) : Option Fmt :=
  if l == 3 then some bf16
  else if l == 2 then some (if w == 1 then f16 else if w == 2 then f32 else f64)
  else none

/-- Compare of one pair of lanes (R135). -/
def cmpLane (l w : BitVec 2) (cond : BitVec 3) (a b : Nat) (x : Fp) : Bool × Fp :=
  match cmpFmt l w with
  | some t => t.compare cond.toNat a b x
  | none =>
    let wb := wBits w.toNat
    if l == 1 then (condHolds cond.toNat (sInt wb a) (sInt wb b), x) else (condHolds cond.toNat a b, x)

/-- The predicate that a vector compare writes: w/8 equal bits per lane, zeros for inactive lanes (R135). -/
def cmpMask (wb : Nat) (f : Nat → Fp → Bool × Fp) : List Nat → Fp → Nat × Fp
  | [], x => (0, x)
  | i :: l, x =>
    let (c, x) := f i x
    let (m, x) := cmpMask wb f l x
    ((if c then (2 ^ (wb / 8) - 1) * 2 ^ (wb / 8 * i) else 0) + m, x)

/-- VCMP (R135). -/
def execVcmp (g : BitVec 4) (cond : BitVec 3) (w : BitVec 2) (b a : BitVec 5) (l : BitVec 2) (d : BitVec 3)
    (s : State) : Out :=
  let wb := wBits w.toNat
  regInstr (.vcmp g cond w b a l d) s [uv b, uv a] (fun p => p.anyActive g wb) fun p =>
    let (m, x) := cmpMask wb (fun i x =>
      if p.active g wb i then cmpLane l w cond (p.laneA a wb i) (p.laneA b wb i) x else (false, x))
      (laneNumbers wb) p.fp
    (p.setP d (BitVec.ofNat 32 m)).merge x

/-- VSEL reads its guard lane by lane as a selector (R42, R136). -/
def execVsel (g : BitVec 4) (w : BitVec 2) (b a d : BitVec 5) (s : State) : Out :=
  let wb := wBits w.toNat
  regInstr (.vsel g w b a d) s [uv b, uv a, uv d] (fun _ => true) fun p =>
    p.setV d (ofLanes wb ((laneNumbers wb).map fun i => if p.active g wb i then p.laneA a wb i else p.laneA b wb i))

/-! ### Conversion (R137) -/

/-- VCVT (R137): n = 256 / Max(ws, wd) elements. -/
def execVcvt (g : BitVec 4) (r : BitVec 3) (t sx : BitVec 4) (a d : BitVec 5) (s : State) : Out :=
  let ws := tcBits sx.toNat
  let wd := tcBits t.toNat
  let w := max ws wd
  regInstr (.vcvt g r t sx a d) s [uv a, uv d] (fun p => p.anyActive g w) fun p =>
    let (l, x) := mapFp (fun i x =>
      if i < 256 / w && p.active g w i then convert sx.toNat t.toNat r.toNat (p.laneA a ws i) x
      else (p.laneA d wd i, x)) (laneNumbers wd) p.fp
    (p.setV d (ofLanes wd l)).merge x

/-! ### Lane moves (R138, R139) -/

/-- VDUP (R138). -/
def execVdup (g : BitVec 4) (w : BitVec 2) (a d : BitVec 5) (s : State) : Out :=
  let wb := wBits w.toNat
  vecOp (.vdup g w a d) g wb [ux a] d (fun p _ x => ((p.xr a).toNat % 2 ^ wb, x)) s

/-- VGET (R138). -/
def execVget (g : BitVec 4) (w : BitVec 2) (j a d : BitVec 5) (s : State) : Out :=
  let wb := wBits w.toNat
  regInstr (.vget g w j a d) s [uv a, ux d] (fun p => p.active g wb j.toNat) fun p =>
    p.setX d (BitVec.ofNat 64 (p.laneA a wb j.toNat))

/-- VINS (R138). -/
def execVins (g : BitVec 4) (w : BitVec 2) (j a d : BitVec 5) (s : State) : Out :=
  let wb := wBits w.toNat
  regInstr (.vins g w j a d) s [ux a, uv d] (fun p => p.active g wb j.toNat) fun p =>
    p.setV d (ofLanes wb ((laneNumbers wb).map fun i =>
      if i == j.toNat then (p.xr a).toNat % 2 ^ wb else p.laneA d wb i))

/-- VIOTA (R138). -/
def execViota (g : BitVec 4) (w : BitVec 2) (a d : BitVec 5) (s : State) : Out :=
  let wb := wBits w.toNat
  vecOp (.viota g w a d) g wb [ux a] d (fun p i x => (((p.xr a).toNat + i) % 2 ^ wb, x)) s

/-- VPERM (R138). -/
def execVperm (g : BitVec 4) (w : BitVec 2) (b a d : BitVec 5) (s : State) : Out :=
  let wb := wBits w.toNat
  vecOp (.vperm g w b a d) g wb [uv b, uv a] d (fun p i x =>
    let k := p.laneA b wb i
    (if k < 256 / wb then p.laneA a wb k else 0, x)) s

/-- A register group: every register is checked, and TVAL names the lowest one out of bounds (R127). -/
def groupUse (p : Proc) (a : BitVec 5) (n : Nat) : List Use :=
  if p.vregs < a.toNat + n then [(1, max a.toNat p.vregs)] else []

/-- Register `a + m` of a group. -/
def Proc.groupReg (p : Proc) (a : BitVec 5) (m : Nat) : VReg := p.vr (BitVec.ofNat 5 (a.toNat + m))

/-- VLUT: the table is v[A] to v[A + 7] (R139). -/
def execVlut (g : BitVec 4) (w : BitVec 2) (b a d : BitVec 5) (s : State) : Out :=
  let wb := wBits w.toNat
  instr (.vlut g w b a d) s
    (fun _ p => { uses := [uv b, uv d] ++ groupUse p a 8, guard := p.anyActive g wb }) fun s c k p =>
    .go (s.setProc c k (p.vecLanes g wb d fun i x =>
      let j := p.laneA b wb i
      let n := 256 / wb
      (if j < 2048 / wb then lane (p.groupReg a (j / n)) wb (j % n) else 0, x)))

/-! ### Reductions, dot products and scans (R140 to R143) -/

/-- Lanes of a TC type as values of the accumulation format; an inactive lane is −0 (R82, R140). -/
def Proc.sumTerms (p : Proc) (g : BitVec 4) (t : Nat) (f : Nat → Num) : List Num :=
  (laneNumbers (tcBits t)).map fun i => if p.active g (tcBits t) i then f i else .fin true 0 0 false

/-- Number of tree levels after the first for a lane width. -/
def treeLevels (w : Nat) : Nat := Nat.log2 (256 / w) - 1

/-- x[D] after a floating-point reduction (R141): the root is added last. -/
def Proc.reduceF (p : Proc) (t : Nat) (d : BitVec 5) (terms : List Num) : Proc :=
  let f := if t == 8 then f64 else f32
  let (l, x) := f.dotPairs terms p.fp
  let (root, x) := f.tree (treeLevels (tcBits t)) l x
  let (r, x) := f.add 0 ((p.xr d).toNat % 2 ^ f.width) root x
  (p.setX d (BitVec.ofNat 64 r)).merge x

/-- x[D] after an integer reduction: sums wrap modulo 2^64 (R141). -/
def Proc.reduceI (p : Proc) (g : BitVec 4) (t : Nat) (d : BitVec 5) (f : Nat → Int) : Proc :=
  p.setX d ((laneNumbers (tcBits t)).foldl (fun v i =>
    if p.active g (tcBits t) i then v + BitVec.ofInt 64 (f i) else v) (p.xr d))

/-- VREDM (R142): only active lanes take part. -/
def Proc.reduceM (p : Proc) (g : BitVec 4) (t : Nat) (mx : Bool) (a d : BitVec 5) : Proc :=
  let lanes := (laneNumbers (tcBits t)).filter fun i => p.active g (tcBits t) i
  match tcFmt t with
  | some ft =>
    let f := if t == 8 then f64 else f32
    let (r, x) := lanes.foldl (fun (r : Nat × Fp) i =>
      let (n, x) := f.round 0 (ft.value (p.laneA a (tcBits t) i)) r.2
      f.minMax mx r.1 n x) ((p.xr d).toNat % 2 ^ f.width, p.fp)
    (p.setX d (BitVec.ofNat 64 r)).merge x
  | none =>
    let old : Int := if t < 4 then (p.xr d).toInt else (p.xr d).toNat
    let r := lanes.foldl (fun r i =>
      let n := tcInt t (p.laneA a (tcBits t) i)
      if mx then max r n else min r n) old
    p.setX d (BitVec.ofInt 64 r)

/-- Running sums (R83, R143): the running value, lane by lane; an inactive lane adds −0 or 0 and keeps its value. DESIGN CHOICE (log
entry 42): lane 0 is Round(v[0]), which under FTZ flushes a BF16 subnormal and raises UF and NX. -/
def Proc.scanFrom (p : Proc) (g : BitVec 4) (t : Nat) (a d : BitVec 5) :
    List Nat → Option Nat → Fp → List Nat × Fp
  | [], _, x => ([], x)
  | i :: l, acc, x =>
    let w := tcBits t
    let act := p.active g w i
    let n := p.laneA a w i
    let (r, x) := match tcFmt t with
      | some f =>
        let v := if act then f.value n else .fin true 0 0 false
        (match acc with
         | none => f.round 0 v x
         | some q => f.round 0 (Num.sum 0 [f.value q, v]) x)
      | none => (((acc.getD 0) + if act then n else 0) % 2 ^ w, x)
    let (rs, x) := p.scanFrom g t a d l (some r) x
    ((if act then r else p.laneA d w i) :: rs, x)

/-- An 8-cycle reduction or scan (R124). -/
def reduceForm (i : Instr) (g t : BitVec 4) (uses : List Use) (s : State) : Out :=
  vecTimed i (fun _ => uses) (fun p => p.anyActive g (tcBits t.toNat)) 8 s

/-- VREDS (R141). -/
def execVreds (g t : BitVec 4) (a d : BitVec 5) (s : State) : Out := reduceForm (.vreds g t a d) g t [uv a, ux d] s

/-- VREDM (R142). -/
def execVredm (g t : BitVec 4) (m : BitVec 1) (a d : BitVec 5) (s : State) : Out :=
  reduceForm (.vredm g t m a d) g t [uv a, ux d] s

/-- VDOT (R141). -/
def execVdot (g t : BitVec 4) (b a d : BitVec 5) (s : State) : Out :=
  reduceForm (.vdot g t b a d) g t [uv b, uv a, ux d] s

/-- VSCAN (R143). -/
def execVscan (g t : BitVec 4) (a d : BitVec 5) (s : State) : Out := reduceForm (.vscan g t a d) g t [uv a, uv d] s

/-! ### Sorting (R144) -/

/-- The rank of a key: NaNs after all others in both directions. -/
def sortRank (t : Nat) (desc : Bool) (n : Nat) : Bool × Int :=
  let dir := fun v : Int => if desc then -v else v
  match tcFmt t with
  | some f => if (f.value n).isNan then (true, 0) else (false, dir (f.key n))
  | none => (false, dir (tcInt t n))

/-- Does rank `a` come strictly before rank `b`? -/
def rankLess (a b : Bool × Int) : Bool := (!a.1 && b.1) || (a.1 == b.1 && decide (a.2 < b.2))

/-- Insert a lane after every lane whose rank is not greater: the sort is stable. -/
def insertLane (rank : Nat → Bool × Int) (i : Nat) : List Nat → List Nat
  | [] => [i]
  | j :: l => if rankLess (rank i) (rank j) then i :: j :: l else j :: insertLane rank i l

/-- VSORT on the sort network (R124, R144). -/
def execVsort (g : BitVec 4) (e k : BitVec 1) (t : BitVec 4) (b a d : BitVec 5) (s : State) : Out :=
  instr (.vsort g e k t b a d) s
    (fun _ p => { uses := [uv a, uv d] ++ (if k == 1 then [uv b] else []), guard := p.anyActive g (tcBits t.toNat) })
    fun s c _ p =>
      let co := s.core c
      if co.sorter.isNone && co.sortq.isEmpty then
        .hold (s.setCore c { co with sorter := some p.uid }) (.vecRun (s.now + 12))
      else .hold (s.setCore c { co with sortq := co.sortq.filter (· != p.uid) ++ [p.uid] }) (.vecQueue 1)

/-- The process with a block of keys, and of values, sorted. -/
def Proc.sorted (p : Proc) (g : BitVec 4) (desc kv : Bool) (t : Nat) (b a d : BitVec 5) : Proc :=
  let w := tcBits t
  let act := (laneNumbers w).filter fun i => p.active g w i
  let rest := (laneNumbers w).filter fun i => !p.active g w i
  let order := act.foldl (fun l i => insertLane (fun j => sortRank t desc (p.laneA a w j)) i l) [] ++ rest
  let q := p.setV d (ofLanes w (order.map fun j => p.laneA a w j))
  if kv then q.setV b (ofLanes w (order.map fun j => p.laneA b w j)) else q

/-! ### MX blocks (R145, R146) -/

/-- Registers of a block of 32 lanes of format FT (R145). -/
def blockRegs (t : BitVec 2) : Nat := if t == 0 then 8 else if t == 1 then 4 else 2

/-- VMXQ (R145). -/
def execVmxq (g : BitVec 4) (e : BitVec 3) (t : BitVec 2) (r : BitVec 3) (a d : BitVec 5) (s : State) : Out :=
  vecTimed (.vmxq g e t r a d) (fun p => uv d :: groupUse p a (blockRegs t)) (fun p => p.anyActive g 8) 8 s

/-- VMXD (R146). -/
def execVmxd (g : BitVec 4) (e : BitVec 3) (t : BitVec 2) (a d : BitVec 5) (s : State) : Out :=
  vecTimed (.vmxd g e t a d) (fun p => uv a :: groupUse p d (blockRegs t)) (fun p => p.anyActive g 8) 6 s

/-- The process with a block requantised into v[D] and e7 (R87, R145). -/
def Proc.requantised (p : Proc) (g : BitVec 4) (el : Nat) (t : BitVec 2) (rm : Nat) (a d : BitVec 5) : Proc :=
  let f := ftFmt t.toNat
  let n := 256 / f.width
  let vs := (List.range 32).map fun j =>
    if p.active g 8 j then (f.value (lane (p.groupReg a (j / n)) f.width (j % n)), true) else (.fin false 0 0 false, false)
  let (sc, es, x) := mxQuantise vs el rm p.fp
  ((p.setV d (BitVec.ofNat 256 (packElements (elFmt el).width es))).setE 7 (BitVec.ofNat 64 sc)).merge x

/-- Decode the elements of a block into register `m` of the group, lane by lane (R146). -/
def Proc.decodeReg (p : Proc) (g : BitVec 4) (el : Nat) (f : Fmt) (a d : BitVec 5) (m : Nat) (x : Fp) : VReg × Fp :=
  let n := 256 / f.width
  let ef := elFmt el
  let (l, x) := mapFp (fun i x =>
    if p.active g 8 (m * n + i) then
      mxDecode ef f ((p.er 7).toNat % 256) (element ef.width (p.vr a).toNat (m * n + i)) x
    else (lane (p.groupReg d m) f.width i, x)) (laneNumbers f.width) x
  (ofLanes f.width l, x)

/-- The process with a block decoded into the group at v[D]: `p` as the instruction found it (R146). -/
def Proc.decodeRegs (p : Proc) (g : BitVec 4) (el : Nat) (f : Fmt) (a d : BitVec 5) : List Nat → Proc → Fp → Proc × Fp
  | [], q, x => (q, x)
  | m :: ms, q, x =>
    let (v, x) := p.decodeReg g el f a d m x
    p.decodeRegs g el f a d ms (q.setV (BitVec.ofNat 5 (d.toNat + m)) v) x

/-! ### Results (R124, R147) -/

/-- The lanes of VDIV: the quotient and the flag for division by zero. -/
def divLane (ft : Fmt) (a b : Nat) (x : Fp) : Nat × Fp :=
  let (v, fl) := (ft.value a).div (ft.value b)
  ft.round 0 v (x.raise fl)

/-- A seed lane rounded to P fraction bits (R132). -/
def seedLane (f : Num → Num × Word) (ft : Fmt) (n : Nat) (x : Fp) : Nat × Fp :=
  let (v, fl) := f (ft.value n)
  (trimFmt ft).round 0 v (x.raise fl)

/-- The reciprocal (R132). -/
def Num.recip (v : Num) : Num × Word := (Num.fin false 1 0 false).div v

/-- The process with the result of a timed vector instruction written (R129 to R132, R141 to R146). -/
def Proc.vecResult (p : Proc) : Instr → Proc
  | .vdiv g t b a d =>
    let f := ftFmt t.toNat
    p.vecLanes g f.width d fun i x => divLane f (p.laneA a f.width i) (p.laneA b f.width i) x
  | .vsqrt g t r a d =>
    let f := ftFmt t.toNat
    p.vecLanes g f.width d fun i x => f.round r.toNat (f.value (p.laneA a f.width i)).sqrt x
  | .vrcpa g t a d =>
    let f := ftFmt t.toNat
    p.vecLanes g f.width d fun i x => seedLane Num.recip f (p.laneA a f.width i) x
  | .vrsqa g t a d =>
    let f := ftFmt t.toNat
    p.vecLanes g f.width d fun i x => seedLane Num.rsqrt f (p.laneA a f.width i) x
  | .vexpa g t a d =>
    let f := ftFmt t.toNat
    p.vecLanes g f.width d fun i x => seedLane (fun v => (v.exp2, 0)) f (p.laneA a f.width i) x
  | .vloga g t a d =>
    let f := ftFmt t.toNat
    p.vecLanes g f.width d fun i x => seedLane Num.log2 f (p.laneA a f.width i) x
  | .vreds g t a d =>
    let t := t.toNat
    match tcFmt t with
    | some f => p.reduceF t d (p.sumTerms g t fun i => f.value (p.laneA a (tcBits t) i))
    | none => p.reduceI g t d fun i => tcInt t (p.laneA a (tcBits t) i)
  | .vdot g t b a d =>
    let t := t.toNat
    match tcFmt t with
    | some f => p.reduceF t d (p.sumTerms g t fun i =>
        (f.value (p.laneA a (tcBits t) i)).mul (f.value (p.laneA b (tcBits t) i)))
    | none => p.reduceI g t d fun i => tcInt t (p.laneA a (tcBits t) i) * tcInt t (p.laneA b (tcBits t) i)
  | .vredm g t m a d => p.reduceM g t.toNat (m == 1) a d
  | .vscan g t a d =>
    let (l, x) := p.scanFrom g t.toNat a d (laneNumbers (tcBits t.toNat)) none p.fp
    (p.setV d (ofLanes (tcBits t.toNat) l)).merge x
  | .vsort g e k t b a d => p.sorted g (e == 1) (k == 1) t.toNat b a d
  | .vmxq g e t r a d => p.requantised g e.toNat t r.toNat a d
  | .vmxd g e t a d =>
    let (q, x) := p.decodeRegs g e.toNat (ftFmt t.toNat) a d (List.range (blockRegs t)) p p.fp
    q.merge x
  | _ => p

/-- VECTOR_RESULT: the timed vector instruction of slot `k` of core `c` writes its result, and its unit is free. -/
def execVectorResult (s : State) : Out :=
  let c := s.ev.c
  match s.proc c s.ev.k with
  | none => .next s
  | some p =>
    match s.waitOf c p.uid with
    | some (.vecRun till) =>
      if s.now < till then .next s
      else
        let free := fun u : Option Nat => if u == some p.uid then none else u
        let s := s.modCore c fun co => { co with vdiv := free co.vdiv, sorter := free co.sorter }
        .next (s.resume c p.uid fun s k p i => .go (s.setProc c k (p.vecResult i)))
    | _ => .next s

/-- Cycles that the shared units take for an instruction (R124). -/
def unitCycles : Instr → Nat
  | .vdiv _ t _ _ _ => vdivCycles t
  | .vsqrt _ t _ _ _ => vdivCycles t
  | _ => 12

/-- The process that has waited longest starts in its unit: it cannot be parked, stopped or reissued any more. -/
def State.grantUnit (s : State) (c uid : Nat) : State :=
  s.modCore c fun co => co.modUid uid fun p =>
    { p with wait := p.wait.map fun w => { w with kind := .vecRun (s.now + unitCycles w.instr) } }

/-- VECTOR_UNIT_GRANT: unit `k` of core `c` (0 the vector divider, 1 the sort network) is granted in issue order
(R124, R147); a process parked meanwhile becomes ready and issues again. -/
def execVectorUnitGrant (s : State) : Out :=
  let c := s.ev.c
  let co := s.core c
  if s.ev.k == 0 then
    match co.vdiv, co.vdivq with
    | none, uid :: rest =>
      if (co.blockedSlot uid).isNone then .next ((s.setCore c { co with vdivq := rest }).reissue c uid)
      else .next ((s.setCore c { co with vdiv := some uid, vdivq := rest }).grantUnit c uid)
    | _, _ => .next s
  else
    match co.sorter, co.sortq with
    | none, uid :: rest =>
      if (co.blockedSlot uid).isNone then .next ((s.setCore c { co with sortq := rest }).reissue c uid)
      else .next ((s.setCore c { co with sorter := some uid, sortq := rest }).grantUnit c uid)
    | _, _ => .next s

end Sys2Proof.Machine
end

