-- ==== Sys2Proof/Machine/Dispatch.lean ====
section
/-! DEFINITION. Sys2Proof/Machine/Dispatch.lean: one arm per instruction and event. -/

namespace Sys2Proof.Machine

def exec (i : Instr) (s : State) : Host.Outcome State Fault Refusal :=
  match i with
  | .add g b a d => Sys2Proof.Machine.execAdd g b a d s
  | .sub g b a d => Sys2Proof.Machine.execSub g b a d s
  | .mul g b a d => Sys2Proof.Machine.execMul g b a d s
  | .mulh g u b a d => Sys2Proof.Machine.execMulh g u b a d s
  | .div g u b a d => Sys2Proof.Machine.execDiv g u b a d s
  | .rem g u b a d => Sys2Proof.Machine.execRem g u b a d s
  | .and g b a d => Sys2Proof.Machine.execAnd g b a d s
  | .or g b a d => Sys2Proof.Machine.execOr g b a d s
  | .xor g b a d => Sys2Proof.Machine.execXor g b a d s
  | .shl g b a d => Sys2Proof.Machine.execShl g b a d s
  | .shr g b a d => Sys2Proof.Machine.execShr g b a d s
  | .sha g b a d => Sys2Proof.Machine.execSha g b a d s
  | .rotl g b a d => Sys2Proof.Machine.execRotl g b a d s
  | .min g u b a d => Sys2Proof.Machine.execMin g u b a d s
  | .max g u b a d => Sys2Proof.Machine.execMax g u b a d s
  | .sel g b a d => Sys2Proof.Machine.execSel g b a d s
  | .addi g e k a d => Sys2Proof.Machine.execAddi g e k a d s
  | .andi g e k a d => Sys2Proof.Machine.execAndi g e k a d s
  | .ori g e k a d => Sys2Proof.Machine.execOri g e k a d s
  | .xori g e k a d => Sys2Proof.Machine.execXori g e k a d s
  | .shli g sx a d => Sys2Proof.Machine.execShli g sx a d s
  | .shri g sx a d => Sys2Proof.Machine.execShri g sx a d s
  | .shai g sx a d => Sys2Proof.Machine.execShai g sx a d s
  | .rotli g sx a d => Sys2Proof.Machine.execRotli g sx a d s
  | .clz g a d => Sys2Proof.Machine.execClz g a d s
  | .ctz g a d => Sys2Proof.Machine.execCtz g a d s
  | .popc g a d => Sys2Proof.Machine.execPopc g a d s
  | .ext g u sx a d => Sys2Proof.Machine.execExt g u sx a d s
  | .bfx g b a d => Sys2Proof.Machine.execBfx g b a d s
  | .bfi g b a d => Sys2Proof.Machine.execBfi g b a d s
  | .mov g a d => Sys2Proof.Machine.execMov g a d s
  | .movToY g a d => Sys2Proof.Machine.execMovToY g a d s
  | .movFromY g a d => Sys2Proof.Machine.execMovFromY g a d s
  | .li g k d => Sys2Proof.Machine.execLi g k d s
  | .lih g k d => Sys2Proof.Machine.execLih g k d s
  | .cmp g u c b a p => Sys2Proof.Machine.execCmp g u c b a p s
  | .cmpi g u c k a p => Sys2Proof.Machine.execCmpi g u c k a p s
  | .pand g b a d => Sys2Proof.Machine.execPand g b a d s
  | .por g b a d => Sys2Proof.Machine.execPor g b a d s
  | .pxor g b a d => Sys2Proof.Machine.execPxor g b a d s
  | .pnot g a d => Sys2Proof.Machine.execPnot g a d s
  | .pmovx g a d => Sys2Proof.Machine.execPmovx g a d s
  | .pmovp g a d => Sys2Proof.Machine.execPmovp g a d s
  | .br g bx k => Sys2Proof.Machine.execBr g bx k s
  | .j g k => Sys2Proof.Machine.execJ g k s
  | .jal g k d => Sys2Proof.Machine.execJal g k d s
  | .jr g a => Sys2Proof.Machine.execJr g a s
  | .jalr g a d => Sys2Proof.Machine.execJalr g a d s
  | .trap g k => Sys2Proof.Machine.execTrap g k s
  | .bkpt g k => Sys2Proof.Machine.execBkpt g k s
  | .tret g sx => Sys2Proof.Machine.execTret g sx s
  | .exti g k c e => Sys2Proof.Machine.execExti g k c e s
  | .extx g a e => Sys2Proof.Machine.execExtx g a e s
  | .extg g k a e => Sys2Proof.Machine.execExtg g k a e s
  | .extl g k a e => Sys2Proof.Machine.execExtl g k a e s
  | .exts g k a e => Sys2Proof.Machine.execExts g k a e s
  | .srd g n x => Sys2Proof.Machine.execSrd g n x s
  | .swr g n x => Sys2Proof.Machine.execSwr g n x s
  | .evt g n x => Sys2Proof.Machine.execEvt g n x s
  | .iflush g => Sys2Proof.Machine.execIflush g s
  | .fencecFence g x => Sys2Proof.Machine.execFencecFence g x s
  | .fencecAbandon g x => Sys2Proof.Machine.execFencecAbandon g x s
  | .cmapw g x => Sys2Proof.Machine.execCmapw g x s
  | .preemptSave g x => Sys2Proof.Machine.execPreemptSave g x s
  | .preemptResume g x => Sys2Proof.Machine.execPreemptResume g x s
  | .capstart g a => Sys2Proof.Machine.execCapstart g a s
  | .capstop g a d => Sys2Proof.Machine.execCapstop g a d s
  | .trcmark g b a k => Sys2Proof.Machine.execTrcmark g b a k s
  | .lsend g b a d => Sys2Proof.Machine.execLsend g b a d s
  | .lrecv g b d => Sys2Proof.Machine.execLrecv g b d s
  | .ld g u sx k a d => Sys2Proof.Machine.execLd g u sx k a d s
  | .st g sx o k a d => Sys2Proof.Machine.execSt g sx o k a d s
  | .ldv g k a d => Sys2Proof.Machine.execLdv g k a d s
  | .stv g o k a d => Sys2Proof.Machine.execStv g o k a d s
  | .ldvx g w b a d => Sys2Proof.Machine.execLdvx g w b a d s
  | .stvx g w b a d => Sys2Proof.Machine.execStvx g w b a d s
  | .ldf g n c k a d => Sys2Proof.Machine.execLdf g n c k a d s
  | .stf g n k a d => Sys2Proof.Machine.execStf g n k a d s
  | .sete g k a => Sys2Proof.Machine.execSete g k a s
  | .setf g k a => Sys2Proof.Machine.execSetf g k a s
  | .gstate g k a d => Sys2Proof.Machine.execGstate g k a d s
  | .amoLoad g r w a d => Sys2Proof.Machine.execAmoLoad g r w a d s
  | .amoStore g r w b a => Sys2Proof.Machine.execAmoStore g r w b a s
  | .amoSwap g r w b a d => Sys2Proof.Machine.execAmoSwap g r w b a d s
  | .cas g r w b a d => Sys2Proof.Machine.execCas g r w b a d s
  | .amoAdd g r w b a d => Sys2Proof.Machine.execAmoAdd g r w b a d s
  | .amoAnd g r w b a d => Sys2Proof.Machine.execAmoAnd g r w b a d s
  | .amoOr g r w b a d => Sys2Proof.Machine.execAmoOr g r w b a d s
  | .amoXor g r w b a d => Sys2Proof.Machine.execAmoXor g r w b a d s
  | .amoMinSigned g r w b a d => Sys2Proof.Machine.execAmoMinSigned g r w b a d s
  | .amoMaxSigned g r w b a d => Sys2Proof.Machine.execAmoMaxSigned g r w b a d s
  | .amoMinUnsigned g r w b a d => Sys2Proof.Machine.execAmoMinUnsigned g r w b a d s
  | .amoMaxUnsigned g r w b a d => Sys2Proof.Machine.execAmoMaxUnsigned g r w b a d s
  | .amoFadd g r w b a d => Sys2Proof.Machine.execAmoFadd g r w b a d s
  | .amoFmin g r w b a d => Sys2Proof.Machine.execAmoFmin g r w b a d s
  | .amoFmax g r w b a d => Sys2Proof.Machine.execAmoFmax g r w b a d s
  | .fenceRel g sx => Sys2Proof.Machine.execFenceRel g sx s
  | .fenceAcq g sx => Sys2Proof.Machine.execFenceAcq g sx s
  | .fenceAr g sx => Sys2Proof.Machine.execFenceAr g sx s
  | .vadd g t b a d => Sys2Proof.Machine.execVadd g t b a d s
  | .vsub g t b a d => Sys2Proof.Machine.execVsub g t b a d s
  | .vmul g t b a d => Sys2Proof.Machine.execVmul g t b a d s
  | .vdiv g t b a d => Sys2Proof.Machine.execVdiv g t b a d s
  | .vfma g t b a d => Sys2Proof.Machine.execVfma g t b a d s
  | .vfms g t b a d => Sys2Proof.Machine.execVfms g t b a d s
  | .vfnma g t b a d => Sys2Proof.Machine.execVfnma g t b a d s
  | .vmin g t b a d => Sys2Proof.Machine.execVmin g t b a d s
  | .vmax g t b a d => Sys2Proof.Machine.execVmax g t b a d s
  | .vneg g t a d => Sys2Proof.Machine.execVneg g t a d s
  | .vabs g t a d => Sys2Proof.Machine.execVabs g t a d s
  | .vsqrt g t r a d => Sys2Proof.Machine.execVsqrt g t r a d s
  | .vrcpa g t a d => Sys2Proof.Machine.execVrcpa g t a d s
  | .vrsqa g t a d => Sys2Proof.Machine.execVrsqa g t a d s
  | .vexpa g t a d => Sys2Proof.Machine.execVexpa g t a d s
  | .vloga g t a d => Sys2Proof.Machine.execVloga g t a d s
  | .vrint g t r a d => Sys2Proof.Machine.execVrint g t r a d s
  | .viadd g w b a d => Sys2Proof.Machine.execViadd g w b a d s
  | .visub g w b a d => Sys2Proof.Machine.execVisub g w b a d s
  | .vimul g w b a d => Sys2Proof.Machine.execVimul g w b a d s
  | .viminI g w b a d => Sys2Proof.Machine.execViminI g w b a d s
  | .viminN g w b a d => Sys2Proof.Machine.execViminN g w b a d s
  | .vimaxI g w b a d => Sys2Proof.Machine.execVimaxI g w b a d s
  | .vimaxN g w b a d => Sys2Proof.Machine.execVimaxN g w b a d s
  | .viaddsI g w b a d => Sys2Proof.Machine.execViaddsI g w b a d s
  | .viaddsN g w b a d => Sys2Proof.Machine.execViaddsN g w b a d s
  | .vand g w b a d => Sys2Proof.Machine.execVand g w b a d s
  | .vor g w b a d => Sys2Proof.Machine.execVor g w b a d s
  | .vxor g w b a d => Sys2Proof.Machine.execVxor g w b a d s
  | .vshl g w b a d => Sys2Proof.Machine.execVshl g w b a d s
  | .vshrN g w b a d => Sys2Proof.Machine.execVshrN g w b a d s
  | .vshrI g w b a d => Sys2Proof.Machine.execVshrI g w b a d s
  | .vcmp g c w b a l p => Sys2Proof.Machine.execVcmp g c w b a l p s
  | .vsel g w b a d => Sys2Proof.Machine.execVsel g w b a d s
  | .vcvt g r t sx a d => Sys2Proof.Machine.execVcvt g r t sx a d s
  | .vdup g w a d => Sys2Proof.Machine.execVdup g w a d s
  | .vget g w j a d => Sys2Proof.Machine.execVget g w j a d s
  | .vins g w j a d => Sys2Proof.Machine.execVins g w j a d s
  | .viota g w a d => Sys2Proof.Machine.execViota g w a d s
  | .vperm g w b a d => Sys2Proof.Machine.execVperm g w b a d s
  | .vreds g t a d => Sys2Proof.Machine.execVreds g t a d s
  | .vredm g t m a d => Sys2Proof.Machine.execVredm g t m a d s
  | .vdot g t b a d => Sys2Proof.Machine.execVdot g t b a d s
  | .vscan g t a d => Sys2Proof.Machine.execVscan g t a d s
  | .vsort g e k c b a d => Sys2Proof.Machine.execVsort g e k c b a d s
  | .vmxq g e t r a d => Sys2Proof.Machine.execVmxq g e t r a d s
  | .vmxd g e t a d => Sys2Proof.Machine.execVmxd g e t a d s
  | .vlut g w b a d => Sys2Proof.Machine.execVlut g w b a d s
  | .rinit g q a => Sys2Proof.Machine.execRinit g q a s
  | .radvHead g q a => Sys2Proof.Machine.execRadvHead g q a s
  | .radvTail g q a => Sys2Proof.Machine.execRadvTail g q a s
  | .rwaitHead g q a d => Sys2Proof.Machine.execRwaitHead g q a d s
  | .rwaitTail g q a d => Sys2Proof.Machine.execRwaitTail g q a d s
  | .rstat g q d => Sys2Proof.Machine.execRstat g q d s
  | .tmma g t c b a => Sys2Proof.Machine.execTmma g t c b a s
  | .tmmx g t c b a => Sys2Proof.Machine.execTmmx g t c b a s
  | .tzero g c => Sys2Proof.Machine.execTzero g c s
  | .tloada g t c q => Sys2Proof.Machine.execTloada g t c q s
  | .tstore g t c q e => Sys2Proof.Machine.execTstore g t c q e s
  | .ttrn g t sx q => Sys2Proof.Machine.execTtrn g t sx q s
  | .tscl g z a => Sys2Proof.Machine.execTscl g z a s
  | .slab g q a => Sys2Proof.Machine.execSlab g q a s
  | .spawn g q d => Sys2Proof.Machine.execSpawn g q d s
  | .quit g => Sys2Proof.Machine.execQuit g s
  | .commit g => Sys2Proof.Machine.execCommit g s
  | .yield g => Sys2Proof.Machine.execYield g s
  | .prio g a => Sys2Proof.Machine.execPrio g a s
  | .chopen g q p a d => Sys2Proof.Machine.execChopen g q p a d s
  | .chbind g q p a d => Sys2Proof.Machine.execChbind g q p a d s
  | .chclose g q p d => Sys2Proof.Machine.execChclose g q p d s
  | .chstat g p sx d => Sys2Proof.Machine.execChstat g p sx d s
  | .wrel g q p d => Sys2Proof.Machine.execWrel g q p d s
  | .send g q p a d => Sys2Proof.Machine.execSend g q p a d s
  | .recv g q p a d => Sys2Proof.Machine.execRecv g q p a d s
  | .sendv g q p a d => Sys2Proof.Machine.execSendv g q p a d s
  | .recvv g q p a d => Sys2Proof.Machine.execRecvv g q p a d s
  | .sendt g q p a d => Sys2Proof.Machine.execSendt g q p a d s
  | .recvt g q p a d => Sys2Proof.Machine.execRecvt g q p a d s
  | .alt g n d => Sys2Proof.Machine.execAlt g n d s
  | .launch g q b d => Sys2Proof.Machine.execLaunch g q b d s
  | .lwait g q b a d => Sys2Proof.Machine.execLwait g q b a d s
  | .lcancel g q a d => Sys2Proof.Machine.execLcancel g q a d s
  | .ldep g q b a d => Sys2Proof.Machine.execLdep g q b a d s
  | .graphOpen g q a d => Sys2Proof.Machine.execGraphOpen g q a d s
  | .graphClose g q a d => Sys2Proof.Machine.execGraphClose g q a d s
  | .jcancel g q a d => Sys2Proof.Machine.execJcancel g q a d s
  | .nextt g q b a d => Sys2Proof.Machine.execNextt g q b a d s
  | .gsendScalar g q p a d => Sys2Proof.Machine.execGsendScalar g q p a d s
  | .gsendVector g q p a d => Sys2Proof.Machine.execGsendVector g q p a d s
  | .grecvScalar g q p a d => Sys2Proof.Machine.execGrecvScalar g q p a d s
  | .grecvVector g q p a d => Sys2Proof.Machine.execGrecvVector g q p a d s
  | .gcfg g p a => Sys2Proof.Machine.execGcfg g p a s
  | .gcfgPort g p a => Sys2Proof.Machine.execGcfgPort g p a s
  | .dsend g q p a d => Sys2Proof.Machine.execDsend g q p a d s
  | .dstat g p a d => Sys2Proof.Machine.execDstat g p a d s
  | .copy g q d => Sys2Proof.Machine.execCopy g q d s
  | .copya g q k a d => Sys2Proof.Machine.execCopya g q k a d s
  | .cstat g k sx d => Sys2Proof.Machine.execCstat g k sx d s
  | .ctradd g q k a d => Sys2Proof.Machine.execCtradd g q k a d s
  | .ctrset g q c k a d => Sys2Proof.Machine.execCtrset g q c k a d s
  | .tbexp g q k a d => Sys2Proof.Machine.execTbexp g q k a d s
  | .tbarr g q k d => Sys2Proof.Machine.execTbarr g q k d s
  | .proof g a => Sys2Proof.Machine.execProof g a s
  | .pverd g d => Sys2Proof.Machine.execPverd g d s
  | .hload g b a d => Sys2Proof.Machine.execHload g b a d s
  | .hstore g b a d => Sys2Proof.Machine.execHstore g b a d s
  | .hpush g b a d => Sys2Proof.Machine.execHpush g b a d s
  | .hdrain g d => Sys2Proof.Machine.execHdrain g d s
  | .tlbp g b a d => Sys2Proof.Machine.execTlbp g b a d s
  | .cNop => Sys2Proof.Machine.execCNop s
  | .cMov a d => Sys2Proof.Machine.execCMov a d s
  | .cAdd a d => Sys2Proof.Machine.execCAdd a d s
  | .cAddi k d => Sys2Proof.Machine.execCAddi k d s
  | .cSub a d => Sys2Proof.Machine.execCSub a d s
  | .cAnd a d => Sys2Proof.Machine.execCAnd a d s
  | .cOr a d => Sys2Proof.Machine.execCOr a d s
  | .cXor a d => Sys2Proof.Machine.execCXor a d s
  | .cShli sx d => Sys2Proof.Machine.execCShli sx d s
  | .cLi k d => Sys2Proof.Machine.execCLi k d s
  | .cLd j a d => Sys2Proof.Machine.execCLd j a d s
  | .cSt j a d => Sys2Proof.Machine.execCSt j a d s
  | .cBr k n p => Sys2Proof.Machine.execCBr k n p s
  | .cJ k => Sys2Proof.Machine.execCJ k s
  | .cRecv p d => Sys2Proof.Machine.execCRecv p d s
  | .cSend p a => Sys2Proof.Machine.execCSend p a s
  | .illegalWord w => Sys2Proof.Machine.execIllegalWord w s
  | .iflushDone => Sys2Proof.Machine.execIflushDone s
  | .granulePollReissue => Sys2Proof.Machine.execGranulePollReissue s
  | .releaseWaitDone => Sys2Proof.Machine.execReleaseWaitDone s
  | .vectorUnitGrant => Sys2Proof.Machine.execVectorUnitGrant s
  | .vectorResult => Sys2Proof.Machine.execVectorResult s
  | .dividerGrant => Sys2Proof.Machine.execDividerGrant s
  | .dividerDone => Sys2Proof.Machine.execDividerDone s
  | .tileAccept => Sys2Proof.Machine.execTileAccept s
  | .tileStart => Sys2Proof.Machine.execTileStart s
  | .tileActivationGrant => Sys2Proof.Machine.execTileActivationGrant s
  | .tileComplete => Sys2Proof.Machine.execTileComplete s
  | .yieldEnd => Sys2Proof.Machine.execYieldEnd s
  | .spawnRecordAccept => Sys2Proof.Machine.execSpawnRecordAccept s
  | .spawnAnswer => Sys2Proof.Machine.execSpawnAnswer s
  | .slotAssign => Sys2Proof.Machine.execSlotAssign s
  | .windowClearDone => Sys2Proof.Machine.execWindowClearDone s
  | .parkStart => Sys2Proof.Machine.execParkStart s
  | .parkDone => Sys2Proof.Machine.execParkDone s
  | .parkRestoreDone => Sys2Proof.Machine.execParkRestoreDone s
  | .stageFiring => Sys2Proof.Machine.execStageFiring s
  | .altTimeout => Sys2Proof.Machine.execAltTimeout s
  | .creditRequestArrive => Sys2Proof.Machine.execCreditRequestArrive s
  | .creditGrant => Sys2Proof.Machine.execCreditGrant s
  | .channelAnswer => Sys2Proof.Machine.execChannelAnswer s
  | .messageArrive => Sys2Proof.Machine.execMessageArrive s
  | .creditReturn => Sys2Proof.Machine.execCreditReturn s
  | .bindQueryArrive => Sys2Proof.Machine.execBindQueryArrive s
  | .tileTransferData => Sys2Proof.Machine.execTileTransferData s
  | .deadlockProbeStart => Sys2Proof.Machine.execDeadlockProbeStart s
  | .deadlockProbe => Sys2Proof.Machine.execDeadlockProbe s
  | .launchRequestArrive => Sys2Proof.Machine.execLaunchRequestArrive s
  | .launchAnswer => Sys2Proof.Machine.execLaunchAnswer s
  | .launchRelease => Sys2Proof.Machine.execLaunchRelease s
  | .launchWake => Sys2Proof.Machine.execLaunchWake s
  | .launchCounterDecrement => Sys2Proof.Machine.execLaunchCounterDecrement s
  | .cancelArrive => Sys2Proof.Machine.execCancelArrive s
  | .combineContributionArrive => Sys2Proof.Machine.execCombineContributionArrive s
  | .combineSequence => Sys2Proof.Machine.execCombineSequence s
  | .combineResultArrive => Sys2Proof.Machine.execCombineResultArrive s
  | .combineCreditArrive => Sys2Proof.Machine.execCombineCreditArrive s
  | .dispatchClaimArrive => Sys2Proof.Machine.execDispatchClaimArrive s
  | .dispatchClaimAnswer => Sys2Proof.Machine.execDispatchClaimAnswer s
  | .dispatchRowArrive => Sys2Proof.Machine.execDispatchRowArrive s
  | .copyAccept => Sys2Proof.Machine.execCopyAccept s
  | .copyUnitSend => Sys2Proof.Machine.execCopyUnitSend s
  | .copyUnitRead => Sys2Proof.Machine.execCopyUnitRead s
  | .copyUnitWrite => Sys2Proof.Machine.execCopyUnitWrite s
  | .copyUnitAck => Sys2Proof.Machine.execCopyUnitAck s
  | .galleyWrite => Sys2Proof.Machine.execGalleyWrite s
  | .draftSettled => Sys2Proof.Machine.execDraftSettled s
  | .galleyPrepare => Sys2Proof.Machine.execGalleyPrepare s
  | .galleyPrepareAnswer => Sys2Proof.Machine.execGalleyPrepareAnswer s
  | .galleyPublish => Sys2Proof.Machine.execGalleyPublish s
  | .galleyPublishAck => Sys2Proof.Machine.execGalleyPublishAck s
  | .galleyDiscard => Sys2Proof.Machine.execGalleyDiscard s
  | .galleyDiscardAck => Sys2Proof.Machine.execGalleyDiscardAck s
  | .memcoreOpAccept => Sys2Proof.Machine.execMemcoreOpAccept s
  | .hloadLineArrive => Sys2Proof.Machine.execHloadLineArrive s
  | .hstoreLineDone => Sys2Proof.Machine.execHstoreLineDone s
  | .memcoreOpComplete => Sys2Proof.Machine.execMemcoreOpComplete s
  | .ringClaimArrive => Sys2Proof.Machine.execRingClaimArrive s
  | .ringClaimGrant => Sys2Proof.Machine.execRingClaimGrant s
  | .ringClaimAnswer => Sys2Proof.Machine.execRingClaimAnswer s
  | .ringPushData => Sys2Proof.Machine.execRingPushData s
  | .forwardCreditGrant => Sys2Proof.Machine.execForwardCreditGrant s
  | .forwardSend => Sys2Proof.Machine.execForwardSend s
  | .forwardDataArrive => Sys2Proof.Machine.execForwardDataArrive s
  | .forwardAck => Sys2Proof.Machine.execForwardAck s
  | .forwardFailure => Sys2Proof.Machine.execForwardFailure s
  | .amoAtHome => Sys2Proof.Machine.execAmoAtHome s
  | .nexttAtHome => Sys2Proof.Machine.execNexttAtHome s
  | .amoReply => Sys2Proof.Machine.execAmoReply s
  | .remoteAccessArrive => Sys2Proof.Machine.execRemoteAccessArrive s
  | .remoteLoadReply => Sys2Proof.Machine.execRemoteLoadReply s
  | .storeAck => Sys2Proof.Machine.execStoreAck s
  | .hostWritebackDone => Sys2Proof.Machine.execHostWritebackDone s
  | .lapseReject => Sys2Proof.Machine.execLapseReject s
  | .walkComplete => Sys2Proof.Machine.execWalkComplete s
  | .walkRestart => Sys2Proof.Machine.execWalkRestart s
  | .translationExpiry => Sys2Proof.Machine.execTranslationExpiry s
  | .leaseRenewal => Sys2Proof.Machine.execLeaseRenewal s
  | .leaseTick => Sys2Proof.Machine.execLeaseTick s
  | .leaseResync => Sys2Proof.Machine.execLeaseResync s
  | .watchNotify => Sys2Proof.Machine.execWatchNotify s
  | .watchPoll => Sys2Proof.Machine.execWatchPoll s
  | .faultRecordSend => Sys2Proof.Machine.execFaultRecordSend s
  | .faultRecordRetry => Sys2Proof.Machine.execFaultRecordRetry s
  | .wakeRetry => Sys2Proof.Machine.execWakeRetry s
  | .wakeKill => Sys2Proof.Machine.execWakeKill s
  | .wakeAbandon => Sys2Proof.Machine.execWakeAbandon s
  | .coreSave => Sys2Proof.Machine.execCoreSave s
  | .coreRestore => Sys2Proof.Machine.execCoreRestore s
  | .coreWatchdog => Sys2Proof.Machine.execCoreWatchdog s
  | .linkWatchdog => Sys2Proof.Machine.execLinkWatchdog s
  | .fenceSalvage => Sys2Proof.Machine.execFenceSalvage s
  | .eccCorrectable => Sys2Proof.Machine.execEccCorrectable s
  | .eccUncorrectable => Sys2Proof.Machine.execEccUncorrectable s
  | .dbgHalt => Sys2Proof.Machine.execDbgHalt s
  | .dbgResume => Sys2Proof.Machine.execDbgResume s
  | .dbgStep => Sys2Proof.Machine.execDbgStep s
  | .dbgaccRead => Sys2Proof.Machine.execDbgaccRead s
  | .dbgaccWrite => Sys2Proof.Machine.execDbgaccWrite s
  | .traceDrain => Sys2Proof.Machine.execTraceDrain s
  | .traceRingWrite => Sys2Proof.Machine.execTraceRingWrite s
  | .traceRdptrPoll => Sys2Proof.Machine.execTraceRdptrPoll s
  | .captureStartPacket => Sys2Proof.Machine.execCaptureStartPacket s
  | .captureIntervalEnd => Sys2Proof.Machine.execCaptureIntervalEnd s
  | .captureStopPacket => Sys2Proof.Machine.execCaptureStopPacket s
  | .bridgeFlitRetry => Sys2Proof.Machine.execBridgeFlitRetry s
  | .bridgePause => Sys2Proof.Machine.execBridgePause s
  | .bridgePaused => Sys2Proof.Machine.execBridgePaused s
  | .bridgeRepair => Sys2Proof.Machine.execBridgeRepair s
  | .bridgeRetrain => Sys2Proof.Machine.execBridgeRetrain s
  | .bridgeResume => Sys2Proof.Machine.execBridgeResume s
  | .bridgeModoff => Sys2Proof.Machine.execBridgeModoff s
  | .bridgeServiceDone => Sys2Proof.Machine.execBridgeServiceDone s
  | .scaleupLinkFlit => Sys2Proof.Machine.execScaleupLinkFlit s
  | .scaleupRetryRequest => Sys2Proof.Machine.execScaleupRetryRequest s
  | .e2eAck => Sys2Proof.Machine.execE2eAck s
  | .e2eNak => Sys2Proof.Machine.execE2eNak s
  | .e2eAckTimer => Sys2Proof.Machine.execE2eAckTimer s
  | .e2eResendTimeout => Sys2Proof.Machine.execE2eResendTimeout s
  | .reductionResult => Sys2Proof.Machine.execReductionResult s
  | .lendRequest => Sys2Proof.Machine.execLendRequest s
  | .aperture3Refusal => Sys2Proof.Machine.execAperture3Refusal s
  | .scaleoutPacket => Sys2Proof.Machine.execScaleoutPacket s
  | .scaleoutTimeout => Sys2Proof.Machine.execScaleoutTimeout s
  | .hostMemAccess => Sys2Proof.Machine.execHostMemAccess s
  | .cxlSnoop => Sys2Proof.Machine.execCxlSnoop s
  | .commandRingFetch => Sys2Proof.Machine.execCommandRingFetch s
  | .cmdLaunch => Sys2Proof.Machine.execCmdLaunch s
  | .cmdRetire => Sys2Proof.Machine.execCmdRetire s
  | .cmdCancel => Sys2Proof.Machine.execCmdCancel s
  | .cmdJcancel => Sys2Proof.Machine.execCmdJcancel s
  | .cmdPsave => Sys2Proof.Machine.execCmdPsave s
  | .cmdPresume => Sys2Proof.Machine.execCmdPresume s
  | .cmdEvq => Sys2Proof.Machine.execCmdEvq s
  | .cmdSummary => Sys2Proof.Machine.execCmdSummary s
  | .cmdNop => Sys2Proof.Machine.execCmdNop s
  | .rdescEnable => Sys2Proof.Machine.execRdescEnable s
  | .eventRecordWrite => Sys2Proof.Machine.execEventRecordWrite s
  | .evqRdptrPoll => Sys2Proof.Machine.execEvqRdptrPoll s
  | .lendEntryWrite => Sys2Proof.Machine.execLendEntryWrite s
  | .lendDrainDone => Sys2Proof.Machine.execLendDrainDone s
  | .registerWrite => Sys2Proof.Machine.execRegisterWrite s
  | .rawDiscover => Sys2Proof.Machine.execRawDiscover s
  | .rawReport => Sys2Proof.Machine.execRawReport s
  | .rawImage => Sys2Proof.Machine.execRawImage s
  | .rawStart => Sys2Proof.Machine.execRawStart s
  | .rawData => Sys2Proof.Machine.execRawData s
  | .powerInputValid => Sys2Proof.Machine.execPowerInputValid s
  | .powerStep => Sys2Proof.Machine.execPowerStep s
  | .bootProgramStart => Sys2Proof.Machine.execBootProgramStart s
  | .leaveBootMode => Sys2Proof.Machine.execLeaveBootMode s
  | .thermalHigh => Sys2Proof.Machine.execThermalHigh s
  | .thermalShutdown => Sys2Proof.Machine.execThermalShutdown s
  | .attestationRequest => Sys2Proof.Machine.execAttestationRequest s
  | .thermalNormal => Sys2Proof.Machine.execThermalNormal s
  | .creditRequestWithdrawn => Sys2Proof.Machine.execCreditRequestWithdrawn s

end Sys2Proof.Machine
end

