-- ==== Sys2Proof/Machine/Issue.lean ====
section
/-! DEFINITION. Sys2Proof/Machine/Issue.lean: what may happen next (log entry 1). A core issues by the rotation of R187; every event
whose cycle has come happens before the next cycle begins; packets, walks and the other happenings of unstated duration may
come in any order; and the outside does what `State.inbox` holds. `State.tick` ends a cycle. -/

namespace Sys2Proof.Machine

/-! ### Issue (R36, R37, R187) -/

/-- Does a core issue at all: it is neither fenced (R389) nor fused off (R449), and it issues once in a cycle. -/
def State.mayIssue (s : State) (c : Nat) : Bool :=
  (s.core c).lastTick != s.now + 1 && !s.fenced c && !(decide (c < 4096) && isFused c)

/-- Does slot `k` qualify in this cycle (R187, R191)? A process that a save waits for issues only to end a wait whose answer has
come (R375). -/
def Core.slotReady (co : Core) (now k : Nat) : Bool :=
  let sl := co.slot k
  sl.state == .runnable && decide (sl.ready ≤ now) && decide (sl.spaced ≤ now)
    && (match sl.yielding with | some t => decide (t ≤ now) | none => true)
    && (match sl.proc with | some p => !p.saving || p.answer.isSome | none => false)

/-- The slot that the rotation reaches first (R187). -/
def Core.nextSlot (co : Core) (now : Nat) : Option Nat :=
  (slotNumbers.map fun j => (co.last + 1 + j) % 16).find? fun k => co.slotReady now k

/-- The instruction in fetched bytes; bytes that decode as none are an illegal word (R37, R58). -/
def instrOf (bs : List Byte) : Instr :=
  match decode bs with
  | .ok (i, _) => i
  | .error _ => .illegalWord (ofLe bs)

/-- Do `f` with the state of a next outcome. -/
def Out.andThen (o : Out) (f : State → Out) : Out :=
  match o with
  | .next s => f s
  | .fault r => .fault r
  | .refused r => .refused r

/-- Slot `k` of core `c` has issued in this cycle (R187). -/
def State.noteIssue (s : State) (c k : Nat) : State :=
  s.modCore c fun co =>
    ({ co with last := k, lastTick := s.now + 1 }).setSlot k { co.slot k with spaced := s.now + 4 }

/-- Slot `k` of core `c` issues the instruction at its pc, or waits for its fetch (R36, R187); on a halted core it was stepped
(R400). -/
def State.issue (s : State) (c k : Nat) : Out :=
  match s.proc c k with
  | none => .next s
  | some p =>
    let s := s.noteIssue c k
    let stepped := fun (t : State) => Host.Outcome.next (t.modCore c fun co => co.stepped k)
    match s.fetchAt c k p fetchInstr p.pc 1 with
    | .stop s => stepped s
    | .code bs s => Out.andThen (exec (instrOf bs) { s with cur := (c, k) }) stepped

/-! ### Events that the model itself brings about -/

/-- An event with its arguments. -/
abbrev Event := Instr × Ev

/-- The events that a slot's process may be waiting for. -/
def slotEvents (c k : Nat) (w : WaitKind) : List Instr :=
  match w with
  | .iflush _ => [.iflushDone]
  | .poll _ => [.granulePollReissue]
  | .release _ => [.releaseWaitDone]
  | .vecRun _ => [.vectorResult]
  | .divRun _ => [.dividerDone]
  | .copyQueue | .copyOwn => [.copyAccept]
  | .memop => if isMemCore c then [.memcoreOpAccept] else []
  | .walk .. => [.walkRestart]
  | .stage => if k < 16 then [.stageFiring] else []
  | .settle => [.draftSettled]
  | .alt => [.altTimeout]
  | _ => []

/-- The events of a slot or park record. -/
def procEvents (c k : Nat) (p : Proc) : List Event :=
  match p.wait with
  | some w => (slotEvents c k w.kind).map fun i => (i, { c := c, k := k })
  | none => []

/-- The events of slot `k` of a core that its state calls for (R24, R191, R195). -/
def Core.stateEvents (co : Core) (c k : Nat) : List Event :=
  let sl := co.slot k
  let e : Ev := { c := c, k := k }
  (match sl.state with
   | .starting => [(Instr.windowClearDone, e)]
   | .parking => [(Instr.parkDone, e), (Instr.parkRestoreDone, e)]
   | _ => []) ++ (if sl.yielding.isSome then [(Instr.yieldEnd, e)] else [])

/-- Has a slot begun to be parked in this cycle (R194)? -/
def Core.parkedNow (co : Core) (now : Nat) : Bool :=
  co.slots.toList.any fun sl => sl.state == .parking && !sl.back && sl.busy == now + 6

/-- The events of the units of a core: its dividers, tile unit, slots, ports, watchdog and capture. -/
def Core.unitEvents (co : Core) (c now : Nat) : List Event :=
  let e : Ev := { c := c }
  (if co.divq.isEmpty then [] else [(Instr.dividerGrant, e)])
    ++ (if co.vdivq.isEmpty then [] else [(Instr.vectorUnitGrant, e)])
    ++ (if co.sortq.isEmpty then [] else [(Instr.vectorUnitGrant, { e with k := 1 })])
    ++ (if co.tilew.isEmpty then [] else [(Instr.tileAccept, e)])
    ++ (if co.tileq.isEmpty then [] else [(Instr.tileStart, e), (Instr.tileComplete, e)])
    ++ (if co.queue.isEmpty && co.rerun.isEmpty && co.parked.isEmpty then [] else
          (Instr.slotAssign, e) :: (if co.parkedNow now then [] else [(Instr.parkStart, e)]))
    ++ (co.ports.filter fun q => !q.2.queue.isEmpty).map (fun q => (Instr.creditGrant, { c := c, n := q.1 }))
    ++ (if co.wdCount == 0 then [] else [(Instr.coreWatchdog, e)])
    ++ (if co.capture.isNone then [] else [(Instr.captureIntervalEnd, e)])

/-- The events of a core's translations, faults, renewals and probes. -/
def State.heldEvents (s : State) (c : Nat) (co : Core) : List Event :=
  let clock := s.clockOf c
  let l2 := (kget s.l2 (clusterOf c)).getD []
  (if (co.itlb ++ co.dtlb ++ l2).all (Tlb.alive clock) then [] else [(Instr.translationExpiry, { n := c })])
    ++ (List.range co.faults.length).map (fun f => (Instr.faultRecordRetry, { c := c, n := f }))
    ++ co.copies.map (fun cp => (Instr.leaseRenewal, { c := c, n := cp.id }))
    ++ co.memops.map (fun m => (Instr.leaseRenewal, { c := c, n := m.id }))
    ++ (if co.copies.isEmpty && co.memops.isEmpty && s.homes.isEmpty && s.monitors.isEmpty then [] else
          (co.procs.filter fun e => e.2.inAlt).map fun e => (Instr.leaseRenewal, { c := c, n := 2 ^ 32 + e.1 }))
    ++ (if co.halted then [] else
          (((co.waiting.filter fun e => e.1.channelWait.isSome).map fun e => e.1.ctx.toNat).eraseDups).map fun ctx =>
            (Instr.deadlockProbeStart, { c := c, n := ctx }))

/-- The events of a core whose cycle is set. -/
def State.coreTimed (s : State) (c : Nat) (co : Core) : List Event :=
  (co.procs.flatMap fun e => procEvents c e.1 e.2)
    ++ (slotNumbers.flatMap fun k => co.stateEvents c k)
    ++ ((List.range co.parked.length).zip co.parked).flatMap (fun e => procEvents c (16 + e.1) e.2.proc)
    ++ co.unitEvents c s.now ++ s.heldEvents c co

/-- The events of the dies, the fabrics and the host interface unit whose cycle is set. -/
def State.packageTimed (s : State) : List Event :=
  [0, 1, 2, 3].flatMap (fun d =>
      (if (s.heldCores d).isEmpty then [] else [(Instr.tileActivationGrant, { c := d })])
        ++ (if s.traceSize d != 0 && ((s.die d).ringErr || s.traceFull d) then [(Instr.traceRdptrPoll, { n := d })] else []))
    ++ (if s.clockAt + leaseCycles ≤ s.now then (List.range 64).map fun n => (Instr.leaseTick, { n := n }) else [])
    ++ (List.range s.net.length).map (fun n => (Instr.linkWatchdog, { n := n }))
    ++ s.flows.flatMap (fun x => [(Instr.e2eAckTimer, { flow := x.flow }), (Instr.e2eResendTimeout, { flow := x.flow })])
    ++ (List.range s.outflows.length).map (fun n => (Instr.scaleoutTimeout, { n := n }))
    ++ s.evqs.map fun e => (Instr.evqRdptrPoll, { n := e.1 })

/-- The events that a packet can bring about where it has come. -/
def Body.events : Body → List Instr
  | .spawnReq .. => [.spawnRecordAccept]
  | .spawnAns .. => [.spawnAnswer]
  | .creditReq .. => [.creditRequestArrive]
  | .withdraw .. => [.creditRequestWithdrawn]
  | .chanAns .. => [.channelAnswer]
  | .creditRet .. => [.creditReturn]
  | .bindQuery .. => [.bindQueryArrive]
  | .chanMsg .. => [.messageArrive]
  | .tileData .. => [.tileTransferData]
  | .probe .. => [.deadlockProbe]
  | .launchReq .. | .launchJoin .. => [.launchRequestArrive]
  | .launchAns .. | .launchAsk .. | .launchTold .. | .launchJoined .. | .launchDone .. => [.launchAnswer]
  | .wakeLaunch .. => [.launchWake]
  | .ended .. => [.launchCounterDecrement]
  | .cancel .. => [.cancelArrive]
  | .combine .. => [.combineContributionArrive]
  | .combineRes .. => [.combineResultArrive]
  | .combineCred .. => [.combineCreditArrive]
  | .claimRow .. => [.dispatchClaimArrive]
  | .claimAns .. => [.dispatchClaimAnswer]
  | .row .. => [.dispatchRowArrive]
  | .copyRead .. => [.copyUnitRead]
  | .copyWrite .. => [.copyUnitWrite]
  | .copyAck .. => [.copyUnitAck]
  | .galley .. => [.galleyWrite]
  | .galleyPrep .. => [.galleyPrepare]
  | .galleyPrepAns .. => [.galleyPrepareAnswer]
  | .galleyPub .. => [.galleyPublish]
  | .galleyPubAck .. => [.galleyPublishAck]
  | .galleyDrop .. => [.galleyDiscard]
  | .galleyDropAck .. => [.galleyDiscardAck]
  | .ringClaim .. => [.ringClaimArrive]
  | .ringAns .. => [.ringClaimAnswer]
  | .ringData .. => [.ringPushData]
  | .fwdData .. => [.forwardDataArrive]
  | .fwdAck .. => [.forwardAck]
  | .amo .. | .farRead .. => [.amoAtHome]
  | .amoAns .. | .nexttAns .. | .farAns .. => [.amoReply]
  | .nextt .. => [.nexttAtHome]
  | .access .. | .copyTake .. | .copyGive .. => [.remoteAccessArrive]
  | .loadAns .. => [.remoteLoadReply]
  | .storeAck .. => [.storeAck]
  | .watchNote .. => [.watchNotify]
  | .wake .. => [.wakeRetry, .wakeKill, .wakeAbandon]
  | .capture .. => [.captureStartPacket, .captureStopPacket]
  | .hostAccess .. => [.hostMemAccess]
  | .trace .. | .contribution .. => []
  | .raw .. => [.rawDiscover, .rawReport, .rawImage, .rawStart, .rawData]
  | .rawAns .. => [.rawData]
  | .refusal .. => [.aperture3Refusal]

/-- The events of packet `n`: one for another package only leaves, unless its lease has lapsed (R290). -/
def packetEvents (n : Nat) (pk : Packet) : List Event :=
  let is := if 65536 ≤ pk.dst then [Instr.lapseReject]
    else pk.body.events ++ (if pk.body.homeReq.isSome then [Instr.lapseReject, Instr.lendRequest] else [])
  is.map fun i => (i, { n := n, k := if i == .hostMemAccess then 1 else 0 })

/-- The walks of a core's processes that have begun (R285, R287). -/
def State.walkEvents (s : State) (c : Nat) (co : Core) : List Event :=
  (List.range (16 + co.parked.length)).filterMap fun k =>
    match co.walkAt k with
    | some (p, _, va, _, _) =>
      if ((s.walkOf (clusterOf c) p.ctx.toNat va).bind (·.run)).isSome then some (Instr.walkComplete, { c := c, k := k }) else none
    | none => none

/-- The events of a core that take an unstated time. -/
def Core.freeEvents (co : Core) (c : Nat) : List Event :=
  let e : Ev := { c := c }
  co.rings.flatMap (fun r =>
        (if r.2.queue.isEmpty then [] else [(Instr.ringClaimGrant, { c := c, n := r.1 })])
          ++ (if r.2.dir == 0 && !r.2.lost && r.2.credit.isNone then [] else
                [(Instr.forwardCreditGrant, { c := c, n := r.1 }), (Instr.forwardSend, { c := c, n := r.1 }),
                 (Instr.forwardFailure, { c := c, n := r.1 })]))
    ++ co.combine.map (fun g => (Instr.combineSequence, { c := c, n := g.1 }))
    ++ (if co.trace.isEmpty then [] else [(Instr.traceDrain, e)])
    ++ (if co.copies.isEmpty then [] else [(Instr.copyUnitSend, e)])
    ++ co.memops.flatMap (fun m => [(Instr.hloadLineArrive, { c := c, n := m.id }), (Instr.hstoreLineDone, { c := c, n := m.id }),
        (Instr.memcoreOpComplete, { c := c, n := m.id })])
    ++ (if co.jobs.isEmpty then [] else [(Instr.coreSave, e), (Instr.coreRestore, e)])
    ++ (List.range co.faults.length).map fun f => (Instr.faultRecordSend, { c := c, n := f })

/-- The events of a die that take an unstated time. -/
def State.dieEvents (s : State) (d : Nat) : List Event :=
  ((s.die d).pool.map fun r => (Instr.launchRelease, { n := s.launchId d r.1 r.2 }))
    ++ ((s.die d).salvages.map fun v => (Instr.fenceSalvage, { n := v }))
    ++ (if s.net.any fun p => p.dst == traceUnit d then [(Instr.traceRingWrite, { n := d })] else [])
    ++ [d, 4 + d].flatMap (fun i => if 6 ≤ i || s.copyOf i == s.clock then [] else [(Instr.leaseTick, { n := 64 + 2 ^ i })])
    ++ [d, 4 + d].flatMap fun i => if 6 ≤ i then [] else [(Instr.leaseResync, { n := i })]

/-- The events of the package that take an unstated time: the host interface unit's, the bridges', the lend tables' and the
power-on steps'. What a training measures and whether a step succeeds are the implementation's (log entry 8). -/
def State.packageFree (s : State) : List Event :=
  (List.range s.hostWrites.length).map (fun n => (Instr.hostWritebackDone, { n := n }))
    ++ (if s.events.isEmpty then [] else [(Instr.eventRecordWrite, { n := 0 })])
    ++ ((List.range 16).zip s.rings.toList).flatMap (fun r =>
        if r.2.cur.isSome then
          [Instr.cmdLaunch, .cmdRetire, .cmdCancel, .cmdJcancel, .cmdPsave, .cmdPresume, .cmdEvq, .cmdSummary, .cmdNop].map
            fun i => (i, { n := r.1 })
        else if r.2.w1.getLsbD 32 then [(Instr.commandRingFetch, { n := r.1 })] else [])
    ++ ((List.range 8).zip s.bridges.toList).flatMap (fun b =>
        if b.2.state == 1 then [(Instr.bridgePaused, { n := b.1 })]
        else if 3 ≤ b.2.state then
          [(Instr.bridgeServiceDone, { n := b.1, m := (Config.failingLanes s.now).1, k := (Config.failingLanes s.now).2 })]
        else [])
    ++ (s.lends.filter fun l => l.2.w0.getLsbD 62).map (fun l => (Instr.lendDrainDone, { n := l.1 }))
    ++ (if s.power == 0 then [] else [(Instr.powerStep, { flag := Config.stepReady s.power })])

/-! ### Choice -/

/-- Does an event change the state, so that it can happen now? -/
def State.changes (s : State) (e : Event) : Bool :=
  match exec e.1 { s with ev := e.2 } with
  | .next t => decide (t ≠ { s with ev := e.2 })
  | .fault _ => true
  | .refused _ => false

/-- Does a row of the opcode table stand for an event? -/
def isEvent (i : Instr) : Bool :=
  match i, encodeWord i with
  | .illegalWord _, _ => false
  | _, some _ => false
  | _, none => true

/-- What can happen next. -/
inductive Choice where
  | issue (c k : Nat)
  | event (e : Event)
  /-- What the outside does. -/
  | arrive
  | tick
  deriving DecidableEq, Repr

/-- What must happen in this cycle. -/
def State.musts (s : State) : List Choice :=
  (s.cores.filterMap fun e =>
      if s.mayIssue e.1 then (e.2.nextSlot s.now).map fun k => Choice.issue e.1 k else none)
    ++ (((s.cores.flatMap fun e => s.coreTimed e.1 e.2) ++ s.packageTimed).filter s.changes).map Choice.event

/-- What may happen in this cycle. -/
def State.mays (s : State) : List Choice :=
  ((((List.range s.net.length).zip s.net).flatMap (fun p => packetEvents p.1 p.2)
      ++ (s.cores.flatMap fun e => s.walkEvents e.1 e.2 ++ e.2.freeEvents e.1) ++ ([0, 1, 2, 3].flatMap fun d => s.dieEvents d) ++ s.packageFree).filter
        s.changes).map Choice.event
    ++ (if s.inbox.isEmpty then [] else [Choice.arrive])

/-- The choices of a state: a cycle ends only when nothing must still happen in it. -/
def State.choices (s : State) : List Choice :=
  match s.musts with
  | [] => s.mays ++ [.tick]
  | m => m ++ s.mays

/-! ### The end of a cycle -/

/-- Has the wait of a process ended without an event of its own (R155, R209, R210, R242, R276, R312, R339, R454)? -/
def State.waitOver (s : State) (c : Nat) (parked : Bool) (p : Proc) : Bool :=
  match p.wait with
  | none => false
  | some w => match w.kind with
    | .credit n => p.answer.isSome || (match s.procPort c p n with | some (_, po) => po.credits != 0 || po.state != 3 | none => true)
    | .recv n => (match s.procPort c p n with
        | some (_, po) => po.state == 0 || !po.held.isEmpty
        | none => true)
    | .ring => s.ringReady c p w.instr
    | .gsend g => s.groupReady c g p.uid true
    | .grecv g => p.answer.isSome || s.groupReady c g p.uid false
    | .hdrain => !(s.core c).memops.any fun m => m.uid == p.uid
    | .tbarr => s.barDone c p
    | .replayRoom => decide (p.replay.length < 8)
    | .replayPage g => !p.pageWaits g
    | .storeAck => p.released false
    | .fetchLine ap pa => !s.homeHeld ap pa 4
    | .tileRecv n => parked && (match s.procPort c p n with | some (_, po) => po.state == 0 || !po.queue.isEmpty | none => true)
    | .sackFull => decide (p.sack < 32)
    | .lrecv => !(s.core c).rawq.isEmpty
    | .copyQueue | .copyOwn => parked && s.copyReady c p
    | .memop => parked && s.memReady c p
    | .stage => parked && (s.core c).stageReady p
    | _ => false

/-- The processes whose waits are over: each with whether it is parked. -/
def State.overWaits (s : State) (c : Nat) (co : Core) : List Nat :=
  ((co.procs.filter fun e => (co.slot e.1).state != .suspended && s.waitOver c false e.2).map fun e => e.2.uid)
    ++ (co.parked.filter fun r => !r.susp && !r.ready && s.waitOver c true r.proc).map fun r => r.proc.uid

/-- A stage's network interface asks for credits of output ports on its own account (R198). -/
def State.stageCredits (s : State) (c : Nat) (co : Core) : State :=
  ((co.procs.map (·.2) ++ co.parked.map (·.proc)).filter (·.isStage)).foldl (fun s p =>
    (stageEntries p.header).foldl (fun s e =>
      match (p.ports[stagePort e.2]?).bind fun q => (s.port c q).map fun po => (q, po) with
      | some (q, po) =>
        if stageOut e.2 != 0 && po.state == 3 && decide (po.credits < stageOut e.2) && !po.refused then
          s.askCredit c ((s.core c).slotFor p.uid) p q po 0
        else s
      | none => s) s) s

/-- The processes of a core that wait in an ALT of which a guard on the core's own state has become ready (R216). -/
def State.altsOver (s : State) (c : Nat) (co : Core) : List Nat :=
  ((co.procs.map (·.2) ++ (co.parked.filter fun r : Parked => !r.ready && !r.susp).map (·.proc)).filter fun p =>
    p.inAlt && p.altGuardsOf.any fun g => g.2.1 != 4 && g.2.1 != 7 && s.guardReady c p g).map (·.uid)

/-- The slots and park records of a core whose ALT polls in this cycle. -/
def State.pollsDue (s : State) (co : Core) : List Nat :=
  (List.range (16 + co.parked.length)).filter fun k =>
    match co.procAt k with
    | some p => s.pollDue p (co.sinceAt k)
    | none => false

/-- The counts of a cycle that has ended, for one process (R409); none once a process that a save waits for has stopped (R412). -/
def Proc.countCycle (p : Proc) (now : Nat) (st : SlotState) (parked tile : Bool) : Proc :=
  if p.saving && p.atBoundary then p
  else
    let p := p.count now 1 1
    let p := if !parked && st == .blocked then p.count now 3 1 else p
    let p := if !parked && st == .suspended then p.count now 4 1 else p
    let p := if parked then p.count now 5 1 else p
    if tile then p.count now 7 1 else p

/-- The process whose tile instruction executes. -/
def Core.tileRuns (co : Core) : Option Nat :=
  match co.tileq with
  | op :: _ => if op.till.isSome then some op.uid else none
  | [] => none

/-- The counts of a cycle that has ended, for a core (R385, R408, R409). -/
def Core.countCycle (co : Core) (now : Nat) : Core :=
  let run := co.tileRuns
  let runnable := co.slots.toList.any fun sl => sl.state == .runnable
  let retired := co.issued == now + 1
  let idle := co.lastTick != now + 1 && co.slots.toList.any fun sl => sl.state != .empty
  let slots := co.slots.map fun sl =>
    { sl with proc := sl.proc.map fun p => p.countCycle now sl.state false (run == some p.uid) }
  let parked := co.parked.map fun r => { r with proc := r.proc.countCycle now .blocked true (run == some r.proc.uid) }
  { co with
    slots := slots, parked := parked,
    wdCount := if retired || !runnable then 0 else co.wdCount + 1,
    wdFired := co.wdFired && !retired,
    bubbles := co.bubbles + bit idle, tileBusy := co.tileBusy + bit (run.isSome || co.tileEnd == now + 1) }

/-- Run a list of outcomes one after the other. -/
def Out.each {α : Type} (f : State → α → Out) : List α → State → Out
  | [], s => .next s
  | a :: l, s => (f s a).andThen (Out.each f l)

/-- What a core's network interface and waits do at the end of a cycle. -/
def State.settleCore (s : State) (c : Nat) : Out :=
  let s := (s.overWaits c (s.core c)).foldl (fun s u => s.reissue c u) s
  let s := s.stageCredits c (s.core c)
  let s := (((s.core c).procs.map (·.2) ++ (s.core c).parked.map (·.proc)).filter fun p => p.replay.any (·.go)).foldl
    (fun s p => s.replayGo c p) s
  let o := Out.each (fun s e => (s.altTry c e).getD (.next s)) (s.altsOver c (s.core c)) s
  o.andThen fun s => Out.each (fun s k => exec .watchPoll { s with ev := { c := c, k := k } }) (s.pollsDue (s.core c)) s

/-- The end of a cycle: waits that are over end, what can leave the package leaves, held restart records are placed, and the next cycle
begins. -/
def State.tickOver (s : State) : Out :=
  (Out.each (fun s c => s.settleCore c) (s.cores.map (·.1)) s).andThen fun s =>
    let s := ([0, 1, 2, 3].foldl State.placeHeld s.egress).pruneWalks.holdWaits
    .next { s with cores := s.cores.map (fun e => (e.1, e.2.countCycle s.now)), now := s.now + 1 }

/-! ### One step -/

/-- The outside acts (log entry 5): only a row of the table that stands for an event can come from there. -/
def State.arrive (s : State) : Out :=
  match s.inbox with
  | [] => .next s
  | (i, e) :: rest =>
    let s := { s with inbox := rest, ev := e }
    if isEvent i then exec i s else .next s

/-- Make one choice. -/
def State.take (s : State) (ch : Choice) : Out :=
  match ch with
  | .issue c k => s.issue c k
  | .event e => exec e.1 { s with ev := e.2 }
  | .arrive => s.arrive
  | .tick => s.tickOver

/-- One step: the only choice there is, or one of several (log entry 1). -/
def State.advance (s : State) : Out :=
  match s.choices with
  | [] => .next s
  | [ch] => s.take ch
  | ch :: l =>
    { s with tick := s.tick + 1 }.take (((ch :: l)[Config.pick s.tick % (l.length + 1)]?).getD ch)

end Sys2Proof.Machine
end

