-- ==== Sys2Proof/Machine/Step.lean ====
section
/-! DEFINITION. Sys2Proof/Machine/Step.lean: the step, and the state in which a given word is fetched next. -/

namespace Sys2Proof.Machine

/-- One step of the package (see `Machine/Issue.lean`). -/
def step (s : State) : Host.Outcome State Fault Refusal := s.advance

/-- The header of the process that fetches the word: every resource, privileged, entry at byte 0x40 (R25). -/
def fetchHeader : Vector Word 8 :=
  #v[0x0000000000000040, 0x40401010202002A0, 0x0000000000000108, 0, 0, 0, 0, 0]

/-- The start record of that process (log entry 32). -/
def fetchRecord : Record :=
  { hdr := 0, args := #v[0, 0, 0, 0], exact := false, index := 0, ctx := 0, prio := 0, launch := none, since := 0,
    header := some fetchHeader, exactHdr := none, tol := 0, glim := 0, reserved := false }

/-- The process that fetches the word: its window is the whole user region, and it holds every descriptor and core port that a
process can. -/
def fetchProc (s : State) : Proc :=
  fetchRecord.process fetchHeader s.nextUid 0 0 (s.localAddr 0 0) 0 0x2A000 false (List.range 64) (List.range 16)

/-- `s` with an instruction of `nbits` bits at boot address 0x40 of the corner core of die 0, and a process there whose next
instruction it is (log entry 32). -/
def State.withFetchWord (s : State) (nbits w : Nat) : State :=
  let p := fetchProc s
  let co := (({ Core.reset with bootMem := Mem.put [] 0x40 (leBytes (w % 2 ^ nbits) 4) }).bind p).setSlot 0
    { Slot.reset with state := .runnable, proc := some p, ready := s.now }
  { s.setCore 0 co with nextUid := s.nextUid + 1 }

end Sys2Proof.Machine
end

