-- ==== Sys2Proof/Safety.lean ====
section
/-! DEFINITION. Sys2Proof/Safety.lean: the words in which statements about runs are made: a slot that executes, what an instruction
may change (its frame), and the invariant of the memories. -/

namespace Sys2Proof.Machine

/-- Slot `k` of core `c` executes an instruction of process `p` that no comparator holds up (R187, R398). -/
structure Issuing (s : State) (c k : Nat) (p : Proc) : Prop where
  cur  : s.cur = (c, k)
  proc : s.proc c k = some p
  free : (s.core c).comparator p = none

/-- Every resource that the operands name lies within the header's bounds (R27). -/
def Proc.Holds (p : Proc) (us : List Use) : Prop := p.offending us = []

/-- A register of a process or core that an instruction may write. -/
inductive Reg where
  | x (r : BitVec 5)
  | v (r : BitVec 5)
  | p (r : BitVec 3)
  | e (r : BitVec 3)
  | z (r : BitVec 2)
  | fstat
  | rseed
  deriving DecidableEq, Repr

/-- From process `p` to process `q` only the registers in `ds`, the pc and the bookkeeping of retirement have changed: every other
register, flag and trap register, the window and the resources are as before (R10, R15). -/
structure Proc.Keeps (p q : Proc) (ds : List Reg) : Prop where
  scalars : ∀ r, Reg.x r ∉ ds → q.xr r = p.xr r
  vectors : ∀ r, Reg.v r ∉ ds → q.vr r = p.vr r
  preds   : ∀ r, Reg.p r ∉ ds → q.pr r = p.pr r
  exts    : ∀ r, Reg.e r ∉ ds → q.er r = p.er r
  scales  : ∀ r : BitVec 2, Reg.z r ∉ ds → q.z[r.toNat] = p.z[r.toNat]
  flags   : Reg.fstat ∉ ds → q.fstat = p.fstat
  random  : Reg.rseed ∉ ds → q.rseed = p.rseed
  traps   : q.tpc = p.tpc ∧ q.tcause = p.tcause ∧ q.tval = p.tval ∧ q.inh = p.inh
  own     : q.uid = p.uid ∧ q.record = p.record ∧ q.header = p.header ∧ q.hdrAddr = p.hdrAddr ∧ q.wbase = p.wbase
              ∧ q.wsize = p.wsize ∧ q.ports = p.ports ∧ q.rings = p.rings

/-- No byte of any memory of the package has changed: HBM, host memory and CXL memory, every scratchpad and boot memory. -/
structure State.SameMemory (s t : State) : Prop where
  phys : ∀ ap a, (t.phys ap).read a = (s.phys ap).read a
  spad : ∀ c a, (t.core c).spad.read a = (s.core c).spad.read a
  boot : ∀ c a, (t.core c).bootMem.read a = (s.core c).bootMem.read a

/-- Nothing has changed outside core `c`, and nothing on core `c` but its slot `k`, the note of its last retirement, and the wait-table
entries of process `uid`, which a retirement releases (R120). -/
structure State.SameElsewhere (s t : State) (c k uid : Nat) : Prop where
  others : ∀ d, d ≠ c → t.core d = s.core d
  slots  : ∀ j, j ≠ k → t.slot c j = s.slot c j
  core   : { t.core c with
             slots := (s.core c).slots, issued := (s.core c).issued, waits := (s.core c).waits, waitFree := (s.core c).waitFree } = s.core c
  waits  : (t.core c).waits = (s.core c).waits.filter fun w => w.uid != uid
  rest   : { t with cores := s.cores } = s

/-- The frame of an instruction of process `p` that changes registers `ds` and nothing else: it has retired in its slot, and every
other register, every special register, accumulator and exception register, every byte of memory and every other slot and core is
as before. -/
structure Frame (s t : State) (c k : Nat) (p : Proc) (ds : List Reg) : Prop where
  memory    : s.SameMemory t
  elsewhere : s.SameElsewhere t c k p.uid
  process   : ∃ q, t.proc c k = some q ∧ p.Keeps q ds

/-- The memories of the package are in canonical form (see `Mem.wf`): HBM, host memory and CXL memory. -/
def State.memoryWf (s : State) : Prop := s.hbm.wf = true ∧ s.hostMem.wf = true ∧ s.cxlMem.wf = true

/-- The memories of the cores are in canonical form: every scratchpad and boot memory. -/
def State.coreMemoryWf (s : State) : Prop := ∀ c, (s.core c).spad.wf = true ∧ (s.core c).bootMem.wf = true

/-- Packet `n` has come to its destination, which is not fenced (R389): nothing that must come before it is still on its way, and no
bridge holds it up. -/
structure Arrived (s : State) (n : Nat) (pk : Packet) : Prop where
  here : s.packet n = some pk
  live : s.fenced pk.dst = false

/-! ### Instructions that change only registers of their own process -/

/-- An instruction executes: its slot issues, its operands lie within the bounds, and its guard is true. -/
structure Executes (s : State) (c k : Nat) (p : Proc) (us : List Use) (guard : Bool) : Prop extends Issuing s c k p where
  holds : p.Holds us
  true  : guard = true

/-- What the spec says of an instruction that only writes registers of its process: the operands checked, the guard, the process
with the result, and the registers written. -/
structure Effect where
  uses   : List Use
  guard  : Bool
  after  : Proc
  writes : List Reg

/-- A scalar result in x[D] of an instruction with operands B and A under the guard G. -/
def Proc.put3 (p : Proc) (g : BitVec 4) (b a d : BitVec 5) (w : Word) : Effect :=
  { uses := [ux b, ux a, ux d], guard := p.guardBit g 0, after := p.setX d w, writes := [.x d] }

/-- A scalar result in x[D] of an instruction with operand A. -/
def Proc.put2 (p : Proc) (g : BitVec 4) (a d : BitVec 5) (w : Word) : Effect :=
  { uses := [ux a, ux d], guard := p.guardBit g 0, after := p.setX d w, writes := [.x d] }

/-- A scalar result in x[D] of an instruction without another operand. -/
def Proc.put1 (p : Proc) (g : BitVec 4) (d : BitVec 5) (w : Word) : Effect :=
  { uses := [ux d], guard := p.guardBit g 0, after := p.setX d w, writes := [.x d] }

/-- A predicate result in p[D]. -/
def Proc.putP (p : Proc) (g : BitVec 4) (us : List Use) (d : BitVec 3) (w : Half) : Effect :=
  { uses := us, guard := p.guardBit g 0, after := p.setP d w, writes := [.p d] }

/-- An e-register result. -/
def Proc.putE (p : Proc) (g : BitVec 4) (us : List Use) (e : BitVec 3) (w : Word) : Effect :=
  { uses := us, guard := p.guardBit g 0, after := p.setE e w, writes := [.e e] }

/-- Bits [n + m - 1 : m] of the double-length product of R89. -/
def highProduct (u : BitVec 1) (a b : Word) : Word :=
  if u = 0 then (a.signExtend 128 * b.signExtend 128).extractLsb' 64 64
  else (a.zeroExtend 128 * b.zeroExtend 128).extractLsb' 64 64

/-- Less(a, b, U) (R89). -/
def less (u : BitVec 1) (a b : Word) : Bool := if u = 0 then decide (a.toInt < b.toInt) else decide (a.toNat < b.toNat)

/-- TruncDiv(a, b, U) (R89). -/
def truncDiv (u : BitVec 1) (a b : Word) : Word :=
  if u = 0 then BitVec.ofInt 64 (a.toInt.tdiv b.toInt) else BitVec.ofNat 64 (a.toNat / b.toNat)

/-- The quotient and the remainder of R89. -/
def quotient (u : BitVec 1) (a b : Word) : Word :=
  if b = 0 then 0xFFFFFFFFFFFFFFFF
  else if u = 0 ∧ a = 0x8000000000000000 ∧ b = 0xFFFFFFFFFFFFFFFF then a else truncDiv u a b

@[inherit_doc quotient]
def remainder (u : BitVec 1) (a b : Word) : Word :=
  if b = 0 then a
  else if u = 0 ∧ a = 0x8000000000000000 ∧ b = 0xFFFFFFFFFFFFFFFF then 0 else a - b * truncDiv u a b

/-- SHL, SHR, SHA and ROTL by a count of six bits (R89, R91). -/
def shiftLeft (a : Word) (n : BitVec 6) : Word := a <<< n.toNat
@[inherit_doc shiftLeft] def shiftRight (a : Word) (n : BitVec 6) : Word := a >>> n.toNat
@[inherit_doc shiftLeft] def shiftArith (a : Word) (n : BitVec 6) : Word := a.sshiftRight n.toNat
@[inherit_doc shiftLeft] def rotateLeft (a : Word) (n : BitVec 6) : Word :=
  if n = 0 then a else a <<< n.toNat ||| a >>> (64 - n.toNat)

/-- The count in b[5:0] (R89). -/
def count6 (b : Word) : BitVec 6 := b.extractLsb' 0 6

/-- The second operand of format F-I (R90). -/
def Proc.operandI (p : Proc) (e : BitVec 1) (k : BitVec 10) : Word :=
  if e = 1 then p.er (k.extractLsb' 0 3) else k.signExtend 64

/-- The arithmetic, logic, shift and constant forms of R89 to R92, but for DIV and REM. -/
def arithmetic (p : Proc) : Instr → Option Effect
  | .add g b a d => some (p.put3 g b a d (p.xr a + p.xr b))
  | .sub g b a d => some (p.put3 g b a d (p.xr a - p.xr b))
  | .mul g b a d => some (p.put3 g b a d (p.xr a * p.xr b))
  | .mulh g u b a d => some (p.put3 g b a d (highProduct u (p.xr a) (p.xr b)))
  | .and g b a d => some (p.put3 g b a d (p.xr a &&& p.xr b))
  | .or g b a d => some (p.put3 g b a d (p.xr a ||| p.xr b))
  | .xor g b a d => some (p.put3 g b a d (p.xr a ^^^ p.xr b))
  | .shl g b a d => some (p.put3 g b a d (shiftLeft (p.xr a) (count6 (p.xr b))))
  | .shr g b a d => some (p.put3 g b a d (shiftRight (p.xr a) (count6 (p.xr b))))
  | .sha g b a d => some (p.put3 g b a d (shiftArith (p.xr a) (count6 (p.xr b))))
  | .rotl g b a d => some (p.put3 g b a d (rotateLeft (p.xr a) (count6 (p.xr b))))
  | .min g u b a d => some (p.put3 g b a d (if less u (p.xr a) (p.xr b) then p.xr a else p.xr b))
  | .max g u b a d => some (p.put3 g b a d (if less u (p.xr a) (p.xr b) then p.xr b else p.xr a))
  | .sel g b a d => some { p.put3 g b a d (if p.guardBit g 0 then p.xr a else p.xr b) with guard := true }
  | .addi g e k a d => some (p.put2 g a d (p.xr a + p.operandI e k))
  | .andi g e k a d => some (p.put2 g a d (p.xr a &&& p.operandI e k))
  | .ori g e k a d => some (p.put2 g a d (p.xr a ||| p.operandI e k))
  | .xori g e k a d => some (p.put2 g a d (p.xr a ^^^ p.operandI e k))
  | .shli g n a d => some (p.put2 g a d (shiftLeft (p.xr a) n))
  | .shri g n a d => some (p.put2 g a d (shiftRight (p.xr a) n))
  | .shai g n a d => some (p.put2 g a d (shiftArith (p.xr a) n))
  | .rotli g n a d => some (p.put2 g a d (rotateLeft (p.xr a) n))
  | .li g k d => some (p.put1 g d (k.signExtend 64))
  | .lih g k d => some (p.put1 g d (k.signExtend 64 <<< 16 ||| (p.xr d &&& 0xFFFF)))
  | _ => none

/-- The number of numbers below 64 that pass a test. -/
def countBelow64 (f : Nat → Bool) : Word := BitVec.ofNat 64 ((List.range 64).filter f).length

/-- EXT (R93): the low 2^S bytes, sign-extended (U = 0) or zero-extended. -/
def extended (u : BitVec 1) (n : BitVec 2) (a : Word) : Word :=
  if u = 0 then (a.setWidth (8 * 2 ^ n.toNat)).signExtend 64 else (a.setWidth (8 * 2 ^ n.toNat)).zeroExtend 64

/-- POS, LEN and the mask that they give (R94, R95). -/
def fieldPos (b : Word) : Nat := (b.extractLsb' 0 6).toNat
@[inherit_doc fieldPos] def fieldLen (b : Word) : Nat := min (b.extractLsb' 8 7).toNat (64 - fieldPos b)
@[inherit_doc fieldPos] def fieldMask (b : Word) : Word :=
  if fieldLen b = 64 then 0xFFFFFFFFFFFFFFFF else (1 : Word) <<< fieldLen b - 1

/-- BFX and BFI (R95). -/
def fieldOf (a b : Word) : Word :=
  let f := (a >>> fieldPos b) &&& fieldMask b
  if b.getLsbD 15 ∧ 0 < fieldLen b then (f.setWidth (fieldLen b)).signExtend 64 else f
@[inherit_doc fieldOf] def fieldInto (old a b : Word) : Word :=
  (old &&& ~~~(fieldMask b <<< fieldPos b)) ||| ((a &&& fieldMask b) <<< fieldPos b)

/-- Counting, extension, bit fields and MOV between x registers (R93 to R96). -/
def bitwork (p : Proc) : Instr → Option Effect
  | .clz g a d => some (p.put2 g a d (countBelow64 fun i => decide ((p.xr a).toNat < 2 ^ i)))
  | .ctz g a d => some (p.put2 g a d (countBelow64 fun i => decide ((p.xr a).toNat % 2 ^ (i + 1) = 0)))
  | .popc g a d => some (p.put2 g a d (countBelow64 fun i => (p.xr a).getLsbD i))
  | .ext g u n a d => some (p.put2 g a d (extended u n (p.xr a)))
  | .bfx g b a d => some (p.put3 g b a d (fieldOf (p.xr a) (p.xr b)))
  | .bfi g b a d => some (p.put3 g b a d (fieldInto (p.xr d) (p.xr a) (p.xr b)))
  | .mov g a d => some (p.put2 g a d (p.xr a))
  | _ => none

/-- Compare(a, b, COND, U) of R99 with the conditions of R48, as the predicate written. -/
def compared (u : BitVec 1) (cond : BitVec 3) (a b : Word) : Half :=
  let c := match cond.toNat with
    | 0 => decide (a = b)
    | 1 => decide (a ≠ b)
    | 2 => less u a b
    | 3 => !less u a b
    | 4 => !less u b a
    | _ => less u b a
  if c then 0xFFFFFFFF else 0

/-- CMP, CMPI and the predicate forms (R99 to R101). -/
def predicates (p : Proc) : Instr → Option Effect
  | .cmp g u cond b a d => some (p.putP g [ux b, ux a] d (compared u cond (p.xr a) (p.xr b)))
  | .cmpi g u cond k a d =>
    some (p.putP g [ux a] d (compared u cond (p.xr a) (if u = 0 then k.signExtend 64 else k.zeroExtend 64)))
  | .pand g b a d => some (p.putP g [] d (p.pr a &&& p.pr b))
  | .por g b a d => some (p.putP g [] d (p.pr a ||| p.pr b))
  | .pxor g b a d => some (p.putP g [] d (p.pr a ^^^ p.pr b))
  | .pnot g a d => some (p.putP g [] d (~~~p.pr a))
  | .pmovx g a d => some (p.put1 g d ((p.pr a).zeroExtend 64))
  | .pmovp g a d => some (p.putP g [ux a] d ((p.xr a).extractLsb' 0 32))
  | _ => none

/-- The extension-register forms (R105, R106). -/
def extensions (p : Proc) : Instr → Option Effect
  | .exti g k cat e => some (p.putE g [] e (if cat = 0 then k.signExtend 64 else (p.er e <<< 16) ||| k.zeroExtend 64))
  | .extx g a e => some (p.putE g [ux a] e (p.xr a))
  | .extg g k a e => some (p.putE g [ux a] e ((k.zeroExtend 64 <<< 57) ||| ((p.xr a).extractLsb' 0 57).zeroExtend 64))
  | .extl g k a e => some (p.putE g [ux a] e (p.er e ||| (p.xr a <<< k.toNat)))
  | .exts g k a e => some (p.putE g [ux a] e (p.xr a + k.signExtend 64))
  | _ => none

/-- A compact register field as a register number (R56). -/
def wide (r : BitVec 4) : BitVec 5 := r.zeroExtend 5

/-- The compact forms of register instructions, as the instructions of R56's last column. -/
def compacts (p : Proc) : Instr → Option Effect
  | .cNop => some { uses := [], guard := true, after := p, writes := [] }
  | .cMov a d => bitwork p (.mov 0 (wide a) (wide d))
  | .cAdd a d => arithmetic p (.add 0 (wide a) (wide d) (wide d))
  | .cAddi k d => arithmetic p (.addi 0 0 (k.signExtend 10) (wide d) (wide d))
  | .cSub a d => arithmetic p (.sub 0 (wide a) (wide d) (wide d))
  | .cAnd a d => arithmetic p (.and 0 (wide a) (wide d) (wide d))
  | .cOr a d => arithmetic p (.or 0 (wide a) (wide d) (wide d))
  | .cXor a d => arithmetic p (.xor 0 (wide a) (wide d) (wide d))
  | .cShli n d => arithmetic p (.shli 0 n (wide d) (wide d))
  | .cLi k d => arithmetic p (.li 0 (k.signExtend 16) (wide d))
  | _ => none

/-- Every register-only scalar instruction. -/
def scalar (p : Proc) (i : Instr) : Option Effect :=
  arithmetic p i <|> bitwork p i <|> predicates p i <|> extensions p i <|> compacts p i

/-- Where an instruction transfers control (R103, R56): the operands checked, the guard, the link register and the target. -/
def transferOf (p : Proc) : Instr → Option (List Use × Bool × Option (BitVec 5) × Word)
  | .br g n k => some ([], p.guardBit g n.toNat, none, p.pc + k.signExtend 64 * 2)
  | .j g k => some ([], p.guardBit g 0, none, p.pc + k.signExtend 64 * 2)
  | .jal g k d => some ([ux d], p.guardBit g 0, some d, p.pc + k.signExtend 64 * 2)
  | .jr g a => some ([ux a], p.guardBit g 0, none, p.xr a)
  | .jalr g a d => some ([ux a, ux d], p.guardBit g 0, some d, p.xr a)
  | .cBr k n q => some ([], p.guardBit (n ++ q) 0, none, p.pc + k.signExtend 64 * 2)
  | .cJ k => some ([], true, none, p.pc + k.signExtend 64 * 2)
  | _ => none

/-- The process with the link register written (R103). -/
def Proc.linked (p : Proc) : Option (BitVec 5) → Proc
  | some d => p.setX d (p.pc + 4)
  | none => p

/-! ### Guards and privilege -/

/-- The value of an instruction's guard (R39, R41): one test, or whether any lane of its width is active. SEL and VSEL read theirs as
a selector (R42), and C.NOP and C.J and the other compact forms but C.BR have none (R57). -/
def guardOf (p : Proc) : Instr → Option Bool
  | .add g _ _ _ | .sub g _ _ _ | .mul g _ _ _ | .mulh g _ _ _ _ | .div g _ _ _ _ | .rem g _ _ _ _ | .and g _ _ _
  | .or g _ _ _ | .xor g _ _ _ | .shl g _ _ _ | .shr g _ _ _ | .sha g _ _ _ | .rotl g _ _ _ | .min g _ _ _ _
  | .max g _ _ _ _ | .addi g _ _ _ _ | .andi g _ _ _ _ | .ori g _ _ _ _ | .xori g _ _ _ _ | .shli g _ _ _ | .shri g _ _ _
  | .shai g _ _ _ | .rotli g _ _ _ | .clz g _ _ | .ctz g _ _ | .popc g _ _ | .ext g _ _ _ _ | .bfx g _ _ _ | .bfi g _ _ _
  | .mov g _ _ | .movToY g _ _ | .movFromY g _ _ | .li g _ _ | .lih g _ _ | .cmp g _ _ _ _ _ | .cmpi g _ _ _ _ _
  | .pand g _ _ _ | .por g _ _ _ | .pxor g _ _ _ | .pnot g _ _ | .pmovx g _ _ | .pmovp g _ _ | .j g _ | .jal g _ _ | .jr g _
  | .jalr g _ _ | .trap g _ | .bkpt g _ | .tret g _ | .exti g _ _ _ | .extx g _ _ | .extg g _ _ _ | .extl g _ _ _
  | .exts g _ _ _ | .srd g _ _ | .swr g _ _ | .evt g _ _ | .iflush g | .fencecFence g _ | .fencecAbandon g _ | .cmapw g _
  | .preemptSave g _ | .preemptResume g _ | .capstart g _ | .capstop g _ _ | .trcmark g _ _ _ | .lsend g _ _ _
  | .lrecv g _ _ | .ld g _ _ _ _ _ | .st g _ _ _ _ _ | .ldf g _ _ _ _ _ | .stf g _ _ _ _ | .sete g _ _ | .setf g _ _
  | .gstate g _ _ _ | .amoLoad g _ _ _ _ | .amoStore g _ _ _ _ | .amoSwap g _ _ _ _ _ | .cas g _ _ _ _ _
  | .amoAdd g _ _ _ _ _ | .amoAnd g _ _ _ _ _ | .amoOr g _ _ _ _ _ | .amoXor g _ _ _ _ _ | .amoMinSigned g _ _ _ _ _
  | .amoMaxSigned g _ _ _ _ _ | .amoMinUnsigned g _ _ _ _ _ | .amoMaxUnsigned g _ _ _ _ _ | .amoFadd g _ _ _ _ _
  | .amoFmin g _ _ _ _ _ | .amoFmax g _ _ _ _ _ | .fenceRel g _ | .fenceAcq g _ | .fenceAr g _ | .rinit g _ _
  | .radvHead g _ _ | .radvTail g _ _ | .rwaitHead g _ _ _ | .rwaitTail g _ _ _ | .rstat g _ _ | .tmma g _ _ _ _
  | .tmmx g _ _ _ _ | .tzero g _ | .tloada g _ _ _ | .tstore g _ _ _ _ | .ttrn g _ _ _ | .tscl g _ _ | .slab g _ _
  | .spawn g _ _ | .quit g | .commit g | .yield g | .prio g _ | .chopen g _ _ _ _ | .chbind g _ _ _ _ | .chclose g _ _ _
  | .chstat g _ _ _ | .wrel g _ _ _ | .send g _ _ _ _ | .recv g _ _ _ _ | .sendv g _ _ _ _ | .recvv g _ _ _ _
  | .sendt g _ _ _ _ | .recvt g _ _ _ _ | .alt g _ _ | .launch g _ _ _ | .lwait g _ _ _ _ | .lcancel g _ _ _
  | .ldep g _ _ _ _ | .graphOpen g _ _ _ | .graphClose g _ _ _ | .jcancel g _ _ _ | .nextt g _ _ _ _
  | .gsendScalar g _ _ _ _ | .gsendVector g _ _ _ _ | .grecvScalar g _ _ _ _ | .grecvVector g _ _ _ _ | .gcfg g _ _
  | .gcfgPort g _ _ | .dsend g _ _ _ _ | .dstat g _ _ _ | .copy g _ _ | .copya g _ _ _ _ | .cstat g _ _ _
  | .ctradd g _ _ _ _ | .ctrset g _ _ _ _ _ | .tbexp g _ _ _ _ | .tbarr g _ _ _ | .proof g _ | .pverd g _ | .hload g _ _ _
  | .hstore g _ _ _ | .hpush g _ _ _ | .hdrain g _ | .tlbp g _ _ _ => some (p.guardBit g 0)
  | .br g n _ => some (p.guardBit g n.toNat)
  | .cBr _ n q => some (p.guardBit (n ++ q) 0)
  | .ldv g _ _ _ | .stv g _ _ _ _ | .vmxq g _ _ _ _ _ | .vmxd g _ _ _ _ => some (p.anyActive g 8)
  | .vadd g t _ _ _ | .vsub g t _ _ _ | .vmul g t _ _ _ | .vdiv g t _ _ _ | .vfma g t _ _ _ | .vfms g t _ _ _
  | .vfnma g t _ _ _ | .vmin g t _ _ _ | .vmax g t _ _ _ | .vneg g t _ _ | .vabs g t _ _ | .vsqrt g t _ _ _ | .vrcpa g t _ _
  | .vrsqa g t _ _ | .vexpa g t _ _ | .vloga g t _ _ | .vrint g t _ _ _ => some (p.anyActive g (ftFmt t.toNat).width)
  | .ldvx g w _ _ _ | .stvx g w _ _ _ | .viadd g w _ _ _ | .visub g w _ _ _ | .vimul g w _ _ _ | .viminI g w _ _ _
  | .viminN g w _ _ _ | .vimaxI g w _ _ _ | .vimaxN g w _ _ _ | .viaddsI g w _ _ _ | .viaddsN g w _ _ _ | .vand g w _ _ _
  | .vor g w _ _ _ | .vxor g w _ _ _ | .vshl g w _ _ _ | .vshrN g w _ _ _ | .vshrI g w _ _ _ | .vdup g w _ _
  | .viota g w _ _ | .vperm g w _ _ _ | .vlut g w _ _ _ | .vcmp g _ w _ _ _ _ => some (p.anyActive g (wBits w.toNat))
  | .vreds g t _ _ | .vredm g t _ _ _ | .vdot g t _ _ _ | .vscan g t _ _ | .vsort g _ _ t _ _ _ => some (p.anyActive g (tcBits t.toNat))
  | .vcvt g _ t sx _ _ => some (p.anyActive g (max (tcBits sx.toNat) (tcBits t.toNat)))
  | .vget g w j _ _ | .vins g w j _ _ => some (p.active g (wBits w.toNat) j.toNat)
  | _ => none

/-- Length in bytes of an instruction: 2 of the compact forms, 4 of the others (R36). -/
def size : Instr → Word
  | .cNop | .cMov _ _ | .cAdd _ _ | .cAddi _ _ | .cSub _ _ | .cAnd _ _ | .cOr _ _ | .cXor _ _ | .cShli _ _ | .cLi _ _
  | .cLd _ _ _ | .cSt _ _ _ | .cBr _ _ _ | .cJ _ | .cSend _ _ | .cRecv _ _ => 2
  | _ => 4

/-- The assigned system registers (R15). -/
inductive SysReg where
  | fstat | rseed | tpc | tcause | tval | tstat | self | hdraddr | winbase | winsize | cycle | retired
  | parkwait | wdcycles | dlwindow | wtovf
  deriving DecidableEq, Repr

@[inherit_doc SysReg]
def SysReg.number : SysReg → BitVec 12
  | .fstat => 0x000 | .rseed => 0x001 | .tpc => 0x010 | .tcause => 0x011 | .tval => 0x012 | .tstat => 0x013
  | .self => 0x020 | .hdraddr => 0x021 | .winbase => 0x022 | .winsize => 0x023 | .cycle => 0x030 | .retired => 0x031
  | .parkwait => 0x100 | .wdcycles => 0x101 | .dlwindow => 0x102 | .wtovf => 0x103

@[inherit_doc SysReg]
def SysReg.privileged : SysReg → Bool
  | .parkwait | .wdcycles | .dlwindow | .wtovf => true
  | _ => false

/-- The value of a system register, laid out as R16 to R20 give it. -/
def State.systemValue (s : State) (c k : Nat) (p : Proc) : SysReg → Word
  | .fstat => p.fstat
  | .rseed => p.rseed.zeroExtend 64
  | .tpc => p.tpc
  | .tcause => p.tcause
  | .tval => p.tval
  | .tstat => if p.inh then 1 else 0
  | .self => 0#17 ++ BitVec.ofNat 4 k ++ p.gen ++ p.ctx ++ s.pkgid ++ p.vcore
  | .hdraddr => p.hdrAddr
  | .winbase =>
    (1#1 ++ 0#1 ++ s.pkgid ++ p.vcore.extractLsb' 6 7 ++ 0#1 ++ p.vcore.extractLsb' 0 6 ++ 0#38) + BitVec.ofNat 64 p.wbase
  | .winsize => BitVec.ofNat 64 p.wsize
  | .cycle => BitVec.ofNat 64 (s.now - (s.core c).resetAt)
  | .retired => p.retired
  | .parkwait => (s.core c).parkwait.zeroExtend 64
  | .wdcycles => (s.core c).wdcycles.zeroExtend 64
  | .dlwindow => (s.core c).dlwindow.zeroExtend 64
  | .wtovf => (s.core c).wtovf.zeroExtend 64

/-- A process after a write to a system register of process scope: W1C flags and FTZ of FSTAT, a nonzero RSEED, TPC, TCAUSE and
TVAL whole, and TSTAT.INH; the others are read-only (R16, R18, R19, R108). -/
def Proc.systemWritten (p : Proc) (r : SysReg) (w : Word) : Proc :=
  match r with
  | .fstat => { p with fstat := (p.fstat &&& 0x7F &&& ~~~w) ||| (w &&& 0x10000) }
  | .rseed => { p with rseed := if w.extractLsb' 0 32 = 0 then 1 else w.extractLsb' 0 32 }
  | .tpc => { p with tpc := w }
  | .tcause => { p with tcause := w }
  | .tval => { p with tval := w }
  | .tstat => { p with inh := w.getLsbD 0 }
  | _ => p

/-- A core after a write to a system register of core scope in cycle `now` (R20): a limit that is replaced holds until the cycle ends
(R108). -/
def Core.systemWritten (co : Core) (now : Nat) (r : SysReg) (w : Word) : Core :=
  match r with
  | .parkwait => { co.keepLimits now with parkwait := w.extractLsb' 0 32 }
  | .wdcycles => { co.keepLimits now with wdcycles := w.extractLsb' 0 32 }
  | .dlwindow => { co.keepLimits now with dlwindow := w.extractLsb' 0 32 }
  | .wtovf => if w.getLsbD 0 then { co with wtovf := 0 } else co
  | _ => co

/-- The privileged forms on core `c` (R55, R15): FENCEC, CMAPW and PREEMPT with a legal X, LSEND, LRECV, JCANCEL, TLBP on a memory
core, and SRD and SWR of a privileged register. -/
def needsPrivilege (c : Nat) : Instr → Bool
  | .fencecFence _ x | .fencecAbandon _ x | .cmapw _ x | .preemptSave _ x | .preemptResume _ x => x != 0
  | .lsend _ _ _ _ | .lrecv _ _ _ | .jcancel _ _ _ _ => true
  | .tlbp _ _ _ _ => isMemCore c
  | .srd _ n _ | .swr _ n _ => [0x100, 0x101, 0x102, 0x103].contains n
  | _ => false

/-- The guard of TRAP and BKPT, and their cause and value (R104). -/
def trapOf (p : Proc) : Instr → Bool × Option (Nat × Word)
  | .trap g n => (p.guardBit g 0, some (0x10 + n.toNat, n.zeroExtend 64))
  | .bkpt g n => (p.guardBit g 0, some (0x20, n.zeroExtend 64))
  | _ => (false, none)

/-- DIV and REM: guard, operands and result (R89). -/
def divisionOf (p : Proc) : Instr → Option (BitVec 4 × BitVec 5 × BitVec 5 × BitVec 5 × Word)
  | .div g u b a d => some (g, b, a, d, quotient u (p.xr a) (p.xr b))
  | .rem g u b a d => some (g, b, a, d, remainder u (p.xr a) (p.xr b))
  | _ => none

/-! ### Waiting instructions -/

/-- The process in slot `k` of core `c` waits in instruction `i` for what `w` names, and is not to end (R185, R234). -/
structure Waits (s : State) (c k : Nat) (p : Proc) (i : Instr) (w : WaitKind) : Prop where
  proc  : s.proc c k = some p
  slot  : (s.core c).slotOf p.uid = some k
  found : (s.core c).find p.uid = some p
  wait  : p.wait = some { instr := i, kind := w }
  alive : p.dying = 0
  held  : (s.slot c k).state = .blocked

/-- Slot `k` of core `c` rejoins the issue rotation in the next cycle (R187). -/
def State.rejoin (s : State) (c k : Nat) : State :=
  s.modCore c fun co => co.setSlot k ((co.slot k).wake co.halted s.now)

/-- The step makes choice `ch` in state `t`: the only one, or the one that the free order picks (log entry 1). -/
inductive Chooses (s : State) : State → Choice → Prop where
  | only (ch) : s.choices = [ch] → Chooses s s ch
  | pick (ch) : 2 ≤ s.choices.length → s.choices[Config.pick s.tick % s.choices.length]? = some ch →
      Chooses s { s with tick := s.tick + 1 } ch

/-! ### Scratchpad accesses -/

/-- The number that bytes spell, lowest first, as a word (R36, R113). -/
def wordOf (bs : List Byte) : Word := BitVec.ofNat 64 (ofLe bs)

/-- A load of R113: operands, guard, effective address, size, and the process with the data. -/
def scalarLoad (p : Proc) : Instr → Option (List Use × Bool × Word × Nat × (List Byte → Proc) × BitVec 5)
  | .ld g u n k a d =>
    some ([ux a, ux d], p.guardBit g 0, p.xr a + k.signExtend 64 * BitVec.ofNat 64 (2 ^ n.toNat), 2 ^ n.toNat,
      fun bs => p.setX d (extended u n (wordOf bs)), d)
  | .cLd j a d => some ([ux (wide a), ux (wide d)], true, p.xr (wide a) + j.zeroExtend 64 * 8, 8, fun bs => p.setX (wide d) (wordOf bs), wide d)
  | _ => none

/-- A store of R113 and R114: operands, guard, effective address, data, byte mask, and whether it is a release. -/
def storeOf (p : Proc) : Instr → Option (List Use × Bool × Word × List Byte × (Nat → Bool) × Bool)
  | .st g n o k a d =>
    some ([ux a, ux d], p.guardBit g 0, p.xr a + k.signExtend 64 * BitVec.ofNat 64 (2 ^ n.toNat),
      leBytes (p.xr d).toNat (2 ^ n.toNat), fun _ => true, o == 1)
  | .cSt j a d =>
    some ([ux (wide a), ux (wide d)], true, p.xr (wide a) + j.zeroExtend 64 * 8, leBytes (p.xr (wide d)).toNat 8, fun _ => true, false)
  | .stv g o k a d =>
    some ([ux a, uv d], p.anyActive g 8, p.xr a + k.signExtend 64 * 32, leBytes (p.vr d).toNat 32, fun b => p.active g 8 b, o == 1)
  | _ => none

/-- From `s` to `t` the bytes [off, off + n) of core `c`'s scratchpad have become those that `new` gives, where it gives one, and
slot `k` has retired; nothing else has changed, the full bits of the core's granules included. -/
structure Stores (s t : State) (c k : Nat) (p : Proc) (off n : Nat) (new : Nat → Option Byte) : Prop where
  bytes   : ∀ a, (t.core c).spad.read a =
              if off ≤ a ∧ a < off + n then (new (a - off)).getD ((s.core c).spad.read a)
              else (s.core c).spad.read a
  phys    : ∀ ap a, (t.phys ap).read a = (s.phys ap).read a
  others  : ∀ d, d ≠ c → t.core d = s.core d
  slots   : ∀ j, j ≠ k → t.slot c j = s.slot c j
  core    : { t.core c with
              slots := (s.core c).slots, issued := (s.core c).issued, spad := (s.core c).spad, waits := (s.core c).waits,
              waitFree := (s.core c).waitFree } = s.core c
  waits   : (t.core c).waits = (s.core c).waits.filter fun w => w.uid != p.uid
  rest    : { t with cores := s.cores } = s
  process : ∃ q, t.proc c k = some q ∧ p.Keeps q []

/-- The address of lane `i` of a gather or scatter (R115). -/
def laneAddr (p : Proc) (w : Nat) (a b : BitVec 5) (i : Nat) : Word :=
  p.xr a + (((p.vr b).extractLsb' (w * i) w).signExtend 64) * BitVec.ofNat 64 (w / 8)

/-- The granule that a full/empty operation names: operands, guard and effective address (R116). -/
def granuleOf (p : Proc) : Instr → Option (List Use × Bool × Word)
  | .ldf g _ _ k a d | .stf g _ k a d => some ([ux a, ux d], p.guardBit g 0, p.xr a + k.signExtend 64 * 16)
  | .gstate g k a d => some ([ux a, ux d], p.guardBit g 0, p.xr a + k.signExtend 64 * 16)
  | .sete g k a | .setf g k a => some ([ux a], p.guardBit g 0, p.xr a + k.signExtend 64 * 16)
  | _ => none

/-- What an LDF or STF that waits takes: the wait-table entry that has been free longest (R119). -/
def Core.takeEntry (co : Core) (kind : Nat) (clr : Bool) (uid g now pl : Nat) (rest : List Nat) (a : Access) : Core :=
  { co with
    waitFree := rest
    waits := co.waits ++ [{ kind := kind, clr := clr, uid := uid, granule := g, since := now, place := pl, access := some a }] }

/-- The full/empty operations that are releases (R117, R303): LDF.clr and STF. -/
def releasesGranule : Instr → Bool
  | .ldf _ _ cl _ _ _ => cl == 1
  | .stf _ _ _ _ _ => true
  | _ => false

/-! ### Atomics -/

/-- An AMO or CAS of R309: OP, WD, REL, address, value, expected value, operands and destination. -/
structure Atomic where
  op   : Nat
  wide : Bool
  rel  : Bool
  addr : Word
  v    : Word
  c    : Word
  uses : List Use
  dest : BitVec 5

/-- A form with a value and a destination. -/
def Proc.atomic (p : Proc) (op : Nat) (r w : BitVec 1) (b a d : BitVec 5) : Atomic :=
  { op := op, wide := w == 1, rel := r == 1, addr := p.xr a, v := p.xr b, c := p.xr d, uses := [ux a, ux b, ux d], dest := d }

@[inherit_doc Atomic]
def atomicOf (p : Proc) : Instr → Option (BitVec 4 × Atomic)
  | .amoLoad g r w a d => some (g, { p.atomic 0 r w 0 a d with uses := [ux a, ux d] })
  | .amoSwap g r w b a d => some (g, p.atomic 2 r w b a d)
  | .cas g r w b a d => some (g, p.atomic 3 r w b a d)
  | .amoAdd g r w b a d => some (g, p.atomic 4 r w b a d)
  | .amoAnd g r w b a d => some (g, p.atomic 5 r w b a d)
  | .amoOr g r w b a d => some (g, p.atomic 6 r w b a d)
  | .amoXor g r w b a d => some (g, p.atomic 7 r w b a d)
  | .amoMinSigned g r w b a d => some (g, p.atomic 8 r w b a d)
  | .amoMaxSigned g r w b a d => some (g, p.atomic 9 r w b a d)
  | .amoMinUnsigned g r w b a d => some (g, p.atomic 10 r w b a d)
  | .amoMaxUnsigned g r w b a d => some (g, p.atomic 11 r w b a d)
  | .amoFadd g r w b a d => some (g, p.atomic 12 r w b a d)
  | .amoFmin g r w b a d => some (g, p.atomic 13 r w b a d)
  | .amoFmax g r w b a d => some (g, p.atomic 14 r w b a d)
  | _ => none

/-- Bytes of an operation (R310). -/
def Atomic.bytes (m : Atomic) : Nat := if m.wide then 8 else 4

/-- What the step at the home writes, none when it writes nothing, from n-byte values (R310). -/
def atomicWrites (op n old v c : Nat) : Option Nat :=
  let f := if n = 8 then f64 else f32
  let int := fun x : Nat => (BitVec.ofNat (8 * n) x).toInt
  match op with
  | 0 => none
  | 1 => some v
  | 2 => some v
  | 3 => if old = c then some v else none
  | 4 => some ((old + v) % 2 ^ (8 * n))
  | 5 => some (old &&& v)
  | 6 => some (old ||| v)
  | 7 => some (old ^^^ v)
  | 8 => some (if int v < int old then v else old)
  | 9 => some (if int old < int v then v else old)
  | 10 => some (if v < old then v else old)
  | 11 => some (if old < v then v else old)
  | 12 => some (f.add 0 old v Fp.none).1
  | 13 => some (f.minMax false old v Fp.none).1
  | _ => some (f.minMax true old v Fp.none).1

/-- The need of an atomic (R284). -/
def Atomic.need (m : Atomic) : Nat := if m.op = 0 then needR else needRmw

/-! ### Vector instructions -/

/-- Lane `j` of width `w` of a vector register (R11). -/
def laneOf (v : VReg) (w j : Nat) : BitVec w := v.extractLsb' (w * j) w

/-- A lane-wise integer instruction: the guard's G, the operands, the destination, the width, and the value of an active lane. -/
structure Lanes where
  g    : BitVec 4
  uses : List Use
  dest : BitVec 5
  w    : Nat
  f    : Nat → BitVec w

/-- SatS and SatU of R66 as w-bit patterns. -/
def saturatedS (w : Nat) (v : Int) : BitVec w := BitVec.ofInt w (min (max v (-(2 ^ (w - 1) : Nat))) ((2 ^ (w - 1) : Nat) - 1))
@[inherit_doc saturatedS] def saturatedU (w : Nat) (v : Int) : BitVec w := BitVec.ofInt w (min (max v 0) ((2 ^ w : Nat) - 1))

/-- A form of R134 on the lanes of v[A] and v[B]. -/
def Proc.lanes2 (p : Proc) (g : BitVec 4) (n : BitVec 2) (b a d : BitVec 5) (f : (w : Nat) → BitVec w → BitVec w → BitVec w) : Lanes :=
  { g := g, uses := [uv d, uv b, uv a], dest := d, w := wBits n.toNat,
    f := fun j => f (wBits n.toNat) (laneOf (p.vr a) (wBits n.toNat) j) (laneOf (p.vr b) (wBits n.toNat) j) }

/-- The integer and logic forms (R134), VDUP, VIOTA and VPERM (R138), and VLUT (R139). -/
def integerLanes (p : Proc) : Instr → Option Lanes
  | .viadd g n b a d => some (p.lanes2 g n b a d fun _ x y => x + y)
  | .visub g n b a d => some (p.lanes2 g n b a d fun _ x y => x - y)
  | .vimul g n b a d => some (p.lanes2 g n b a d fun _ x y => x * y)
  | .viminI g n b a d => some (p.lanes2 g n b a d fun _ x y => if y.slt x then y else x)
  | .viminN g n b a d => some (p.lanes2 g n b a d fun _ x y => if y.ult x then y else x)
  | .vimaxI g n b a d => some (p.lanes2 g n b a d fun _ x y => if x.slt y then y else x)
  | .vimaxN g n b a d => some (p.lanes2 g n b a d fun _ x y => if x.ult y then y else x)
  | .viaddsI g n b a d => some (p.lanes2 g n b a d fun w x y => saturatedS w (x.toInt + y.toInt))
  | .viaddsN g n b a d => some (p.lanes2 g n b a d fun w x y => saturatedU w ((x.toNat : Int) + y.toNat))
  | .vand g n b a d => some (p.lanes2 g n b a d fun _ x y => x &&& y)
  | .vor g n b a d => some (p.lanes2 g n b a d fun _ x y => x ||| y)
  | .vxor g n b a d => some (p.lanes2 g n b a d fun _ x y => x ^^^ y)
  | .vshl g n b a d => some (p.lanes2 g n b a d fun w x y => x <<< (y.toNat % w))
  | .vshrN g n b a d => some (p.lanes2 g n b a d fun w x y => x >>> (y.toNat % w))
  | .vshrI g n b a d => some (p.lanes2 g n b a d fun w x y => x.sshiftRight (y.toNat % w))
  | .vdup g n a d =>
    some { g := g, uses := [uv d, ux a], dest := d, w := wBits n.toNat, f := fun _ => (p.xr a).setWidth _ }
  | .viota g n a d =>
    some { g := g, uses := [uv d, ux a], dest := d, w := wBits n.toNat, f := fun j => (p.xr a).setWidth _ + BitVec.ofNat _ j }
  | .vperm g n b a d =>
    some (p.lanes2 g n b a d fun w _ y => if y.toNat < 256 / w then laneOf (p.vr a) w y.toNat else 0)
  | .vlut g n b a d =>
    some { g := g, uses := uv b :: uv d :: (List.range 8).map fun m => (1, a.toNat + m), dest := d, w := wBits n.toNat,
           f := fun j =>
             let i := (laneOf (p.vr b) (wBits n.toNat) j).toNat
             if i < 2048 / wBits n.toNat then
               laneOf (p.vr (BitVec.ofNat 5 (a.toNat + i / (256 / wBits n.toNat)))) (wBits n.toNat) (i % (256 / wBits n.toNat))
             else 0 }
  | _ => none

/-- A lane-wise floating-point instruction: G, operands, destination, format, and what an active lane becomes and raises. -/
structure FloatLanes where
  g    : BitVec 4
  uses : List Use
  dest : BitVec 5
  fmt  : Fmt
  f    : Nat → Nat × Fp

/-- The number in lane `j` of a register. -/
def Proc.laneNat (p : Proc) (r : BitVec 5) (w j : Nat) : Nat := (laneOf (p.vr r) w j).toNat

/-- A form of R129: `f` on the lanes of v[A], v[B] and v[D]. -/
def Proc.float3 (p : Proc) (g : BitVec 4) (t : BitVec 2) (b a d : BitVec 5) (f : Fmt → Nat → Nat → Nat → Nat × Fp) : FloatLanes :=
  { g := g, uses := [uv d, uv b, uv a], dest := d, fmt := ftFmt t.toNat,
    f := fun j => f (ftFmt t.toNat) (p.laneNat a (ftFmt t.toNat).width j) (p.laneNat b (ftFmt t.toNat).width j)
      (p.laneNat d (ftFmt t.toNat).width j) }

/-- A form of R131: `f` on the lanes of v[A]. -/
def Proc.float1 (p : Proc) (g : BitVec 4) (t : BitVec 2) (a d : BitVec 5) (f : Fmt → Nat → Nat × Fp) : FloatLanes :=
  { g := g, uses := [uv d, uv a], dest := d, fmt := ftFmt t.toNat,
    f := fun j => f (ftFmt t.toNat) (p.laneNat a (ftFmt t.toNat).width j) }

/-- The floating-point forms of R129 and R131 whose result is there before the next issue: each is Round of an exact value. -/
def floatLanes (p : Proc) : Instr → Option FloatLanes
  | .vadd g t b a d => some (p.float3 g t b a d fun t x y _ => t.round 0 (Num.sum 0 [t.value x, t.value y]) p.fp)
  | .vsub g t b a d => some (p.float3 g t b a d fun t x y _ => t.round 0 (Num.sum 0 [t.value x, (t.value y).neg]) p.fp)
  | .vmul g t b a d => some (p.float3 g t b a d fun t x y _ => t.round 0 ((t.value x).mul (t.value y)) p.fp)
  | .vfma g t b a d =>
    some (p.float3 g t b a d fun t x y z => t.round 0 (Num.sum 0 [(t.value x).mul (t.value y), t.value z]) p.fp)
  | .vfms g t b a d =>
    some (p.float3 g t b a d fun t x y z => t.round 0 (Num.sum 0 [(t.value x).mul (t.value y), (t.value z).neg]) p.fp)
  | .vfnma g t b a d =>
    some (p.float3 g t b a d fun t x y z => t.round 0 (Num.sum 0 [(t.value x).neg.mul (t.value y), t.value z]) p.fp)
  | .vmin g t b a d => some (p.float3 g t b a d fun t x y _ => t.minMax false x y p.fp)
  | .vmax g t b a d => some (p.float3 g t b a d fun t x y _ => t.minMax true x y p.fp)
  | .vneg g t a d => some (p.float1 g t a d fun t x =>
      if (t.value x).isNan then (t.canonNaN, p.fp.raiseIf (t.value x).nv flagNV) else (x ^^^ 2 ^ (t.width - 1), p.fp))
  | .vabs g t a d => some (p.float1 g t a d fun t x =>
      if (t.value x).isNan then (t.canonNaN, p.fp.raiseIf (t.value x).nv flagNV) else (x % 2 ^ (t.width - 1), p.fp))
  | .vrint g t r a d => some (p.float1 g t a d fun t x => rintLane r.toNat t x p.fp)
  | _ => none

/-- The timed vector instructions (R124): the guard, the operands, and the cycles from the start of execution to the result. -/
def timedVector (p : Proc) : Instr → Option (Bool × List Use × Nat)
  | .vrcpa g t a d | .vrsqa g t a d | .vexpa g t a d | .vloga g t a d =>
    some (p.anyActive g (ftFmt t.toNat).width, [uv a, uv d], 6)
  | .vreds g t a d => some (p.anyActive g (tcBits t.toNat), [uv a, ux d], 8)
  | .vredm g t _ a d => some (p.anyActive g (tcBits t.toNat), [uv a, ux d], 8)
  | .vdot g t b a d => some (p.anyActive g (tcBits t.toNat), [uv b, uv a, ux d], 8)
  | .vscan g t a d => some (p.anyActive g (tcBits t.toNat), [uv a, uv d], 8)
  | .vmxq g _ t _ a d => some (p.anyActive g 8, uv d :: (List.range (blockRegs t)).map fun m => (1, a.toNat + m), 8)
  | .vmxd g _ t a d => some (p.anyActive g 8, uv a :: (List.range (blockRegs t)).map fun m => (1, d.toNat + m), 6)
  | _ => none

/-- The instructions that take a shared vector unit (R124): guard, operands, cycles, and the unit, 0 the divider, 1 the sorter. -/
def unitVector (p : Proc) : Instr → Option (Bool × List Use × Nat × Nat)
  | .vdiv g t b a d =>
    some (p.anyActive g (ftFmt t.toNat).width, [uv b, uv a, uv d], if t = 0 then 24 else if t = 1 then 16 else 10, 0)
  | .vsqrt g t _ a d =>
    some (p.anyActive g (ftFmt t.toNat).width, [uv a, uv d], if t = 0 then 24 else if t = 1 then 16 else 10, 0)
  | .vsort g _ k t b a d =>
    some (p.anyActive g (tcBits t.toNat), [uv a, uv d] ++ (if k = 1 then [uv b] else []), 12, 1)
  | _ => none

/-- The registers that a timed vector instruction writes (R131, R141 to R146). -/
def vectorWrites : Instr → List Reg
  | .vreds _ _ _ d | .vredm _ _ _ _ d | .vdot _ _ _ _ d => [.x d, .fstat, .rseed]
  | .vsort _ _ k _ b _ d => if k = 1 then [.v d, .v b] else [.v d]
  | .vmxq _ _ _ _ _ d => [.v d, .e 7, .fstat, .rseed]
  | .vmxd _ _ t _ d => .fstat :: .rseed :: (List.range (blockRegs t)).map fun m => .v (BitVec.ofNat 5 (d.toNat + m))
  | .vrcpa _ _ _ d | .vrsqa _ _ _ d | .vexpa _ _ _ d | .vloga _ _ _ d | .vscan _ _ _ d | .vdiv _ _ _ _ d | .vsqrt _ _ _ _ d =>
    [.v d, .fstat, .rseed]
  | _ => []

/-- What the vector divider and the seed forms give in an active lane (R129, R131, R132). -/
def slowLanes (p : Proc) : Instr → Option FloatLanes
  | .vdiv g t b a d => some (p.float3 g t b a d fun t x y _ =>
      t.round 0 ((t.value x).div (t.value y)).1 (p.fp.raise ((t.value x).div (t.value y)).2))
  | .vsqrt g t r a d => some (p.float1 g t a d fun t x => t.round r.toNat (t.value x).sqrt p.fp)
  | .vrcpa g t a d => some (p.float1 g t a d fun t x => (trimFmt t).round 0
      ((Num.fin false 1 0 false).div (t.value x)).1 (p.fp.raise ((Num.fin false 1 0 false).div (t.value x)).2))
  | .vrsqa g t a d => some (p.float1 g t a d fun t x => (trimFmt t).round 0 (t.value x).rsqrt.1 (p.fp.raise (t.value x).rsqrt.2))
  | .vexpa g t a d => some (p.float1 g t a d fun t x => (trimFmt t).round 0 (t.value x).exp2 p.fp)
  | .vloga g t a d => some (p.float1 g t a d fun t x => (trimFmt t).round 0 (t.value x).log2.1 (p.fp.raise (t.value x).log2.2))
  | _ => none

/-- From `p` to `q` the active lanes of v[D] have become what `l` gives, FSTAT has gained what they raise, and the other lanes and
registers are as before (R16, R125). -/
structure FloatResult (p q : Proc) (l : FloatLanes) : Prop where
  keeps : p.Keeps q [.v l.dest, .fstat]
  lanes : ∀ j, j < 256 / l.fmt.width → p.active l.g l.fmt.width j = true → q.laneNat l.dest l.fmt.width j = (l.f j).1
  rest  : ∀ j, j < 256 / l.fmt.width → p.active l.g l.fmt.width j = false →
            q.laneNat l.dest l.fmt.width j = p.laneNat l.dest l.fmt.width j
  flags : ∀ n, q.fstat.getLsbD n = (p.fstat.getLsbD n ||
            (List.range (256 / l.fmt.width)).any fun j => p.active l.g l.fmt.width j && (l.f j).2.flags.getLsbD n)

/-! ### Tiles and processes -/

/-- The tile instructions that the queue takes: guard and operands (R161, R166 to R177). -/
def tileForms : Instr → Option (BitVec 4 × List Use)
  | .tmma g _ c b a => some (g, [(3, c.toNat), (2, b.toNat), (2, a.toNat)])
  | .tmmx g _ c b a => some (g, [(3, c.toNat), (2, b.toNat), (2, a.toNat)])
  | .tzero g c => some (g, [(3, c.toNat)])
  | .tloada g _ c q => some (g, [(3, c.toNat), (2, q.toNat)])
  | .tstore g _ c q _ => some (g, [(3, c.toNat), (2, q.toNat)])
  | .ttrn g _ q r => some (g, [(2, q.toNat), (2, r.toNat)])
  | _ => none

/-- The bytes that an accepted tile instruction writes: offset and length (R163, R173 to R177). -/
def State.tileTarget (s : State) (c : Nat) (p : Proc) (op : TileOp) : Nat × Nat :=
  match op.instr with
  | .tmma _ t a _ _ => ((p.accAt a.toNat).getD 0, if t = 0 then 512 else 1024)
  | .tmmx _ _ a _ _ | .tzero _ a => ((p.accAt a.toNat).getD 0, 1024)
  | .tloada _ t a _ => ((p.accAt a.toNat).getD 0, if accKindLoad op.z t.toNat = 8 then 512 else 1024)
  | .tstore _ t _ q e => (s.destAt c p q.toNat op.slot, tstoreSize op.z t.toNat e.toNat)
  | .ttrn _ t _ q => (s.destAt c p q.toNat op.slot, ttrnSize t.toNat)
  | _ => (0, 0)

/-! ### Status, ports and messages -/

/-- An instruction ends with a status (R7): with .q it is written; without, OK retires and anything else raises CHANNEL. -/
def State.ends (s : State) (c k : Nat) (p : Proc) (q : BitVec 1) (d : BitVec 5) (num st : Nat) (i : Instr) : State :=
  if q = 1 then s.retireTo c k (p.setX d (BitVec.ofNat 64 st)) i (p.pc + size i)
  else if st = 0 then s.retireTo c k p i (p.pc + size i)
  else s.trapEntry c k p 7 (BitVec.ofNat 64 (num * 256 + st))

/-- Process port `n` is core port `j`, whose state is `po` (R199). -/
structure HasPort (s : State) (c : Nat) (p : Proc) (n : BitVec 6) (j : Nat) (po : Port) : Prop where
  number : p.ports[n.toNat]? = some j
  port   : s.port c j = some po

/-- A SEND, SENDV or C.SEND (R209): guard, port, operands, TYPE, the words sent, .q and the status register. -/
structure Sending where
  g     : BitVec 4
  n     : BitVec 6
  uses  : List Use
  type  : Nat
  words : List Word
  q     : BitVec 1
  d     : BitVec 5

@[inherit_doc Sending]
def sendingOf (p : Proc) : Instr → Option Sending
  | .send g q n a d => some { g := g, n := n, uses := [ux a, ux d], type := 0, words := [p.xr a], q := q, d := d }
  | .sendv g q n a d =>
    some { g := g, n := n, uses := [uv a, ux d], type := 1, q := q, d := d,
           words := [laneOf (p.vr a) 64 0, laneOf (p.vr a) 64 1, laneOf (p.vr a) 64 2, laneOf (p.vr a) 64 3] }
  | .cSend n a => some { g := 0, n := n.zeroExtend 6, uses := [ux (wide a)], type := 0, words := [p.xr (wide a)], q := 0, d := 0 }
  | _ => none

/-- A RECV, RECVV or C.RECV (R210): guard, port, operands, TYPE, the process with the data, the register of the data, .q and the
status register. -/
structure Receiving where
  g     : BitVec 4
  n     : BitVec 6
  uses  : List Use
  type  : Nat
  after : List Word → Proc
  dest  : Reg
  q     : BitVec 1
  a     : BitVec 5

@[inherit_doc Receiving]
def receivingOf (p : Proc) : Instr → Option Receiving
  | .recv g q n a d =>
    some { g := g, n := n, uses := [ux a, ux d], type := 0, after := fun ws => p.setX d (ws.headD 0), dest := .x d, q := q, a := a }
  | .recvv g q n a d =>
    some { g := g, n := n, uses := [ux a, uv d], type := 1, dest := .v d, q := q, a := a,
           after := fun ws => p.setV d ((ws[3]?).getD 0 ++ (ws[2]?).getD 0 ++ (ws[1]?).getD 0 ++ (ws[0]?).getD 0) }
  | .cRecv n d =>
    some { g := 0, n := n.zeroExtend 6, uses := [ux (wide d)], type := 0, after := fun ws => p.setX (wide d) (ws.headD 0),
           dest := .x (wide d), q := 0, a := 0 }
  | _ => none

/-- The process after the status OK was written, with .q (R7). -/
def Proc.withOk (p : Proc) (q : BitVec 1) (a : BitVec 5) : Proc := if q = 1 then p.setX a 0 else p

/-- From `s` to `t` the network has gained exactly the packet from `c` to `d`. -/
def State.Sent (s t : State) (c d vc : Nat) (b : Body) : Prop :=
  t.net = s.net ++ [{ src := c, dst := d, vc := vc, since := s.now, body := b }]

end Sys2Proof.Machine
end

