-- ==== Sys2Proof/Certificates/Slice0/Obligations.lean ====
section
/-! DEFINITION. Sys2Proof/Certificates/Slice0/Obligations.lean: the statements about this machine, one `Prop` each, from the
numbered rules of the spec. -/

open Sys2Proof Sys2Proof.Machine

/-- R15, R20, R23, R96, R184, R187, R194, R218, R265, R329, R332, R386, R397, R402, R449: what core reset leaves in every core:
empty slots and granules, zero scratchpad bytes and y-registers that nobody owns, and each register at the value of its table;
nothing is powered, in flight or listed in any memory. The values that the spec does not give are no part of this statement. -/
def Obligations.ResetValues : Prop :=
  State.reset.power = 0 ∧ State.reset.net = [] ∧ State.reset.cores = [] ∧ State.reset.memoryWf ∧ State.reset.coreMemoryWf ∧
  (∀ d, (State.reset.die d).map = []) ∧
  ∀ c, ∃ co, State.reset.core c = co ∧
    (∀ k, co.slot k = Slot.reset ∧ (co.slot k).proc = none ∧ (co.slot k).state = .empty) ∧
    co.last = 15 ∧ co.genCtr = 0 ∧ co.full = [] ∧ (∀ a, co.spad.read a = 0) ∧
    co.parkwait = 4096 ∧ co.wdcycles = 16777216 ∧ co.dlwindow = 1048576 ∧ co.wtovf = 0 ∧ co.lwcycles = 16777216 ∧
    co.peermask = 0x6C ∧ co.dbgctl = 0 ∧ co.bpc = Vector.replicate 4 0 ∧ co.trcctl = 0 ∧ co.boot = true ∧
    co.y = Vector.replicate 8 0 ∧ co.yOwner = Vector.replicate 8 none ∧
    co.ctr = Vector.replicate 16 0 ∧ co.ctrOwner = Vector.replicate 16 none ∧ co.tb = Vector.replicate 8 Barrier.reset

/-- R43 to R56: one word of each of fourteen majors, written out from the spec's fields, decodes to the instruction that it stands
for. -/
def Obligations.WordsOfTheSpec : Prop :=
  decodeTableWord 16 0x0A54 = some (.cLd 0 5 2) ∧
  [0x00062203, 0x02841115, 0x00080FA5, 0x00120537, 0x0C065239].map (decodeTableWord 32) =
    [some (.add 0 3 2 4), some (.cmp 0 1 2 2 1 2), some (.jal 0 128 31), some (.lsend 0 9 0 10), some (.ld 0 1 2 3 5 4)] ∧
  [0x0E4C44C3, 0x028419CF, 0x00020063, 0x0006406F, 0x008001F3].map (decodeTableWord 32) =
    [some (.amoFadd 0 1 1 6 4 9), some (.vcmp 0 2 2 2 1 2 3), some (.tmma 0 0 0 1 0), some (.chopen 0 0 3 4 0), some (.alt 0 2 3)] ∧
  [0x00064077, 0x0000E07B, 0x000612FD].map (decodeTableWord 32) =
    [some (.gsendScalar 0 0 3 4 0), some (.proof 0 14), some (.hload 0 3 1 5)]

/-- R36, R37, R187: when the rotation has slot k of core c issue, and the bytes at its pc decode to an instruction, the step is that
instruction's meaning with the slot current, and then only the bookkeeping of a single-stepped core (R400); bytes that are no
instruction run the illegal word; a fetch that has to wait ends the step there; an event's step is its meaning, what comes from
the outside among them; and every step is one of the choices there are. -/
def Obligations.StepRunsDecoded : Prop :=
  (∀ s t u c k p bs i n, Chooses s t (.issue c k) → t.proc c k = some p →
    (t.noteIssue c k).fetchAt c k p fetchInstr p.pc 1 = .code bs u → decode bs = .ok (i, n) →
    step s = Out.andThen (exec i { u with cur := (c, k) }) fun v => .next (v.modCore c fun co => co.stepped k)) ∧
  (∀ s t u c k p bs e, Chooses s t (.issue c k) → t.proc c k = some p →
    (t.noteIssue c k).fetchAt c k p fetchInstr p.pc 1 = .code bs u → decode bs = .error e →
    step s = Out.andThen (exec (.illegalWord (ofLe bs)) { u with cur := (c, k) }) fun v =>
      .next (v.modCore c fun co => co.stepped k)) ∧
  (∀ s t u c k p, Chooses s t (.issue c k) → t.proc c k = some p →
    (t.noteIssue c k).fetchAt c k p fetchInstr p.pc 1 = .stop u → step s = .next (u.modCore c fun co => co.stepped k)) ∧
  (∀ s t i e, Chooses s t (.event (i, e)) → step s = exec i { t with ev := e }) ∧
  (∀ (s : State) i e rest, s.inbox = (i, e) :: rest → isEvent i = true → s.take .arrive = exec i { s with inbox := rest, ev := e }) ∧
  (∀ s, ∃ t ch, Chooses s t ch ∧ step s = t.take ch) ∧
  ∀ s t, Chooses s t .tick → step s = t.tickOver

/-- R43 to R56: for every well-formed instruction, at every value of every operand, decoding its encoding gives it back with its
length, and the bits of the opcode table's numbering do too; nothing of an encoding is dropped. -/
def Obligations.DecodeOfEncode : Prop :=
  ∀ i n w, wellFormed i = true → encodeWord i = some (n, w) →
    decode (encode i) = .ok (i, n / 8) ∧ decodeTableWord n w = some i ∧ w < 2 ^ n

/-- The memories of the package stay in canonical form: bytes listed in rising address order, none of them zero (the choice of log
entry 3 for a byte that nothing has written), from whatever state a step starts. -/
def Obligations.PackageMemoryInvariant : Prop :=
  ∀ s t, s.memoryWf → step s = .next t → t.memoryWf

/-- Every scratchpad and boot memory stays in canonical form, from whatever state a step starts. -/
def Obligations.CoreMemoryInvariant : Prop :=
  ∀ s t, s.coreMemoryWf → step s = .next t → t.coreMemoryWf

/-- No row of the opcode table is refused, and no step is, whatever the state. -/
def Obligations.NoRowIsRefused : Prop :=
  (∀ i s r, exec i s ≠ .refused r) ∧ ∀ s r, step s ≠ .refused r

/-- R42, R56, R57, R89 to R96, R99 to R101, R105, R106: each register-only scalar form, compact or not, completes with the value of
`scalar` in its destination, whatever the operands, x0 and p0 and a false selector of SEL included; the next pc is the next
instruction's. DIV, REM and MOVs of y-registers have statements of their own. -/
def Obligations.ScalarResults : Prop :=
  ∀ s c k p i f, scalar p i = some f → Executes s c k p f.uses f.guard →
    exec i s = .next (s.retireTo c k f.after i (p.pc + size i))

/-- R105: EXTI and EXTI.cat, and one EXTI and three EXTI.cat build any 64-bit value. -/
def Obligations.ExtiBuildsWords : Prop :=
  (∀ s c k p g n e, Executes s c k p [] (p.guardBit g 0) →
    exec (.exti g n 0 e) s = .next (s.retireTo c k (p.setE e (n.signExtend 64)) (.exti g n 0 e) (p.pc + 4)) ∧
    exec (.exti g n 1 e) s =
      .next (s.retireTo c k (p.setE e ((p.er e <<< 16) ||| n.zeroExtend 64)) (.exti g n 1 e) (p.pc + 4))) ∧
  ∀ w : Word, ∃ a b c d : BitVec 16,
    ((((a.signExtend 64 <<< 16 ||| b.zeroExtend 64) <<< 16) ||| c.zeroExtend 64) <<< 16) ||| d.zeroExtend 64 = w

/-- The frame of every register-only scalar and pipelined vector instruction: when it executes it changes its destination register,
and FSTAT where it raises flags, and nothing else. -/
def Obligations.RegisterFrames : Prop :=
  (∀ s c k p i f, scalar p i = some f → Executes s c k p f.uses f.guard →
    ∃ t, exec i s = .next t ∧ Frame s t c k p f.writes) ∧
  (∀ s c k p i l, integerLanes p i = some l → Executes s c k p l.uses (p.anyActive l.g l.w) →
    ∃ t, exec i s = .next t ∧ Frame s t c k p [.v l.dest]) ∧
  (∀ s c k p i l, floatLanes p i = some l → Executes s c k p l.uses (p.anyActive l.g l.fmt.width) →
    ∃ t, exec i s = .next t ∧ Frame s t c k p [.v l.dest, .fstat]) ∧
  (∀ s c k p g cond w b a l (d : BitVec 3), Executes s c k p [uv b, uv a] (p.anyActive g (wBits w.toNat)) →
    ∃ t, exec (.vcmp g cond w b a l d) s = .next t ∧ Frame s t c k p [.p d, .fstat]) ∧
  (∀ s c k p g n b a d, Executes s c k p [uv b, uv a, uv d] true →
    ∃ t, exec (.vsel g n b a d) s = .next t ∧ Frame s t c k p [.v d]) ∧
  (∀ s c k p g n j a d, Executes s c k p [uv a, ux d] (p.active g (wBits n.toNat) j.toNat) →
    ∃ t, exec (.vget g n j a d) s = .next t ∧ Frame s t c k p [.x d]) ∧
  (∀ s c k p g n j a d, Executes s c k p [ux a, uv d] (p.active g (wBits n.toNat) j.toNat) →
    ∃ t, exec (.vins g n j a d) s = .next t ∧ Frame s t c k p [.v d]) ∧
  ∀ s c k p g r (t st : BitVec 4) a d w, w = max (tcBits st.toNat) (tcBits t.toNat) → r ≠ 4 →
    Executes s c k p [uv a, uv d] (p.anyActive g w) →
    ∃ u, exec (.vcvt g r t st a d) s = .next u ∧ Frame s u c k p [.v d, .fstat]

/-- R102, R103, R56: a transfer writes its link register and the pc and changes nothing else; a target in local space raises NOPATH,
an odd target ALIGN, with the target as TVAL, and then no register is written. -/
def Obligations.Transfers : Prop :=
  ∀ s c k p i us guard link t, transferOf p i = some (us, guard, link, t) → Executes s c k p us guard →
    exec i s = .next (
      if t.getLsbD 63 then s.trapEntry c k p 5 t
      else if t.getLsbD 0 then s.trapEntry c k p 3 t
      else s.retireTo c k (p.linked link) i t) ∧
    (t.getLsbD 63 = false → t.getLsbD 0 = false →
      Frame s (s.retireTo c k (p.linked link) i t) c k p (link.toList.map Reg.x))

/-- R40, R30: an instruction whose guard is false retires, or traps with a cause that is decided at decode. -/
def Obligations.FalseGuardOnlyRetires : Prop :=
  ∀ s c k p i, Issuing s c k p → guardOf p i = some false →
    (∃ t, exec i s = .next t ∧ t = s.retireTo c k p i (p.pc + size i) ∧ Frame s t c k p [] ∧
      ∃ q, t.proc c k = some q ∧ q.retired = p.retired + 1) ∨
    ∃ t cause v, cause ∈ [1, 6, 2] ∧ exec i s = .next (t.trapEntry c k p cause v) ∧ (t = s ∨ t = { s with tick := s.tick + 1 })

/-- R27, R30, R32: a register-only scalar instruction that names a register beyond the header's bounds traps with RESOURCE, whatever
its guard, and TVAL names one of the offending operands. R58, R32: a word that is no instruction raises ILLEGAL with the word as
TVAL, whatever the process. R55, R58, R15: a privileged form in an unprivileged process raises PRIV with the instruction word,
whatever its guard. -/
def Obligations.DecodeTraps : Prop :=
  (
  ∀ s c k p i f, scalar p i = some f → Issuing s c k p → p.offending f.uses ≠ [] →
    ∃ u ∈ p.offending f.uses, ∃ t, (t = s ∨ t = { s with tick := s.tick + 1 }) ∧
      exec i s = .next (t.trapEntry c k p 2 (BitVec.ofNat 64 (u.1 * 256 + u.2)))) ∧
  (
  ∀ s c k p w, s.cur = (c, k) → s.proc c k = some p →
    exec (.illegalWord w) s = .next (s.trapEntry c k p 1 (BitVec.ofNat 64 w))) ∧
  (
  ∀ s c k p i w, Issuing s c k p → p.priv = false → needsPrivilege c i = true → encodeWord i = some (32, w) →
    exec i s = .next (s.trapEntry c k p 6 (BitVec.ofNat 64 w)))

/-- R31, R104: TRAP #n and, on a core that does not halt on breaks, BKPT #n save the pc, the cause and the value, set INH and go to
the handler; every other register, all memory and every other slot stay, and RETIRED does not count. R31, R104: a trap within a
handler, or without one, ends a process that is no draft with FAULT and the cause, value and pc. R399: BKPT on a core that halts
on breaks retires, halts the core and is traced. R33, R102: TRET goes to TPC, TRET.skip past the instruction there, and INH is
cleared; a target in local space raises NOPATH and an odd one ALIGN, with INH as before. -/
def Obligations.TrapsAndReturns : Prop :=
  (
  ∀ s c k p i cause v, Executes s c k p [] (trapOf p i).1 → (trapOf p i).2 = some (cause, v) → p.inh = false → p.handler ≠ 0 →
    (∀ g n, i = .bkpt g n → (s.core c).dbgctl.getLsbD 2 = false) →
    ∃ t q, exec i s = .next t ∧ t.proc c k = some q ∧
      q.tpc = p.pc ∧ q.tcause = BitVec.ofNat 64 cause ∧ q.tval = v ∧ q.inh = true ∧ q.pc = p.hdrAddr + p.handler.signExtend 64 ∧
      q.x = p.x ∧ q.v = p.v ∧ q.p = p.p ∧ q.e = p.e ∧ q.z = p.z ∧ q.fstat = p.fstat ∧ q.rseed = p.rseed ∧ q.retired = p.retired ∧
      s.SameMemory t ∧ (∀ d, d ≠ c → t.core d = s.core d) ∧ ∀ j, j ≠ k → t.slot c j = s.slot c j) ∧
  (
  ∀ s c k p i cause v, Executes s c k p [] (trapOf p i).1 → (trapOf p i).2 = some (cause, v) → p.inh = true ∨ p.handler = 0 →
    p.draft = none → (∀ g n, i = .bkpt g n → (s.core c).dbgctl.getLsbD 2 = false) →
    exec i s = .next (s.endProc c p { kind := 1, tcause := cause, tval := v, tpc := p.pc })) ∧
  (
  ∀ s c k p g n, Executes s c k p [] (p.guardBit g 0) → (s.core c).dbgctl.getLsbD 2 = true →
    exec (.bkpt g n) s = .next (((s.retireTo c k p (.bkpt g n) (p.pc + 4)).modCore c Core.halt).traceHalt c 0)) ∧
  (
  (∀ s c k p g, Executes s c k p [] (p.guardBit g 0) →
    exec (.tret g 0) s = .next (
      if p.tpc.getLsbD 63 then s.trapEntry c k p 5 p.tpc
      else if p.tpc.getLsbD 0 then s.trapEntry c k p 3 p.tpc
      else s.retireTo c k { p with inh := false, bpSkip := p.bpHit.contains p.tpc, bpHit := (p.bpHit.erase p.tpc).erase p.tpc }
        (.tret g 0) p.tpc)) ∧
  ∀ s c k p g bs t q target, Executes s c k p [] (p.guardBit g 0) → p.tpc.getLsbD 63 = false → p.tpc.getLsbD 0 = false →
    s.fetchAt c k p (.tret g 1) p.tpc 2 = .code bs t → t.proc c k = some q →
    target = q.tpc + (if (bs.headD 0).getLsbD 0 then 4 else 2) → target.getLsbD 63 = false → target.getLsbD 0 = false →
    exec (.tret g 1) s =
      .next (t.retireTo c k { q with
        inh := false, bpSkip := q.bpHit.contains target, bpHit := (q.bpHit.erase target).erase q.tpc } (.tret g 1) target))

/-- R14 to R20, R107, R108: SRD writes the value of the system register that it names. R4, R16, R18 to R20, R107, R108: SWR writes
the system register that it names, field by field; a register that is read-only keeps its value, and a limit that is replaced
holds until the cycle ends. R110: EVT appends its record of four words to the event queue of its context, and retires. R88,
R111: IFLUSH empties the instruction cache and leaves the rotation; 64 cycles later it retires. -/
def Obligations.SystemRegisters : Prop :=
  (
  ∀ s c k p g x r, (r.privileged = true → p.priv = true) → Executes s c k p [ux x] (p.guardBit g 0) →
    exec (.srd g r.number x) s = .next (s.retireTo c k (p.setX x (s.systemValue c k p r)) (.srd g r.number x) (p.pc + 4))) ∧
  (
  ∀ s c k p g x r, (r.privileged = true → p.priv = true) → Executes s c k p [ux x] (p.guardBit g 0) →
    exec (.swr g r.number x) s = .next
      (((s.setProc c k (p.systemWritten r (p.xr x))).modCore c fun co => co.systemWritten s.now r (p.xr x)).retireTo c k
        (p.systemWritten r (p.xr x)) (.swr g r.number x) (p.pc + 4))) ∧
  (
  ∀ s c k p g n x, Executes s c k p [ux x] (p.guardBit g 0) →
    exec (.evt g n x) s = .next (({ s with events := s.events ++ [(c, p.ctx.toNat,
        [(0x10#8 ++ n ++ 0#44), s.systemValue c k p .self, p.index, p.xr x])] }).retireTo c k p (.evt g n x) (p.pc + 4))) ∧
  (
  (∀ s c k p g, Executes s c k p [] (p.guardBit g 0) →
    exec (.iflush g) s =
      .next ((s.modCore c Core.flushUnits).block c k (.iflush g) (.iflush (s.now + 64)))) ∧
  (∀ co : Core, co.flushUnits.icache = [] ∧ (co.flushUnits.spad, co.flushUnits.full) = (co.spad, co.full)) ∧
  ∀ s c k p g till, s.ev.c = c → s.ev.k = k → Waits s c k p (.iflush g) (.iflush till) → till ≤ s.now →
    exec .iflushDone s = .next ((s.retireTo c k p (.iflush g) (p.pc + 4)).rejoin c k))

/-- R96 to R98: a MOV to a y-register sets its value and its owner; a MOV from one reads the value if the reader's context owns it
and zero otherwise, from the fourth cycle after the write; in the three cycles before, what it reads is that or what the write
replaced. -/
def Obligations.SharedRegisters : Prop :=
  (∀ s c k p g a (d : BitVec 3), Executes s c k p [ux a] (p.guardBit g 0) →
    exec (.movToY g a d) s = .next ((s.modCore c fun co =>
      { co with y := co.y.set d.toNat (p.xr a), yOwner := co.yOwner.set d.toNat (some p.ctx),
                yOld := co.yOld.set d.toNat (co.y[d.toNat], co.yOwner[d.toNat], s.now) }).retireTo c k p (.movToY g a d)
        (p.pc + 4))) ∧
  (∀ s c k p g (a : BitVec 3) d, Executes s c k p [ux d] (p.guardBit g 0) → (s.core c).yOld[a.toNat].2.2 + 4 ≤ s.now →
    exec (.movFromY g a d) s = .next (s.retireTo c k
      (p.setX d (if (s.core c).yOwner[a.toNat] = some p.ctx then (s.core c).y[a.toNat] else 0)) (.movFromY g a d) (p.pc + 4))) ∧
  ∀ s c k p g (a : BitVec 3) d, Executes s c k p [ux d] (p.guardBit g 0) →
    ∃ t w, (t = s ∨ t = { s with tick := s.tick + 1 }) ∧
      exec (.movFromY g a d) s = .next (t.retireTo c k (p.setX d w) (.movFromY g a d) (p.pc + 4)) ∧
      (w = (if (s.core c).yOwner[a.toNat] = some p.ctx then (s.core c).y[a.toNat] else 0) ∨
       w = (if (s.core c).yOld[a.toNat].2.1 = some p.ctx then (s.core c).yOld[a.toNat].1 else 0))

/-- R88, R89: DIV and REM leave the rotation for the one divider, in issue order; 24 cycles after the grant the quotient or
remainder is written, at every edge of R89's table. -/
def Obligations.DivisionResults : Prop :=
  (∀ s c k p i g b a d r, divisionOf p i = some (g, b, a, d, r) → Executes s c k p [ux b, ux a, ux d] (p.guardBit g 0) →
    exec i s = .next (
      if (s.core c).divider = none ∧ (s.core c).divq = [] then
        (s.setCore c { s.core c with divider := some p.uid }).block c k i (.divRun (s.now + 24))
      else (s.setCore c { s.core c with divq := (s.core c).divq.filter (· != p.uid) ++ [p.uid] }).block c k i .divQueue)) ∧
  (∀ s k p i u us, (s.core s.ev.c).divider = none → (s.core s.ev.c).divq = u :: us → u = p.uid →
    Waits s s.ev.c k p i .divQueue →
    exec .dividerGrant s = .next ((s.modCore s.ev.c fun co => { co with divider := some u, divq := us }).setProc s.ev.c k
      { p with wait := some { instr := i, kind := .divRun (s.now + 24) } })) ∧
  ∀ s k p i g b a d r till, (s.core s.ev.c).divider = some p.uid → Waits s s.ev.c k p i (.divRun till) → till ≤ s.now →
    divisionOf p i = some (g, b, a, d, r) →
    exec .dividerDone s = .next (((s.modCore s.ev.c fun co => { co with divider := none }).retireTo s.ev.c k (p.setX d r) i
      (p.pc + 4)).rejoin s.ev.c k)

/-- R112: an address in the process's own window, in absolute form, passes LocalCheck with its offset; a global address raises
NOPATH, a misaligned one ALIGN, and an offset beyond the scratchpad BOUND, in that order. R113, R114, R118: LD and C.LD write
the extended data of their own core's scratchpad, LDV the active bytes of its register; when a granule belongs to an engine the
access waits; a failed check traps with the address. -/
def Obligations.LoadResults : Prop :=
  (
  (∀ (s : State) (c : Nat) (p : Proc) (o n : Nat) (load : Bool), 0 < n → o + n ≤ p.wsize → p.wbase + p.wsize ≤ sysBase c → p.vcore.toNat < 4352 → (p.wbase + o) % n = 0 → n ∣ 32 →
    s.localCheck c p (s.systemValue c 0 p .winbase + BitVec.ofNat 64 o) n n false load = .own (p.wbase + o)) ∧
  ∀ (s : State) (c : Nat) (p : Proc) (ea : Word) (n : Nat) (own load : Bool), 0 < n →
    (ea.getLsbD 63 = false → s.localCheck c p ea n n own load = .bad 5) ∧
    (ea.getLsbD 63 = true → ea.toNat % n ≠ 0 → s.localCheck c p ea n n own load = .bad 3) ∧
    (ea.getLsbD 63 = true → ea.toNat % n = 0 → (ea.extractLsb' 18 20 ≠ 0 ∨ ea.getLsbD 62 = true ∧ ea.extractLsb' 52 10 ≠ 0) →
      s.localCheck c p ea n n own load = .bad 4)) ∧
  (
  (∀ s c k p i us guard ea n f d off, scalarLoad p i = some (us, guard, ea, n, f, d) → Executes s c k p us guard →
    s.localCheck c p ea n n false true = .own off → (s.core c).ownedIn off n = none →
    exec i s = .next (s.retireTo c k (f (s.localBytes c off n)) i (p.pc + size i)) ∧
    Frame s (s.retireTo c k (f (s.localBytes c off n)) i (p.pc + size i)) c k p [.x d]) ∧
  (∀ s c k p g n a d off, Executes s c k p [ux a, uv d] (p.anyActive g 8) →
    s.localCheck c p (p.xr a + n.signExtend 64 * 32) 32 32 false true = .own off → (s.core c).ownedIn off 32 = none →
    ∃ v, exec (.ldv g n a d) s = .next (s.retireTo c k (p.setV d v) (.ldv g n a d) (p.pc + 4)) ∧
      ∀ b, b < 32 → v.extractLsb' (8 * b) 8 =
        if p.active g 8 b then s.localByte c (off + b) else (p.vr d).extractLsb' (8 * b) 8) ∧
  (∀ s c k p i us guard ea n f d off gr, scalarLoad p i = some (us, guard, ea, n, f, d) → Executes s c k p us guard →
    s.localCheck c p ea n n false true = .own off → (s.core c).ownedIn off n = some gr →
    (∀ w ∈ (s.core c).waits, w.uid ≠ p.uid) → ∀ pl rest, (s.core c).waitFree = pl :: rest →
    exec i s = .next ((s.setCore c { s.core c with
      waitFree := rest,
      waits := (s.core c).waits ++ [{
        kind := 2, clr := false, uid := p.uid, granule := gr, since := s.now, place := pl, access := p.loadAccess i off }] }).block c k i .granule)) ∧
  ∀ s c k p i us guard ea n f d cause, scalarLoad p i = some (us, guard, ea, n, f, d) → Executes s c k p us guard →
    s.localCheck c p ea n n false true = .bad cause → exec i s = .next (s.trapEntry c k p cause ea))

/-- R113, R114, R302: ST, C.ST and STV change the bytes that they store, at the address that they form, and no other byte of any
memory; a release form waits until SACK, the replay queue and HOSTP are clear; a failed check traps with the address. -/
def Obligations.StoreResults : Prop :=
  (∀ s c k p i us guard ea bs act rel off, storeOf p i = some (us, guard, ea, bs, act, rel) → Executes s c k p us guard →
    s.localCheck c p ea bs.length bs.length false false = .own off → (p.isDraft = false ∨ p.inWindow off bs.length = true) →
    (rel = true → p.released true = true) → (s.core c).ownedIn off bs.length = none →
    ∃ t, exec i s = .next t ∧ Stores s t c k p off bs.length (fun b => if act b then bs[b]? else none) ∧
      ∃ q, t.proc c k = some q ∧ q.pc = p.pc + size i ∧ q.retired = p.retired + 1) ∧
  (∀ s c k p i us guard ea bs act off, storeOf p i = some (us, guard, ea, bs, act, true) → Executes s c k p us guard →
    s.localCheck c p ea bs.length bs.length false false = .own off → (p.isDraft = false ∨ p.inWindow off bs.length = true) →
    p.released true = false → exec i s = .next (s.block c k i (.release true))) ∧
  ∀ s c k p i us guard ea bs act rel cause, storeOf p i = some (us, guard, ea, bs, act, rel) → Executes s c k p us guard →
    s.localCheck c p ea bs.length bs.length false false = .bad cause → exec i s = .next (s.trapEntry c k p cause ea)

/-- R115: LDVX reads each active lane at its own address, STVX writes each active lane there, the highest lane staying on equal
addresses; inactive lanes of the register, and all other bytes, stay. -/
def Obligations.GatherScatterResults : Prop :=
  (∀ s c k p g w b a d, Executes s c k p [uv b, ux a, uv d] (p.anyActive g (wBits w.toNat)) →
    (∀ j, j < 256 / wBits w.toNat → p.active g (wBits w.toNat) j = true →
      ∃ off, s.localCheck c p (laneAddr p (wBits w.toNat) a b j) (wBits w.toNat / 8) (wBits w.toNat / 8) true true = .own off ∧
        (s.core c).ownedIn off (wBits w.toNat / 8) = none) →
    ∃ t q, exec (.ldvx g w b a d) s = .next t ∧ t.proc c k = some q ∧ q.pc = p.pc + 4 ∧ p.Keeps q [.v d] ∧ s.SameMemory t ∧
      ∀ j, j < 256 / wBits w.toNat → lane (q.vr d) (wBits w.toNat) j =
        if p.active g (wBits w.toNat) j then
          ofLe (s.localBytes c ((laneAddr p (wBits w.toNat) a b j).toNat % 2 ^ 18) (wBits w.toNat / 8))
        else lane (p.vr d) (wBits w.toNat) j) ∧
  ∀ s c k p g w b a d, Executes s c k p [uv b, ux a, uv d] (p.anyActive g (wBits w.toNat)) → p.isDraft = false →
    (∀ j, j < 256 / wBits w.toNat → p.active g (wBits w.toNat) j = true →
      ∃ off, s.localCheck c p (laneAddr p (wBits w.toNat) a b j) (wBits w.toNat / 8) (wBits w.toNat / 8) true false = .own off ∧
        (s.core c).ownedIn off (wBits w.toNat / 8) = none) →
    ∃ t q, exec (.stvx g w b a d) s = .next t ∧ t.proc c k = some q ∧ q.pc = p.pc + 4 ∧ p.Keeps q [] ∧
      (∀ ap x, (t.phys ap).read x = (s.phys ap).read x) ∧ (∀ e, e ≠ c → t.core e = s.core e) ∧
      (∀ x, (∀ j, j < 256 / wBits w.toNat → p.active g (wBits w.toNat) j = true →
          x < (laneAddr p (wBits w.toNat) a b j).toNat % 2 ^ 18 ∨
          (laneAddr p (wBits w.toNat) a b j).toNat % 2 ^ 18 + wBits w.toNat / 8 ≤ x) →
        (t.core c).spad.read x = (s.core c).spad.read x) ∧
      ∀ j, j < 256 / wBits w.toNat → p.active g (wBits w.toNat) j = true →
        (∀ l, j < l → l < 256 / wBits w.toNat → p.active g (wBits w.toNat) l = true →
          laneAddr p (wBits w.toNat) a b l ≠ laneAddr p (wBits w.toNat) a b j) →
        ofLe ((t.core c).spad.bytes ((laneAddr p (wBits w.toNat) a b j).toNat % 2 ^ 18) (wBits w.toNat / 8))
          = lane (p.vr d) (wBits w.toNat) j

/-- R116 to R119, R302: on a granule of the own core that no engine owns and nobody waits for, LDF, STF, SETE, SETF and GSTATE read,
write, fill and empty it as the table says; a blocking LDF of an empty granule and STF to a full one take a wait-table entry;
the two releases wait first until SACK and the replay queue are clear. R120: SETF of a granule on which one LDF waits hands it
over: the waiter gets the data, retires and rejoins the rotation. R121, R302: a polling process issues again 64 cycles after its
last try, and a release wait ends when SACK, the replay queue and, at system scope, HOSTP are clear. -/
def Obligations.GranuleResults : Prop :=
  (
  (∀ s c k p i us guard ea off, granuleOf p i = some (us, guard, ea) → Executes s c k p us guard → p.isDraft = false →
    (∀ load, s.localCheck c p ea 16 16 true load = .own off) → (s.core c).owned (off / 16) = false →
    (∀ w ∈ (s.core c).waits, w.granule ≠ off / 16 ∧ w.uid ≠ p.uid) → (releasesGranule i = true → p.released false = true) →
    (match i with
     | .ldf _ n cl _ _ d =>
       if n = 1 ∨ (s.core c).isFull (off / 16) = true then
         exec i s = .next ((if cl = 1 then s.modCore c fun co => co.setEmpty (off / 16) else s).retireTo c k
           (p.setX d (wordOf (s.localBytes c (16 * (off / 16)) 8))) i (p.pc + 4))
       else ∀ pl rest, (s.core c).waitFree = pl :: rest → exec i s = .next ((s.setCore c
         ((s.core c).takeEntry 0 (cl == 1) p.uid (off / 16) s.now pl rest (.ldf d false (cl == 1)))).block c k i .granule)
     | .stf _ n _ _ d =>
       if n = 1 ∨ (s.core c).isFull (off / 16) = false then
         exec i s = .next ((s.modCore c fun co => ({ co with spad := co.spad.put (16 * (off / 16)) (leBytes (p.xr d).toNat 8) }).setFull
           (off / 16)).retireTo c k p i (p.pc + 4))
       else ∀ pl rest, (s.core c).waitFree = pl :: rest → exec i s = .next ((s.setCore c
         ((s.core c).takeEntry 1 false p.uid (off / 16) s.now pl rest (.stf (p.xr d) false))).block c k i .granule)
     | .sete _ _ _ => exec i s = .next ((s.modCore c fun co => co.setEmpty (off / 16)).retireTo c k p i (p.pc + 4))
     | .setf _ _ _ => exec i s = .next ((s.modCore c fun co => co.setFull (off / 16)).retireTo c k p i (p.pc + 4))
     | .gstate _ _ _ d => exec i s = .next (s.retireTo c k
         (p.setX d (if (s.core c).isFull (off / 16) then 1 else 0)) i (p.pc + 4))
     | _ => True)) ∧
  ∀ s c k p i us guard ea off, granuleOf p i = some (us, guard, ea) → releasesGranule i = true → Executes s c k p us guard →
    p.isDraft = false → (∀ load, s.localCheck c p ea 16 16 true load = .own off) → p.released false = false →
    exec i s = .next (s.block c k i (.release false))) ∧
  (
  ∀ s c k p g n a ea off j q h cl m b d z pl, Executes s c k p [ux a] (p.guardBit g 0) → p.isDraft = false → ea = p.xr a + n.signExtend 64 * 16 →
    s.localCheck c p ea 16 16 true false = .own off → (s.core c).owned (off / 16) = false →
    j ≠ k → Waits s c j q (.ldf h 0 cl m b d) .granule →
    (s.core c).waits = [{
      kind := 0, clr := cl == 1, uid := q.uid, granule := off / 16, since := z, place := pl,
      access := some (.ldf d false (cl == 1)) }] →
    ∃ t r, exec (.setf g n a) s = .next t ∧ t.proc c j = some r ∧ r.retired = q.retired + 1 ∧ r.pc = q.pc + 4 ∧ r.wait = none ∧
      r.xr d = (q.setX d (wordOf ((s.core c).spad.bytes (16 * (off / 16)) 8))).xr d ∧
      (t.slot c j).state = (if (s.core c).halted then .halted else .runnable) ∧
      (t.core c).waits = [] ∧ (t.core c).isFull (off / 16) = (cl != 1)) ∧
  (
  (∀ s k p i till, k = s.ev.k → Waits s s.ev.c k p i (.poll till) → till ≤ s.now →
    exec .granulePollReissue s = .next (s.rejoin s.ev.c k)) ∧
  ∀ s k p i sys, k = s.ev.k → Waits s s.ev.c k p i (.release sys) → p.released sys = true →
    exec .releaseWaitDone s = .next (s.rejoin s.ev.c k))

/-- R122, R264 to R267, R301: a load and a posted store of another core leave as requests; its network interface serves them when
PEERMASK and a window guard admit them; the answer ends the load, and the acknowledgement lowers SACK. -/
def Obligations.RemoteAccesses : Prop :=
  (∀ s c k p i us guard ea n f d e, scalarLoad p i = some (us, guard, ea, n, f, d) → Executes s c k p us guard →
    s.localCheck c p ea n n false true = .remote → s.remoteDest p ea = some e →
    exec i s = .next (((s.countFor c p.uid 9 1).send c e 1 (.access ea (ea.toNat % 2 ^ 18) n none 0 (peerClass c e)
      (s.systemValue c k p .self) { core := c, uid := p.uid })).block c k i .remoteLoad)) ∧
  (∀ s n pk ea off size mask cls self who, Arrived s n pk → s.ev.n = n → pk.body = .access ea off size none mask cls self who →
    mask = 0 → (s.core pk.dst).peermask.getLsbD cls = true → off + size ≤ sysBase pk.dst →
    (s.core pk.dst).guarded (self.extractLsb' 23 12).toNat off size = true → (s.core pk.dst).ownedIn off size = none →
    exec .remoteAccessArrive s = .next ((s.drop n).send pk.dst pk.src 2
      (.loadAns who (some ((s.core pk.dst).spad.bytes off size)) 0))) ∧
  (∀ s n pk who bs st k p i us guard ea m f d, Arrived s n pk → s.ev.n = n → pk.body = .loadAns who (some bs) st →
    Waits s who.core k p i .remoteLoad → p.uid = who.uid → scalarLoad p i = some (us, guard, ea, m, f, d) →
    exec .remoteLoadReply s =
      .next (((s.drop n).retireTo who.core k (f bs) i (p.pc + size i)).rejoin who.core k)) ∧
  ∀ s n pk who ea w h self p, Arrived s n pk → s.ev.n = n → pk.body = .storeAck who 0 ea w h self →
    (s.core who.core).find who.uid = some p → (∀ wt, p.wait = some wt → wt.kind ≠ .sackFull) →
    exec .storeAck s = .next ((s.drop n).modCore who.core fun co => co.modUid who.uid fun q =>
      { q with sack := q.sack - 1, hostp := if h then q.hostp + 1 else q.hostp,
               drain := if ea.getLsbD 63 then q.drain else q.drain.filter fun e => e.1 != w.toNat })

/-- R309, R310, R284: an AMO or CAS other than AMO.store on a legal address with a translation at hand leaves for the home and its
slot waits; a misaligned address raises ALIGN and one in local space BOUND. R301, R310, R312, R292: AMO.store on a legal address
leaves for its home, counted in SACK, and retires at once, or as AMO.store.rel when SACK and the replay queue are clear; behind
a queued store of its page it enters the replay queue instead; its write at the home is acknowledged, and counts in HOSTP at the
host interface unit until it is written back. -/
def Obligations.AtomicsAtIssue : Prop :=
  (
  (∀ s c k p i g m t r, atomicOf p i = some (g, m) → Executes s c k p m.uses (p.guardBit g 0) → (p.isDraft = false ∨ m.op = 0) →
    p.answer ≠ some storeSent → m.addr.toNat % m.bytes = 0 → m.addr.getLsbD 63 = false → (m.rel = true → p.released true = true) →
    p.pageWaits (pageOf m.addr) = false → s.inBoot c = false → s.lookup c p.uid p.ctx.toNat m.addr m.need 0 = some t →
    r = { t.req p.ctx.toNat m.addr with self := some (s.systemValue c k p .self) } →
    exec i s = .next ((((s.spend c p.uid).countRequest c p).sendHome c r
      (.amo r m.op m.wide (if m.op = 0 then 0 else m.v) m.c { core := c, uid := p.uid } false p.readTag)).block c k i .amoReply)) ∧
  ∀ s c k p i g m, atomicOf p i = some (g, m) → Executes s c k p m.uses (p.guardBit g 0) → (p.isDraft = false ∨ m.op = 0) →
    p.answer ≠ some storeSent →
    (m.addr.toNat % m.bytes ≠ 0 → exec i s = .next (s.trapEntry c k p 3 m.addr)) ∧
    (m.addr.toNat % m.bytes = 0 → m.addr.getLsbD 63 = true → exec i s = .next (s.trapEntry c k p 4 m.addr))) ∧
  (
  (∀ s c k p g r w b a n t h v i, Executes s c k p [ux a, ux b] (p.guardBit g 0) → p.isDraft = false → p.draft = none →
    p.answer ≠ some storeSent → n = (if w = 1 then 8 else 4) → i = .amoStore g r w b a →
    (p.xr a).toNat % n = 0 → (p.xr a).getLsbD 63 = false → (r = 1 → p.released true = true) → p.pageQueued (p.xr a) = false →
    p.sack < 32 → s.inBoot c = false → s.lookup c p.uid p.ctx.toNat (p.xr a) needW 0 = some t →
    h = { t.req p.ctx.toNat (p.xr a) with self := some (s.systemValue c k p .self) } →
    v = (((s.spend c p.uid).setProc c k (p.count s.now 10 1)).modCore c fun co => co.modUid p.uid fun q =>
      { q with sack := q.sack + 1 }).sendHome c h (.amo h 1 (w == 1) (BitVec.ofNat 64 ((p.xr b).toNat % 2 ^ (8 * n)))
        (BitVec.ofNat 64 s.now) { core := c, uid := p.uid } true none) →
    (r = 0 → exec i s = .next (v.retireAt c k i)) ∧
    (r = 1 → ∃ q, v.proc c k = some q ∧
      exec i s = .next ((v.setProc c k { q with answer := some storeSent }).block c k i .storeAck))) ∧
  (∀ s c k p g w b a, Executes s c k p [ux a, ux b] (p.guardBit g 0) → p.answer = some storeSent → p.released false = true →
    exec (.amoStore g 1 w b a) s = .next (s.retireTo c k p (.amoStore g 1 w b a) (p.pc + 4))) ∧
  (∀ s c k p g w b a q, Executes s c k p [ux a, ux b] (p.guardBit g 0) → p.isDraft = false → p.draft = none →
    p.answer ≠ some storeSent → (p.xr a).toNat % (if w = 1 then 8 else 4) = 0 → (p.xr a).getLsbD 63 = false → p.replay.length < 8 →
    p.replay.find? (fun e => pageOf e.va == pageOf (p.xr a)) = some q → (∀ e ∈ p.replay, e.born ≤ s.now) →
    ∃ t r, exec (.amoStore g 0 w b a) s = .next t ∧ t.proc c k = some r ∧ r.pc = p.pc + 4 ∧ r.sack = p.sack ∧ r.replay = p.replay ++
      [{ va := p.xr a, data := p.xr b, wide := w == 1, cookie := q.cookie, go := q.go, pc := p.pc, born := s.now }]) ∧
  (∀ s n pk r m wide v c who, Arrived s n pk → s.ev.n = n → pk.body = .amo r 1 wide v c who true none →
    m = (if wide then 8 else 4) → r.ap = 0 → s.lapses (agentDie pk.dst) r.exp = false → s.locked 0 r.pa m = false →
    exec .amoAtHome s = .next (((s.drop n).writePhys 0 r.pa (leBytes (v.toNat % 2 ^ (8 * m)) m)).send pk.dst pk.src 2
      (.storeAck who 0 r.va c false 0))) ∧
  (∀ s n pk r m wide v c who t, Arrived s n pk → s.ev.n = n → pk.body = .amo r 1 wide v c who true none →
    m = (if wide then 8 else 4) → r.ap = 1 ∨ r.ap = 2 → s.lapses (agentDie pk.dst) r.exp = false → s.homeHeld r.ap r.pa m = false →
    t = (s.drop n).writePhys r.ap r.pa (leBytes (v.toNat % 2 ^ (8 * m)) m) →
    exec .amoAtHome s = .next (({ (t.modCore who.core fun co => co.modUid who.uid fun p => { p with hostp := p.hostp + 1 }) with
      hostWrites := t.hostWrites ++ [(who, r.ap, r.pa, leBytes v.toNat m)] } : State).send pk.dst pk.src 2
        (.storeAck who 0 r.va c false 0))) ∧
  ∀ s who ap pa bs, s.hostWrites[s.ev.n]? = some (who, ap, pa, bs) →
    exec .hostWritebackDone s = .next ({ s with hostWrites := s.hostWrites.eraseIdx s.ev.n }.modCore who.core fun co =>
      co.modUid who.uid fun p => { p with hostp := p.hostp - 1 }))

/-- R310, R311: at the home, in one step, the old n bytes are read, the new ones of `atomicWrites` are stored, if any, and the old
value is sent back; the address stored to is the request's. R310, R313: the reply writes the old value, zero-extended, and the
instruction retires; a refusal through APERTURE 3 writes 0 and posts a record with STATUS and the value that the request carried
(R464). R290: a request whose lease has run out at the home is rejected before any effect; a slot that waits for its answer
issues its instruction again, and the rejection is counted. -/
def Obligations.AtomicsAtHome : Prop :=
  (
  ∀ s n pk r m op wide v c who old, Arrived s n pk → s.ev.n = n → pk.body = .amo r op wide v c who false none → op < 15 →
    m = (if wide then 8 else 4) → r.ap < 3 → s.lapses (agentDie pk.dst) r.exp = false → s.homeHeld r.ap r.pa m = false →
    old = ofLe ((s.phys r.ap).bytes r.pa m) →
    exec .amoAtHome s = .next ((match atomicWrites op m old (v.toNat % 2 ^ (8 * m)) (c.toNat % 2 ^ (8 * m)) with
      | some w => (s.drop n).writePhys r.ap r.pa (leBytes w m)
      | none => s.drop n).send pk.dst pk.src 2 (.amoAns who (BitVec.ofNat 64 old)))) ∧
  (
  (∀ s n pk who old k p i g m, Arrived s n pk → s.ev.n = n → pk.body = .amoAns who old → p.uid = who.uid →
    Waits s who.core k p i .amoReply → atomicOf p i = some (g, m) →
    exec .amoReply s =
      .next (((s.drop n).retireTo who.core k (p.setX m.dest old) i (p.pc + 4)).rejoin who.core k)) ∧
  ∀ s n pk who st r data mark self k p i g m, Arrived s n pk → s.ev.n = n → pk.body = .refusal who st r data 0 mark →
    r.self = some self → p.uid = who.uid → Waits s who.core k p i .amoReply → atomicOf p i = some (g, m) →
    exec .aperture3Refusal s = .next (((((s.drop n).post (launchAgent (dieOf (self.extractLsb' 0 13).toNat)) r.ctx
      [BitVec.ofNat 64 (0x14 * 2 ^ 56 + st * 2 ^ 48), self, r.va, data]).retireTo who.core k (p.setX m.dest 0) i
        (p.pc + 4))).rejoin who.core k)) ∧
  (
  ∀ s n pk r op wide v c who tag k p i, s.packet n = some pk → s.ev.n = n → pk.body = .amo r op wide v c who false tag →
    r.ap < 3 → s.lapses (agentDie pk.dst) r.exp = true → p.uid = who.uid → who.core = pk.src → Waits s who.core k p i .amoReply →
    ∃ t, exec .lapseReject s = .next t ∧ t.net = s.net.eraseIdx n ∧ (∀ ap x, (t.phys ap).read x = (s.phys ap).read x) ∧
      (t.core pk.src).lapses = (s.core pk.src).lapses + 1 ∧
      ∃ q, t.proc who.core k = some q ∧ q.wait = none ∧ q.pc = p.pc ∧ q.x = p.x)

/-- R308, R302: FENCE.acq retires; FENCE.rel and FENCE.ar retire when the release wait of their scope is over, and wait in an
unparkable wait otherwise; none changes a register or memory. -/
def Obligations.FencesOrder : Prop :=
  (∀ s c k p g n, Executes s c k p [] (p.guardBit g 0) →
    exec (.fenceAcq g n) s = .next (s.retireTo c k p (.fenceAcq g n) (p.pc + 4))) ∧
  ∀ s c k p g n i, i = .fenceRel g n ∨ i = .fenceAr g n → Executes s c k p [] (p.guardBit g 0) →
    exec i s = .next (if p.released (n == 3) then s.retireTo c k p i (p.pc + 4) else s.block c k i (.release (n == 3)))

/-- R252: NEXTT on a table address and slab word in form leaves for the home of CURSOR; a step one beyond LAST takes the entry at
CURSOR, which moves on, and is kept in VAL; one of the last four gives what was kept; the reply writes the index. -/
def Obligations.TileTableSteps : Prop :=
  (∀ s c k p g q b a d t r, Executes s c k p [ux b, ux a, ux d] (p.guardBit g 0) → p.isDraft = false → (p.er 0).getLsbD 63 = false →
    (p.er 0).extractLsb' 0 6 = 0 → (p.xr b).extractLsb' 8 24 = 0 → p.pageWaits (pageOf (p.er 0)) = false → s.inBoot c = false →
    s.lookup c p.uid p.ctx.toNat (p.er 0) needRmw 0 = some t →
    r = { t.req p.ctx.toNat (p.er 0) with self := some (s.systemValue c k p .self) } →
    exec (.nextt g q b a d) s = .next ((((s.spend c p.uid).countRequest c p).sendHome c r
      (.nextt r ((p.xr b).extractLsb' 32 32).toNat ((p.xr b).extractLsb' 0 8).toNat
        { core := c, uid := p.uid })).block c k (.nextt g q b a d) .nexttReply)) ∧
  (∀ s n pk r step tag who nslab count cursor, Arrived s n pk → s.ev.n = n → pk.body = .nextt r step tag who → r.ap = 0 →
    s.lapses (agentDie pk.dst) r.exp = false → s.locked 0 r.pa 16 = false → nslab = s.hbm.nat (r.pa + 4) 1 → tag < nslab →
    count = s.hbm.nat r.pa 4 → cursor = s.hbm.nat (r.pa + 8) 8 → cursor < count →
    r.pa % 65536 + 64 + 64 * nslab + 4 * count ≤ 65536 →
    (step : Int) = (BitVec.ofNat 64 (s.hbm.nat (r.pa + 64 + 64 * tag) 8)).toInt + 1 →
    ∃ v, v = s.hbm.nat (r.pa + 64 + 64 * nslab + 4 * cursor) 4 ∧
    exec .nexttAtHome s = .next (((((s.drop n).writePhys 0 (r.pa + 8) (leBytes (cursor + 1) 8)).writePhys 0
      (r.pa + 64 + 64 * tag + 8 + 8 * (step % 4)) (leBytes v 8)).writePhys 0 (r.pa + 64 + 64 * tag) (leBytes step 8)).send
        pk.dst pk.src 2 (.nexttAns who 0 (BitVec.ofNat 64 v)))) ∧
  (∀ s n pk r step tag who nslab count last, Arrived s n pk → s.ev.n = n → pk.body = .nextt r step tag who → r.ap = 0 →
    s.lapses (agentDie pk.dst) r.exp = false → s.locked 0 r.pa 16 = false → nslab = s.hbm.nat (r.pa + 4) 1 → tag < nslab →
    count = s.hbm.nat r.pa 4 → r.pa % 65536 + 64 + 64 * nslab + 4 * count ≤ 65536 →
    last = (BitVec.ofNat 64 (s.hbm.nat (r.pa + 64 + 64 * tag) 8)).toInt → last - 3 ≤ step → (step : Int) ≤ last →
    exec .nexttAtHome s = .next ((s.drop n).send pk.dst pk.src 2 (.nexttAns who 0
      (BitVec.ofNat 64 (s.hbm.nat (r.pa + 64 + 64 * tag + 8 + 8 * (step % 4)) 4))))) ∧
  ∀ s n pk who v k p g q b a d, Arrived s n pk → s.ev.n = n → pk.body = .nexttAns who 0 v → p.uid = who.uid →
    Waits s who.core k p (.nextt g q b a d) .nexttReply →
    exec .amoReply s = .next (((s.drop n).retireTo who.core k (if q = 1 then (p.setX d v).setX a 0 else p.setX d v)
      (.nextt g q b a d) (p.pc + 4)).rejoin who.core k)

/-- R134, R138, R139, R125: each integer, logic and lane-move form gives the value of `integerLanes` in every active lane; the other
lanes of v[D], FSTAT and every other register stay. -/
def Obligations.IntegerVectorResults : Prop :=
  ∀ s c k p i l, integerLanes p i = some l → Executes s c k p l.uses (p.anyActive l.g l.w) →
    ∃ v, exec i s = .next (s.retireTo c k (p.setV l.dest v) i (p.pc + 4)) ∧
      ∀ j, j < 256 / l.w → laneOf v l.w j = if p.active l.g l.w j then l.f j else laneOf (p.vr l.dest) l.w j

/-- R129, R131, R16, R125: each pipelined floating-point form gives the rounded value of `floatLanes` in every active lane and
raises the flags of the active lanes, and changes nothing else. R129, R131, R132: VDIV, VSQRT and the seed forms write the
rounded quotient, root or seed in every active lane and raise the lanes' flags. -/
def Obligations.FloatVectorResults : Prop :=
  (
  ∀ s c k p i l, floatLanes p i = some l → Executes s c k p l.uses (p.anyActive l.g l.fmt.width) →
    ∃ q, exec i s = .next (s.retireTo c k q i (p.pc + 4)) ∧ FloatResult p q l) ∧
  (
  ∀ s p i l till, slowLanes p i = some l → Waits s s.ev.c s.ev.k p i (.vecRun till) → till ≤ s.now → p.anyActive l.g l.fmt.width = true →
    ∃ t q, exec .vectorResult s = .next t ∧ t.proc s.ev.c s.ev.k = some q ∧ FloatResult p q l)

/-- R135: VCMP writes to every bit of each active lane's part of pd whether the comparison holds, and 0 for the inactive ones. R42,
R136 to R138: VSEL takes v[A] or v[B] lane by lane, VGET and VINS move one lane, and VCVT converts its elements in order; what
they do not write stays. -/
def Obligations.LaneMoveResults : Prop :=
  (
  ∀ s c k p g cond w b a l (d : BitVec 3), Executes s c k p [uv b, uv a] (p.anyActive g (wBits w.toNat)) →
    ∃ q, exec (.vcmp g cond w b a l d) s = .next (s.retireTo c k q (.vcmp g cond w b a l d) (p.pc + 4)) ∧
      p.Keeps q [.p d, .fstat] ∧
      (d ≠ 0 → ∀ j n, j < 256 / wBits w.toNat → n < wBits w.toNat / 8 →
        (q.pr d).getLsbD (wBits w.toNat / 8 * j + n) = (p.active g (wBits w.toNat) j &&
          (cmpLane l w cond (p.laneNat a (wBits w.toNat) j) (p.laneNat b (wBits w.toNat) j) p.fp).1))) ∧
  (
  (∀ s c k p g n b a d, Executes s c k p [uv b, uv a, uv d] true →
    ∃ v, exec (.vsel g n b a d) s = .next (s.retireTo c k (p.setV d v) (.vsel g n b a d) (p.pc + 4)) ∧
      ∀ j, j < 256 / wBits n.toNat → laneOf v (wBits n.toNat) j =
        if p.active g (wBits n.toNat) j then laneOf (p.vr a) (wBits n.toNat) j else laneOf (p.vr b) (wBits n.toNat) j) ∧
  (∀ s c k p g n j a d, Executes s c k p [uv a, ux d] (p.active g (wBits n.toNat) j.toNat) →
    exec (.vget g n j a d) s = .next (s.retireTo c k (p.setX d ((laneOf (p.vr a) (wBits n.toNat) j.toNat).setWidth 64))
      (.vget g n j a d) (p.pc + 4))) ∧
  (∀ s c k p g n j a d, Executes s c k p [ux a, uv d] (p.active g (wBits n.toNat) j.toNat) →
    ∃ v, exec (.vins g n j a d) s = .next (s.retireTo c k (p.setV d v) (.vins g n j a d) (p.pc + 4)) ∧
      ∀ l, l < 256 / wBits n.toNat → laneOf v (wBits n.toNat) l =
        if l = j.toNat then (p.xr a).setWidth _ else laneOf (p.vr d) (wBits n.toNat) l) ∧
  ∀ s c k p g r (t st : BitVec 4) a d w, w = max (tcBits st.toNat) (tcBits t.toNat) → r ≠ 4 →
    Executes s c k p [uv a, uv d] (p.anyActive g w) →
    ∃ q, exec (.vcvt g r t st a d) s = .next (s.retireTo c k q (.vcvt g r t st a d) (p.pc + 4)) ∧ p.Keeps q [.v d, .fstat] ∧
      ∀ j, j < 256 / tcBits t.toNat → q.laneNat d (tcBits t.toNat) j =
        if j < 256 / w ∧ p.active g w j = true then
          (convert st.toNat t.toNat r.toNat (p.laneNat a (tcBits st.toNat) j) p.fp).1
        else p.laneNat d (tcBits t.toNat) j)

/-- R124, R147: a timed vector instruction leaves the rotation, for its unit if it needs one, in issue order; when its cycles are
over it writes its result, frees its unit and rejoins the rotation. R141 to R144: an integer VREDS or VDOT adds the active
lanes, or their products, to x[D] modulo 2^64; VREDM folds the smallest or largest active lane with x[D]; an integer VSCAN
writes running sums; VSORT orders the active lanes, stably, before the others. -/
def Obligations.TimedVectors : Prop :=
  (
  (∀ s c k p i guard us n, timedVector p i = some (guard, us, n) → Executes s c k p us guard →
    exec i s = .next (s.block c k i (.vecRun (s.now + n)))) ∧
  (∀ s c k p i guard us n, unitVector p i = some (guard, us, n, 0) → Executes s c k p us guard →
    exec i s = .next (
      if (s.core c).vdiv = none ∧ (s.core c).vdivq = [] then
        (s.setCore c { s.core c with vdiv := some p.uid }).block c k i (.vecRun (s.now + n))
      else (s.setCore c { s.core c with vdivq := (s.core c).vdivq.filter (· != p.uid) ++ [p.uid] }).block c k i (.vecQueue 0))) ∧
  (∀ s c k p i guard us n, unitVector p i = some (guard, us, n, 1) → Executes s c k p us guard →
    exec i s = .next (
      if (s.core c).sorter = none ∧ (s.core c).sortq = [] then
        (s.setCore c { s.core c with sorter := some p.uid }).block c k i (.vecRun (s.now + n))
      else (s.setCore c { s.core c with sortq := (s.core c).sortq.filter (· != p.uid) ++ [p.uid] }).block c k i (.vecQueue 1))) ∧
  (∀ s k p i guard us n unit u rest, unitVector p i = some (guard, us, n, unit) → s.ev.k = unit → u = p.uid →
    (if unit = 0 then (s.core s.ev.c).vdiv = none ∧ (s.core s.ev.c).vdivq = u :: rest
     else (s.core s.ev.c).sorter = none ∧ (s.core s.ev.c).sortq = u :: rest) →
    Waits s s.ev.c k p i (.vecQueue unit) →
    ∃ t q, exec .vectorUnitGrant s = .next t ∧ t.proc s.ev.c k = some q ∧
      q.wait = some { instr := i, kind := .vecRun (s.now + n) } ∧
      (if unit = 0 then (t.core s.ev.c).vdiv = some u ∧ (t.core s.ev.c).vdivq = rest
       else (t.core s.ev.c).sorter = some u ∧ (t.core s.ev.c).sortq = rest)) ∧
  ∀ s p i till, ((timedVector p i).isSome ∨ (unitVector p i).isSome) → Waits s s.ev.c s.ev.k p i (.vecRun till) → till ≤ s.now →
    ∃ q t, exec .vectorResult s = .next t ∧ t.proc s.ev.c s.ev.k = some q ∧ q.pc = p.pc + 4 ∧ q.retired = p.retired + 1 ∧
      q.wait = none ∧ p.Keeps q (vectorWrites i) ∧ s.SameMemory t ∧
      (t.core s.ev.c).vdiv ≠ some p.uid ∧ (t.core s.ev.c).sorter ≠ some p.uid) ∧
  (
  (∀ s p till g (t : BitVec 4) a d, t.toNat < 8 → Waits s s.ev.c s.ev.k p (.vreds g t a d) (.vecRun till) → till ≤ s.now → d ≠ 0 →
    ∃ u q, exec .vectorResult s = .next u ∧ u.proc s.ev.c s.ev.k = some q ∧
      q.xr d = p.xr d + BitVec.ofInt 64 (((List.range (256 / tcBits t.toNat)).map fun j =>
        if p.active g (tcBits t.toNat) j then tcInt t.toNat (p.laneNat a (tcBits t.toNat) j) else 0).sum)) ∧
  (∀ s p till g (t : BitVec 4) b a d, t.toNat < 8 → Waits s s.ev.c s.ev.k p (.vdot g t b a d) (.vecRun till) → till ≤ s.now → d ≠ 0 →
    ∃ u q, exec .vectorResult s = .next u ∧ u.proc s.ev.c s.ev.k = some q ∧
      q.xr d = p.xr d + BitVec.ofInt 64 (((List.range (256 / tcBits t.toNat)).map fun j =>
        if p.active g (tcBits t.toNat) j then
          tcInt t.toNat (p.laneNat a (tcBits t.toNat) j) * tcInt t.toNat (p.laneNat b (tcBits t.toNat) j) else 0).sum)) ∧
  (∀ s p till g (t : BitVec 4) m a d, t.toNat < 4 → Waits s s.ev.c s.ev.k p (.vredm g t m a d) (.vecRun till) → till ≤ s.now → d ≠ 0 →
    ∃ u q, exec .vectorResult s = .next u ∧ u.proc s.ev.c s.ev.k = some q ∧
      ((q.xr d = p.xr d ∨ ∃ j, j < 256 / tcBits t.toNat ∧ p.active g (tcBits t.toNat) j = true ∧
        (q.xr d).toInt = tcInt t.toNat (p.laneNat a (tcBits t.toNat) j)) ∧
      ∀ j, j < 256 / tcBits t.toNat → p.active g (tcBits t.toNat) j = true →
        if m = 1 then tcInt t.toNat (p.laneNat a (tcBits t.toNat) j) ≤ (q.xr d).toInt
        else (q.xr d).toInt ≤ tcInt t.toNat (p.laneNat a (tcBits t.toNat) j))) ∧
  (∀ s p till g (t : BitVec 4) a d, t.toNat < 8 → Waits s s.ev.c s.ev.k p (.vscan g t a d) (.vecRun till) → till ≤ s.now →
    ∃ u q, exec .vectorResult s = .next u ∧ u.proc s.ev.c s.ev.k = some q ∧
      ∀ j, j < 256 / tcBits t.toNat → q.laneNat d (tcBits t.toNat) j =
        if p.active g (tcBits t.toNat) j then ((List.range (j + 1)).map fun l =>
          if p.active g (tcBits t.toNat) l then p.laneNat a (tcBits t.toNat) l else 0).sum % 2 ^ tcBits t.toNat
        else p.laneNat d (tcBits t.toNat) j) ∧
  ∀ s p till g e kv (t : BitVec 4) b a d n, n = 256 / tcBits t.toNat → kv = 0 →
    Waits s s.ev.c s.ev.k p (.vsort g e kv t b a d) (.vecRun till) → till ≤ s.now →
    ∃ u q, exec .vectorResult s = .next u ∧ u.proc s.ev.c s.ev.k = some q ∧
      ((List.range n).map (q.laneNat d (tcBits t.toNat))).Perm ((List.range n).map (p.laneNat a (tcBits t.toNat))) ∧
      ∀ j l, j < l → l < ((List.range n).filter fun j => p.active g (tcBits t.toNat) j).length →
        rankLess (sortRank t.toNat (e == 1) (q.laneNat d (tcBits t.toNat) l))
          (sortRank t.toNat (e == 1) (q.laneNat d (tcBits t.toNat) j)) = false)

/-- R153, R154, R156, R302: RINIT defines a ring from its word, RADV.head pops and RADV.tail, a release, fills slots modulo COUNT,
RSTAT writes the snapshot word; RADV traps with CLOSED on an undefined ring, DEAD on a failed one and REFUSED on too large a
count. R155: RWAIT writes the address of the head or the tail slot once the count is reached, and blocks otherwise. -/
def Obligations.RingResults : Prop :=
  (
  (∀ s c k p g q a j r w, Executes s c k p [(2, q.toNat), ux a] (p.guardBit g 0) → p.rings[q.toNat]? = some j → s.ring c j = some r →
    w = p.xr a → w.extractLsb' 32 32 = 0 → w.extractLsb' 10 6 = 0 → 1 ≤ (w.extractLsb' 24 7).toNat → (w.extractLsb' 24 7).toNat ≤ 64 →
    w.extractLsb' 16 8 ≠ 0 →
    256 * ((w.extractLsb' 0 10).toNat + (w.extractLsb' 16 8).toNat * (w.extractLsb' 24 7).toNat) ≤ p.wsize →
    (r.defd = false ∨ r.claimed = 0 ∧ r.unfwd = 0 ∧ r.credit = none ∧ s.sinkCredit r = false) →
    exec (.rinit g q a) s = .next ((s.setRing c j { r with
        defd := true, ext := w.getLsbD 31, count := (w.extractLsb' 24 7).toNat, ssize := (w.extractLsb' 16 8).toNat,
        base := (w.extractLsb' 0 10).toNat, sink := 0, dir := 0, ferr := false, tag := 0, head := 0, tail := 0, fhead := 0, filled := 0,
        claimed := 0, unfwd := 0, busy := 0, claims := [], credit := none, lost := false }).retireTo c k p (.rinit g q a)
        (p.pc + 4))) ∧
  (∀ s c k p g q a j r n, Executes s c k p [(2, q.toNat), ux a] (p.guardBit g 0) → s.ringOf c p q.toNat = some (j, r) →
    r.ferr = false → r.head < r.count → n = (p.xr a).toNat → n ≤ r.filled →
    ∃ r', exec (.radvHead g q a) s = .next ((s.setRing c j r').retireTo c k p (.radvHead g q a) (p.pc + 4)) ∧
      r'.head = (r.head + n) % r.count ∧ r'.filled = r.filled - n ∧
      (r.unfwd = 0 → n ≤ r.busy → r'.busy = r.busy - n) ∧ r'.tail = r.tail ∧ r'.fhead = r.fhead ∧ r'.unfwd = r.unfwd) ∧
  (∀ s c k p g q a j r n, Executes s c k p [(2, q.toNat), ux a] (p.guardBit g 0) → s.ringOf c p q.toNat = some (j, r) →
    r.ferr = false → r.ext = false → r.tail < r.count → n = (p.xr a).toNat → n ≤ r.count - r.busy →
    exec (.radvTail g q a) s = .next (if p.released false then (s.setRing c j { r with
        tail := (r.tail + n) % r.count, filled := r.filled + n, busy := r.busy + n,
        unfwd := if r.dir = 0 then r.unfwd else r.unfwd + n }).retireTo c k p (.radvTail g q a) (p.pc + 4)
      else s.block c k (.radvTail g q a) (.release false))) ∧
  (∀ s c k p g q d j r, Executes s c k p [(2, q.toNat), ux d] (p.guardBit g 0) → s.ringOf c p q.toNat = some (j, r) →
    exec (.rstat g q d) s = .next (s.retireTo c k (p.setX d (0#9 ++ BitVec.ofBool r.ferr ++ BitVec.ofNat 2 r.dir ++
      BitVec.ofNat 2 r.sink ++ BitVec.ofBool r.ext ++ 1#1 ++ 0#2 ++ BitVec.ofNat 6 r.tail ++ 0#2 ++ BitVec.ofNat 6 r.head ++ 0#1 ++
      BitVec.ofNat 7 r.unfwd ++ 0#1 ++ BitVec.ofNat 7 r.claimed ++ 0#1 ++ BitVec.ofNat 7 (r.count - r.busy) ++ 0#1 ++
      BitVec.ofNat 7 r.filled)) (.rstat g q d) (p.pc + 4))) ∧
  ∀ s c k p g q a, Executes s c k p [(2, q.toNat), ux a] (p.guardBit g 0) →
    (s.ringOf c p q.toNat = none →
      exec (.radvHead g q a) s = .next (s.trapEntry c k p 7 (BitVec.ofNat 64 (q.toNat * 256 + 4)))) ∧
    (∀ j r, s.ringOf c p q.toNat = some (j, r) → r.ferr = true →
      exec (.radvHead g q a) s = .next (s.trapEntry c k p 7 (BitVec.ofNat 64 (q.toNat * 256 + 1)))) ∧
    ∀ j r, s.ringOf c p q.toNat = some (j, r) → r.ferr = false → r.filled < (p.xr a).toNat →
      exec (.radvHead g q a) s = .next (s.trapEntry c k p 7 (BitVec.ofNat 64 (q.toNat * 256 + 2)))) ∧
  (
  ∀ s c k p i g q a d j r slot n tail, (i = .rwaitHead g q a d ∧ tail = false ∨ i = .rwaitTail g q a d ∧ tail = true) →
    Executes s c k p [(2, q.toNat), ux a, ux d] (p.guardBit g 0) → s.ringOf c p q.toNat = some (j, r) → r.ferr = false →
    (tail = true → r.ext = false) → (p.xr a).toNat ≤ r.count →
    n = (if tail then r.count - r.busy else r.filled) → slot = (if tail then r.tail else r.head) →
    exec i s = .next (if (p.xr a).toNat ≤ n then
      s.retireTo c k (p.setX d (s.localAddr p.vcore.toNat (p.wbase + 256 * r.base + 256 * r.ssize * slot))) i (p.pc + 4)
      else s.block c k i .ring))

/-- R178: SLAB on a compute core stores TAG, SINK and DIR of a defined ring that none of its refusals concerns, and clears FERR; a
reserved value or bit raises CHANNEL with REFUSED. R179, R180: the matching sink with a free slot at least as large grants a
credit and claims the slot; the copy is sent against the credit, written into the slot granted, which is then filled, and
acknowledged; on the acknowledgement the source goes on to its next slot; a source whose sink is lost becomes FERR. R275, R324:
a claim that passes the checks of the ring's core waits there in arrival order and takes the tail slot of an EXT ring with a
free one; a failed check is answered with its status; the answer lets the copy or HPUSH go on. -/
def Obligations.RingForwarding : Prop :=
  (
  (∀ s c k p g q a j r w, isMemCore c = false → Executes s c k p [(2, q.toNat), ux a] (p.guardBit g 0) → p.isDraft = false → w = p.xr a →
    s.ringOf c p q.toNat = some (j, r) → s.slabRefused c p j r w.toNat = false →
    ∃ r', exec (.slab g q a) s = .next ((s.setRing c j r').retireTo c k p (.slab g q a) (p.pc + 4)) ∧
      r'.tag = (w.extractLsb' 8 8).toNat ∧ r'.sink = (w.extractLsb' 2 2).toNat ∧ r'.dir = (w.extractLsb' 0 2).toNat ∧ r'.ferr = false ∧
      r'.head = r.head ∧ r'.tail = r.tail ∧ r'.filled = r.filled ∧ r'.busy = r.busy) ∧
  ∀ s c k p g q a j r w, isMemCore c = false → Executes s c k p [(2, q.toNat), ux a] (p.guardBit g 0) → p.isDraft = false → w = p.xr a →
    s.ringOf c p q.toNat = some (j, r) →
    (w.extractLsb' 16 48 ≠ 0 ∨ w.extractLsb' 4 4 ≠ 0 ∨ w.extractLsb' 2 2 = 3 ∨ w.extractLsb' 0 2 = 3 ∨
      w.extractLsb' 2 2 ≠ 0 ∧ r.ext = false ∨ r.unfwd ≠ 0) →
    exec (.slab g q a) s = .next (s.trapEntry c k p 7 (BitVec.ofNat 64 (q.toNat * 256 + 2)))) ∧
  (
  (∀ s j d l r t, s.ring s.ev.c s.ev.n = some r → j = s.ev.n → s.sinkOf s.ev.c r = some (d, l, t) → (d, l) ≠ (s.ev.c, j) →
    r.dir ≠ 0 → r.ferr = false → r.unfwd ≠ 0 → r.credit = none → r.lost = false → t.busy < t.count → r.ssize ≤ t.ssize →
    (s.core d).peermask.getLsbD (peerClass s.ev.c d) = true →
    exec .forwardCreditGrant s = .next ((s.setRing d l { t with
        tail := t.wrap (t.tail + 1), claimed := t.claimed + 1, busy := t.busy + 1, claims := t.claims ++ [(t.tail, false)] }).setRing
      s.ev.c j { r with credit := some (ringPlace t.name t.tail, false) })) ∧
  (∀ s r p d place, s.ring s.ev.c s.ev.n = some r → r.credit = some (place, false) → (s.core s.ev.c).ringOwner r = some p →
    s.sinkCore s.ev.c r = some d →
    exec .forwardSend s = .next ((s.setRing s.ev.c s.ev.n { r with credit := some (place, true) }).send s.ev.c d 3
      (.fwdData { core := s.ev.c, id := r.name } place
        ((s.core s.ev.c).spad.bytes (p.wbase + 256 * r.base + 256 * r.ssize * r.fhead) (256 * r.ssize))))) ∧
  (∀ s n pk src place data d j t slot p, Arrived s n pk → s.ev.n = n → pk.body = .fwdData src place data →
    s.ringAt place = some (d, j, t, slot) → (s.core d).ringOwner t = some p →
    exec .forwardDataArrive s = .next ((((s.drop n).modCore d fun co =>
      { co with spad := co.spad.put (p.wbase + 256 * t.base + 256 * t.ssize * slot) data }).setRing d j (t.complete slot)).send d pk.src 2
        (.fwdAck src))) ∧
  (∀ s n pk src j r p credit, Arrived s n pk → s.ev.n = n → pk.body = .fwdAck src → (s.core src.core).ringNamed src.id = some (j, r) →
    (s.core src.core).ringOwner r = some p → r.credit = some credit →
    ∃ t, exec .forwardAck s = .next t ∧ t.net = s.net.eraseIdx n ∧ (∀ c, (t.core c).spad = (s.core c).spad) ∧
      t.ring src.core j = some { r with
        fhead := r.wrap (r.fhead + 1), unfwd := r.unfwd - 1, busy := if r.filled < r.unfwd then r.busy - 1 else r.busy,
        credit := none }) ∧
  ∀ s r p, s.ring s.ev.c s.ev.n = some r → (s.core s.ev.c).ringOwner r = some p → r.ferr = false → r.dir ≠ 0 → r.lost = true →
    r.credit = none →
    ∃ t r', exec .forwardFailure s = .next t ∧ t.ring s.ev.c s.ev.n = some r' ∧ r'.ferr = true ∧ r'.unfwd = 0 ∧
      r'.fhead = r.wrap (r.fhead + r.unfwd) ∧ t.net = s.net) ∧
  (
  (∀ s n pk ring ctx len cls third job memop j r, Arrived s n pk → s.ev.n = n →
    pk.body = .ringClaim ring ctx len cls third job memop → (s.core pk.dst).savedTarget ring = false →
    s.claimCheck pk.dst ring ctx len cls third = (0, j) → s.ring pk.dst j = some r →
    exec .ringClaimArrive s = .next ((s.drop n).setRing pk.dst j { r with queue := r.queue ++ [(len, job, memop)] })) ∧
  (∀ s n pk ring ctx len cls third job memop, Arrived s n pk → s.ev.n = n →
    pk.body = .ringClaim ring ctx len cls third job memop → (s.core pk.dst).savedTarget ring = false →
    (s.core pk.dst).peermask.getLsbD cls = false →
    exec .ringClaimArrive s = .next ((s.drop n).send pk.dst pk.src 0 (.ringAns job memop 5 0))) ∧
  (∀ s r len job memop rest, s.ring s.ev.c s.ev.n = some r → r.queue = (len, job, memop) :: rest → r.busy < r.count → r.defd = true →
    exec .ringClaimGrant s = .next (
      if r.ext = true ∧ len ≤ 256 * r.ssize then (s.setRing s.ev.c s.ev.n { r with
        tail := r.wrap (r.tail + 1), claimed := r.claimed + 1, busy := r.busy + 1, claims := r.claims ++ [(r.tail, false)],
        queue := rest }).send s.ev.c job.core 0 (.ringAns job memop 0 (ringPlace r.name r.tail))
      else (s.setRing s.ev.c s.ev.n { r with queue := rest }).send s.ev.c job.core 0
        (.ringAns job memop (if r.ext = true then 2 else 5) 0))) ∧
  ∀ s n pk job place cp, Arrived s n pk → s.ev.n = n → pk.body = .ringAns job false 0 place → cp ∈ (s.core job.core).copies →
    cp.id = job.id → cp.claim = 2 →
    ∃ t, exec .ringClaimAnswer s = .next t ∧ { cp with claim := 3, slot := place } ∈ (t.core job.core).copies)

/-- R161, R169: TSCL writes the fields of its z register; a tile instruction whose accumulator and activation table lie in the
window and whose rings are defined, large enough and, for a destination, internal, leaves the rotation and waits for acceptance.
R162, R163, R460, R461: the oldest waiting instruction is accepted when its sources have a filled slot and its destination a
free one, which it claims; the head of the queue starts, or waits for the governor when the unit has been idle; a grant starts
it. R163 to R165: a tile instruction that completes changes only the bytes of its accumulator or destination slot, leaves the
queue and retires its process, whose flags alone may change; its source slots are popped and its destination slot is filled.
R168, R173, R177: TZERO writes zeros; TMMA on 8-bit integers adds to each 32-bit element the sum of products of its row and
column; TTRN writes each element to the transposed place. -/
def Obligations.TileUnit : Prop :=
  (
  (∀ s c k p g z a, isMemCore c = false → Executes s c k p [ux a] (p.guardBit g 0) →
    exec (.tscl g z a) s = .next (s.retireTo c k { p with z := p.z.set z.toNat (p.xr a &&& zMask z.toNat) } (.tscl g z a) (p.pc + 4))) ∧
  ∀ s c k p i g us u, tileForms i = some (g, us) → isMemCore c = false → Executes s c k p us (p.guardBit g 0) → u = tileUse p.z i →
    (∀ a, u.acc = some a → 1024 * (a + 1) ≤ p.wsize) → (u.act = true → zToff p.z + 2048 ≤ p.wsize) →
    (∀ r ∈ u.srcs, ∃ j q, s.ringOf c p r.ring = some (j, q) ∧ r.size ≤ 256 * q.ssize) →
    (∀ r, u.dst = some r → ∃ j q, s.ringOf c p r.ring = some (j, q) ∧ r.size ≤ 256 * q.ssize ∧ q.ext = false) →
    exec i s = .next ((s.modCore c fun co => { co with tilew := co.tilew ++ [p.uid] }).block c k i .tileWait)) ∧
  (
  (∀ s c k p i us u, c = s.ev.c → (s.core c).tilew = p.uid :: us → Waits s c k p i .tileWait → u = tileUse p.z i →
    (∀ r ∈ u.srcs, ∃ j q, s.ringOf c p r.ring = some (j, q) ∧ q.filled ≠ 0) →
    (∀ r, u.dst = some r → ∃ j q, s.ringOf c p r.ring = some (j, q) ∧ q.busy < q.count) →
    (s.core c).tileUsed s.now < 2 → (∀ op ∈ (s.core c).tileq, op.start ≠ s.now + 1) →
    ∃ t op q, exec .tileAccept s = .next t ∧ (t.core c).tileq = (s.core c).tileq ++ [op] ∧ (t.core c).tilew = us ∧
      op.uid = p.uid ∧ op.instr = i ∧ op.z = p.z ∧ op.start = s.now + 1 ∧ op.till = none ∧
      t.proc c k = some q ∧ q.wait = some { instr := i, kind := .tileRun } ∧ q.pc = p.pc ∧
      ∀ r j d, u.dst = some r → s.ringOf c p r.ring = some (j, d) → op.slot = d.tail ∧ t.ring c j = some d.claim.1) ∧
  (∀ s c op rest, c = s.ev.c → (s.core c).tileq = op :: rest → op.till = none → op.held = none → op.start ≤ s.now →
    (s.core c).tileEnd ≤ s.now → (∀ w, (s.core c).tileWake = some w → w ≤ s.now) →
    exec .tileStart s = .next (s.setCore c (
      if (s.core c).tileEnd = 0 ∨ (s.core c).tileEnd + 256 ≤ s.now then
        { s.core c with tileq := { op with held := some s.now } :: rest }
      else { s.core c with
        tileq := { op with till := some (s.now + tileCycles op.instr - 1), held := none } :: rest, tileWake := none }))) ∧
  ∀ s d c z g, d = s.ev.c → s.firstHeld (s.heldCores d) = some (z, c) → g = (s.die d).grants.filter (fun t => s.now < t + 128) →
    g.length < (if (s.die d).hot then 16 else 64) →
    exec .tileActivationGrant s =
      .next ((s.modDie d fun e => { e with grants := g ++ [s.now] }).modCore c fun co => co.tileBegin s.now)) ∧
  (
  ∀ s c k p op rest g us, c = s.ev.c → (s.core c).tileq = op :: rest → (∃ t, op.till = some t ∧ t ≤ s.now) → op.uid = p.uid →
    tileForms op.instr = some (g, us) → Waits s c k p op.instr .tileRun →
    (∀ r ∈ s.tileReads c p op, (s.core c).ownedIn r.1 r.2 = none) →
    ∃ t q, exec .tileComplete s = .next t ∧ (t.core c).tileq = rest ∧ (t.core c).tileEnd = s.now + 1 ∧
      t.proc c k = some q ∧ q.pc = p.pc + 4 ∧ q.retired = p.retired + 1 ∧ q.wait = none ∧ p.Keeps q [.fstat] ∧
      (∀ a, a < (s.tileTarget c p op).1 ∨ (s.tileTarget c p op).1 + (s.tileTarget c p op).2 ≤ a →
        (t.core c).spad.read a = (s.core c).spad.read a) ∧
      (∀ d, d ≠ c → t.core d = s.core d) ∧ (∀ ap a, (t.phys ap).read a = (s.phys ap).read a) ∧
      ∀ r j f, (tileUse op.z op.instr).dst = none → (tileUse op.z op.instr).srcs = [r] → s.ringOf c p r.ring = some (j, f) →
        t.ring c j = some f.pop) ∧
  (
  ∀ s c k p op rest g us t, c = s.ev.c → (s.core c).tileq = op :: rest → (∃ t, op.till = some t ∧ t ≤ s.now) → op.uid = p.uid →
    tileForms op.instr = some (g, us) → Waits s c k p op.instr .tileRun →
    (∀ r ∈ s.tileReads c p op, (s.core c).ownedIn r.1 r.2 = none) → exec .tileComplete s = .next t →
    (match op.instr with
     | .tzero _ a => ∀ n, n < 1024 → (t.core c).spad.read ((p.accAt a.toNat).getD 0 + n) = 0
     | .tmma _ f a qb qa => (f = 6 ∨ f = 7) → ∀ i j, i < 16 → j < 16 →
        ((t.core c).spad.nat ((p.accAt a.toNat).getD 0 + 4 * (16 * i + j)) 4 : Int) =
          (((s.core c).spad.nat ((p.accAt a.toNat).getD 0 + 4 * (16 * i + j)) 4 : Int) +
            ((List.range 64).map fun n =>
              let a := (s.core c).spad.read (s.headAt c p qa.toNat + 64 * i + n)
              let b := (s.core c).spad.read (s.headAt c p qb.toNat + 64 * j + n)
              if f = 6 then a.toInt * b.toInt else (a.toNat * b.toNat : Int)).sum) % 2 ^ 32
     | .ttrn _ f qs qd => ∀ r l n m z, (m, n) = ttrnShape f.toNat → z = tcBits f.toNat / 8 → r < m → l < n →
        (t.core c).spad.bytes (s.destAt c p qd.toNat op.slot + z * (l * m + r)) z =
          (s.core c).spad.bytes (s.headAt c p qs.toNat + z * (r * n + l)) z
     | _ => True))

/-- R182, R183, R230: a SPAWN of a valid target, outside a draft and after its release, sends a record and waits, or has a launch of
another package count the process first; the target takes the record once it has room and its header can be read, refusing a
privileged header of an unprivileged issuer, and its launch counts it; the answer is the status. R24, R28, R149, R184, R199: a
spawn record takes an empty slot: its process has the lowest free window, its descriptors and ports, and the entry, registers
and privilege of its header; when the window is clear, zero and full, the process becomes runnable. -/
def Obligations.Spawns : Prop :=
  (
  (∀ (s : State) c k p g q d v pkg e, Executes s c k p [ux d] (p.guardBit g 0) → p.isDraft = false →
    v = ((p.er 1).extractLsb' 0 13).toNat →
    pkg = ((p.er 1).extractLsb' 13 10).toNat → (p.er 1).extractLsb' 27 5 = 0 → (p.er 1).getLsbD 23 = false →
    (p.er 0).extractLsb' 0 6 = 0 → (v < 3968 ∨ 4096 ≤ v ∧ v < 4352) → s.inDomain pkg = true →
    p.released (pkg != s.pkgid.toNat) = true → s.dest pkg v = some e →
    exec (.spawn g q d) s = .next (
      let sent := fun t : State => t.send c e 4 (.spawnReq (p.er 0) [p.er 2, p.er 3, p.er 4, p.er 5]
        ((p.er 1).extractLsb' 32 32).toNat p.ctx.toNat
        (if (p.er 1).getLsbD 26 then ((p.er 1).extractLsb' 24 2).toNat else p.prio.toNat)
        (p.launch.toList ++ p.record.above) p.priv { core := c, uid := p.uid })
      State.block (match p.launch with
        | none => sent s
        | some id =>
          if idPkg id ≠ s.pkgid.toNat then
            s.sendTo c (s.dest (idPkg id) (launchAgent (idDie id))) 0 (.launchJoin id 2 0 { core := c, uid := p.uid })
          else if pkg = s.pkgid.toNat then sent s
          else sent (s.modLaunch id fun r => { r with counter := r.counter + 1, far := true })) c k (.spawn g q d) .spawnAns)) ∧
  (∀ s n pk hdr a0 a1 a2 a3 index ctx prio line priv who h u, Arrived s n pk → s.ev.n = n →
    pk.body = .spawnReq hdr [a0, a1, a2, a3] index ctx prio line priv who → (s.core pk.dst).queue.length < 128 →
    s.readHeader pk.dst ctx hdr = .ok (some h) u → u.fenced pk.dst = false → u.cancelling line.head? = false →
    if (h[2].getLsbD 3 = true) ∧ priv = false then
      exec .spawnRecordAccept s = .next ((u.drop n).send pk.dst pk.src 0 (.spawnAns who 5))
    else ∃ t r, exec .spawnRecordAccept s = .next t ∧ (t.core pk.dst).queue = (u.core pk.dst).queue ++ [r] ∧ r.hdr = hdr ∧
      r.args = #v[a0, a1, a2, a3] ∧ r.exact = false ∧ r.header = some h ∧ r.launch = line.head? ∧ r.above = line.tail ∧
      r.since = u.now ∧
      (ctx < 4096 → r.ctx.toNat = ctx) ∧ (prio < 4 → r.prio.toNat = prio) ∧ (index < 2 ^ 32 → r.index.toNat = index) ∧
      t.net = u.net.eraseIdx n ++ [{ src := pk.dst, dst := pk.src, vc := 0, since := u.now, body := .spawnAns who 0 }] ∧
      ∀ id l, line.head? = some id → pk.src < 65536 → u.launchRec id = some l →
        t.launchRec id = some { l with counter := l.counter + 1 }) ∧
  ∀ s n pk who st k p g d, Arrived s n pk → s.ev.n = n → pk.body = .spawnAns who st → p.uid = who.uid →
    Waits s who.core k p (.spawn g 1 d) .spawnAns →
    (st = 0 ∨ ∀ id, p.launch = some id → idPkg id = s.pkgid.toNat ∧ ((p.er 1).extractLsb' 13 10).toNat = s.pkgid.toNat) →
    exec .spawnAnswer s = .next (((s.drop n).retireTo who.core k (p.setX d (BitVec.ofNat 64 st)) (.spawn g 1 d) (p.pc + 4)).rejoin
      who.core k)) ∧
  (
  (∀ s c r h, c = s.ev.c → c < 8192 → s.fenced c = false → (s.core c).emptySlots ≠ [] → (∀ q ∈ (s.core c).parked, q.ready = false) →
    (s.core c).halted = false → (s.core c).rerun = [] → (s.core c).queue = [r] → (s.core c).jobs = [] → r.header = some h → headerBad h = none → h[2].getLsbD 2 = false →
    (s.core c).fits c r = true →
    ∃ t k p a, exec .slotAssign s = .next t ∧ k ∈ (s.core c).emptySlots ∧ t.proc c k = some p ∧ (t.slot c k).state = .starting ∧
      (s.core c).windowFor c (256 * (h[1].extractLsb' 0 10).toNat) = some a ∧
      (t.slot c k).busy = s.now + 256 * (h[1].extractLsb' 0 10).toNat / 64 ∧ (t.core c).queue = [] ∧
      p.wbase = a ∧ p.wsize = 256 * (h[1].extractLsb' 0 10).toNat ∧ p.header = h ∧ p.hdrAddr = r.hdr ∧
      p.pc = r.hdr + (h[0].extractLsb' 0 32).signExtend 64 ∧ p.prio = r.prio ∧ p.gen = (s.core c).genCtr ∧
      (∀ i, p.xr i = if i = 5 then s.localAddr p.vcore.toNat a else if i = 6 then p.vcore.zeroExtend 64
        else if i = 7 then r.index7 else if 1 ≤ i.toNat ∧ i.toNat ≤ 4 then (r.args[i.toNat - 1]?).getD 0 else 0) ∧
      (∀ i, p.vr i = 0) ∧ (∀ i, p.er i = 0) ∧ p.inh = false ∧ p.retired = 0 ∧ p.fstat = 0 ∧
      p.rings = (s.core c).freeRings.take (h[1].extractLsb' 32 5).toNat ∧
      p.ports = (s.core c).freePorts.take (h[1].extractLsb' 48 7).toNat) ∧
  ∀ s c k p, c = s.ev.c → k = s.ev.k → s.proc c k = some p → (s.slot c k).state = .starting → (s.slot c k).busy ≤ s.now →
    p.dying = 0 → p.wbase % 16 = 0 → p.wsize % 16 = 0 →
    ∃ t q, exec .windowClearDone s = .next t ∧ t.proc c k = some q ∧ q.pc = p.pc ∧ q.x = p.x ∧
      (t.slot c k).state = (if (s.core c).halted then .halted else .runnable) ∧ (t.slot c k).ready = s.now + 1 ∧
      (∀ a, (t.core c).spad.read a = if p.wbase ≤ a ∧ a < p.wbase + p.wsize then 0 else (s.core c).spad.read a) ∧
      (∀ n, p.wbase ≤ 16 * n ∧ 16 * n < p.wbase + p.wsize → (t.core c).isFull n = true) ∧
      ∀ n, ¬(p.wbase ≤ 16 * n ∧ 16 * n < p.wbase + p.wsize) → (t.core c).isFull n = (s.core c).isFull n)

/-- R188, R198: QUIT waits for its release; a stage whose inputs are open waits to fire; any other process that is no draft retires
and ends with no copy cancelled, its slot is empty and its launch agent is told; a draft settles. R190 to R192: COMMIT ends
idempotent execution; YIELD retires and gives up issue, and its slot is eligible again in the 17th cycle after; PRIO sets the
priority from x[A]. R194, R195, R198, R388: a core that is not halted, whose slots are all taken and for which work waits, parks
the slot that has waited longest, beyond PARKWAIT; six cycles later the slot is empty and the process in a park record, and a
process that returns issues its waiting instruction again; a stage fires when its ports are ready. -/
def Obligations.ProcessControl : Prop :=
  (
  (∀ s c k p g sys, Executes s c k p [] (p.guardBit g 0) → sys = (p.launch.any fun id => idPkg id != s.pkgid.toNat) →
    exec (.quit g) s = .next (
      if p.released sys = false then s.block c k (.quit g) (.release sys)
      else if p.isStage = true ∧ (s.core c).stageClosed p = false then s.block c k (.quit g) .stage
      else match p.draft with
        | none => (s.modCore c fun co => { co with issued := s.now + 1 }).endProc c
            { p.counted s.now (.quit 0) with retired := p.retired + 1 } { kind := 0 }
        | some d => ((((s.core c).copies.filter fun cp => cp.uid == p.uid && cp.armed.isSome).foldl (fun s cp => s.cancelArmed c cp)
            s).modCore c fun co => co.modUid p.uid fun p => { p with draft := some { d with state := .settling, tpc := p.pc } }).block
              c k (.quit g) .settle)) ∧
  ∀ (s : State) c k p r id d, s.proc c k = some p → (s.core c).slotOf p.uid = some k → (s.core c).copies = [] → (s.core c).memops = [] →
    p.ports = [] → p.rings = [] → p.launch = some id → s.dest (idPkg id) (launchAgent (idDie id)) = some d → s.fenced c = false →
    ∃ t q, s.endProc c p r = t ∧ t.proc c k = none ∧ (t.slot c k).state = .empty ∧
      t.net = s.net ++ [{ src := c, dst := d, vc := 0, since := s.now, body := .ended id q }] ∧ q.kind = r.kind ∧
      q.tcause = r.tcause ∧ q.tval = r.tval ∧ q.tpc = r.tpc ∧ q.index = (p.index.extractLsb' 0 32).toNat ∧ q.vcore = p.vcore.toNat) ∧
  (
  (∀ s c k p g, Executes s c k p [] (p.guardBit g 0) →
    exec (.commit g) s = .next (s.retireTo c k { p with cmt := p.cmt || (p.idem && !p.isDraft) } (.commit g) (p.pc + 4))) ∧
  (∀ s c k p g, Executes s c k p [] (p.guardBit g 0) →
    exec (.yield g) s = .next ((s.setSlot c k { s.slot c k with yielding := some (s.now + 17) }).retireTo c k p (.yield g) (p.pc + 4))) ∧
  (∀ s t, (s.slot s.ev.c s.ev.k).yielding = some t → t ≤ s.now →
    exec .yieldEnd s = .next (s.setSlot s.ev.c s.ev.k
      { s.slot s.ev.c s.ev.k with yielding := none, ready := max (s.slot s.ev.c s.ev.k).ready t })) ∧
  ∀ s c k p g a, Executes s c k p [ux a] (p.guardBit g 0) →
    exec (.prio g a) s = .next (s.retireTo c k { p with prio := (p.xr a).extractLsb' 0 2 } (.prio g a) (p.pc + 4))) ∧
  (
  (∀ s c k p, c = s.ev.c → s.parkSlot c = some k → s.proc c k = some p → (s.core c).trcctl = 0 →
    exec .parkStart s = .next (s.setSlot c k { s.slot c k with
      state := .parking, busy := s.now + 6, back := false, susp := (s.slot c k).state == .suspended })) ∧
  (∀ (s : State) c k, s.parkSlot c = some k →
    (s.core c).parkLimit s.now ≠ 0 ∧ (s.core c).halted = false ∧ (s.core c).parkUsed < 8 ∧
    (∀ j, j < 16 → (s.proc c j).isSome = true) ∧ ((s.slot c k).state = .blocked ∨ (s.slot c k).state = .suspended) ∧
    (∀ q, s.proc c k = some q → q.mayPark = true) ∧ (s.slot c k).since + (s.core c).parkLimit s.now < s.now ∧
    ∀ j, j < 16 → s.parkable c j = true → (s.slot c k).since ≤ (s.slot c j).since) ∧
  (∀ s c k p, c = s.ev.c → k = s.ev.k → s.proc c k = some p → (s.slot c k).state = .parking → (s.slot c k).back = false →
    (s.slot c k).busy ≤ s.now →
    ∃ t r, exec .parkDone s = .next t ∧ (t.core c).parked = (s.core c).parked ++ [r] ∧ r.proc = p ∧ r.since = (s.slot c k).since ∧
      r.ready = p.wait.isNone ∧ t.proc c k = none ∧ (t.slot c k).state = .empty ∧ ∀ j, j ≠ k → t.slot c j = s.slot c j) ∧
  (∀ s c k p, c = s.ev.c → k = s.ev.k → s.proc c k = some p → (s.slot c k).state = .parking → (s.slot c k).back = true →
    (s.slot c k).busy ≤ s.now →
    ∃ t, exec .parkRestoreDone s = .next t ∧ t.proc c k = some p ∧ (t.slot c k).ready = s.now + 1 ∧
      (t.slot c k).state = (if (s.core c).halted then .halted else .runnable)) ∧
  ∀ s c k p g, c = s.ev.c → k = s.ev.k → Waits s c k p (.quit g) .stage →
    (∀ e ∈ stageEntries p.header, ∃ q po, p.ports[stagePort e.2]? = some q ∧ s.port c q = some po ∧
      if stageIn e.2 ≠ 0 then po.buffered = true ∧ stageIn e.2 ≤ po.held.length else stageOut e.2 ≤ po.credits) →
    ∃ t q, exec .stageFiring s = .next t ∧ t.proc c k = some q ∧ q.wait = none ∧ q.retired = p.retired + 1 ∧
      q.pc = p.hdrAddr + (p.header[0].extractLsb' 0 32).signExtend 64 ∧ q.xr 8 = BitVec.ofNat 64 (p.firing + 1) ∧
      q.firing = p.firing + 1 ∧ (∀ i, i ≠ 8 → 9 ≤ i.toNat ∧ i.toNat < 16 → q.xr i = 0) ∧ (∀ i : BitVec 5, 16 ≤ i.toNat → q.xr i = p.xr i) ∧
      q.v = p.v ∧ q.e = p.e)

/-- R199 to R207: CHOPEN opens a CLOSED port by a well-formed word; CHBIND of an open port gives back its credits and asks the port
that the handle names; CHCLOSE closes; CHSTAT reads the status, the handles and the head message; WREL releases the head
message. -/
def Obligations.PortControl : Prop :=
  (∀ s c k p g q n a d j po w depth, Executes s c k p [(4, n.toNat), ux a, ux d] (p.guardBit g 0) → HasPort s c p n j po → w = p.xr a →
    depth = (if w.getLsbD 4 then (w.extractLsb' 8 4).toNat + 1 else 0) → po.state = 0 →
    w.extractLsb' 24 40 = 0 → w.extractLsb' 12 4 = 0 → w.extractLsb' 5 3 = 0 → w.extractLsb' 2 2 = 0 → w.extractLsb' 0 2 ≠ 3 →
    (if w.extractLsb' 0 2 = 2 then w.extractLsb' 16 8 ≠ 0 ∧ w.getLsbD 4 = false else w.extractLsb' 16 8 = 0) →
    (w.getLsbD 4 = false → w.extractLsb' 8 4 = 0) → depth ≤ (s.core c).freeBuffers → p.stageNeeds n.toNat depth = false →
    exec (.chopen g q n a d) s = .next ((s.setPort c j { Port.closed po.owner with
      state := 1, type := (w.extractLsb' 0 2).toNat, buffered := w.getLsbD 4, depth := depth, tlen := (w.extractLsb' 16 8).toNat,
      seq := po.seq }).ends c k p q d n.toNat 0 (.chopen g q n a d))) ∧
  (∀ s c k p g q n a d j po w, Executes s c k p [(4, n.toNat), ux a, ux d] (p.guardBit g 0) → HasPort s c p n j po → w = p.xr a →
    w.getLsbD 0 = false ∨ w.extractLsb' 3 12 ≠ 0 ∨ po.state = 0 ∨ po.disp.isSome = true →
    exec (.chbind g q n a d) s = .next (s.ends c k p q d n.toNat 2 (.chbind g q n a d))) ∧
  (∀ s c k p g q n a d j po w e, Executes s c k p [(4, n.toNat), ux a, ux d] (p.guardBit g 0) → HasPort s c p n j po → w = p.xr a →
    w.getLsbD 0 = true → w.extractLsb' 3 12 = 0 → po.state ≠ 0 → po.disp = none → po.credits = 0 → po.asked = false →
    s.handleDest w = some e → s.fenced c = false →
    ∃ t r, exec (.chbind g q n a d) s = .next t ∧ t.proc c k = some r ∧
      r.wait = some { instr := .chbind g q n a d, kind := .bind n.toNat } ∧
      s.Sent t c e 0 (.bindQuery w (s.handle p j po.type) po.type po.tlen (s.systemValue c k p .self)
        { index := (p.index.extractLsb' 0 32).toNat, seq := po.seq }) ∧
      ∃ po', t.port c j = some po' ∧ po'.state = 2 ∧ po'.prev = po.state ∧ po'.held = po.held) ∧
  (∀ s c k p g q n d j po, Executes s c k p [(4, n.toNat), ux d] (p.guardBit g 0) → HasPort s c p n j po →
    exec (.chclose g q n d) s = .next ((s.closePort c p j 4).ends c k p q d n.toNat 0 (.chclose g q n d)) ∧
    (po.state ≠ 0 → (s.closePort c p j 4).port c j = some { Port.closed po.owner with seq := po.seq })) ∧
  (∀ s c k p g n sel d j po, Executes s c k p [(4, n.toNat), ux d] (p.guardBit g 0) → HasPort s c p n j po → po.disp = none →
    po.held.length ≤ 16 → po.credits ≤ 16 → po.type < 4 → po.state < 8 →
    exec (.chstat g n sel d) s = .next (s.retireTo c k (p.setX d (
      if sel = 0 then 0#43 ++ BitVec.ofNat 5 po.credits ++ 0#3 ++ BitVec.ofNat 5 po.held.length ++ BitVec.ofBool (!po.held.isEmpty) ++
        BitVec.ofBool (!po.queue.isEmpty) ++ BitVec.ofBool po.buffered ++ BitVec.ofNat 2 po.type ++ BitVec.ofNat 3 po.state
      else if sel = 1 then (if po.state = 0 then s.handle p j po.type - 1 else s.handle p j po.type)
      else if sel = 2 then (if po.state = 3 then po.peer else 0)
      else ((po.held.head?).map fun m => (m.words[sel.toNat - 8]?).getD 0).getD 0)) (.chstat g n sel d) (p.pc + 4))) ∧
  ∀ s c k p g q n d j po, Executes s c k p [(4, n.toNat), ux d] (p.guardBit g 0) → HasPort s c p n j po → po.disp = none →
    (po.state = 0 → exec (.wrel g q n d) s = .next (s.ends c k p q d n.toNat 4 (.wrel g q n d))) ∧
    (po.state ≠ 0 → po.held = [] → exec (.wrel g q n d) s = .next (s.ends c k p q d n.toNat 2 (.wrel g q n d))) ∧
    (po.state ≠ 0 → po.held ≠ [] →
      ∃ t r po', t = (s.takeHead c p j po).countFor c p.uid 13 1 ∧ t.proc c k = some r ∧ p.Keeps r [] ∧
        exec (.wrel g q n d) s = .next (t.ends c k r q d n.toNat 0 (.wrel g q n d)) ∧
        t.port c j = some po' ∧ po'.held = po.held.tail)

/-- R202, R209, R213, R217, R220: a SEND on a CLOSED port ends with CLOSED, on one of another TYPE or not BOUND with REFUSED;
without a credit it asks for one and waits; it waits for its release; with a credit it uses it and sends the message with its
tag, and retires when the peer is buffered or waits for the acknowledgement. R202, R210: a RECV on a CLOSED port ends with
CLOSED, on one of another TYPE with REFUSED, and waits without a message; it takes the head message, whose buffer goes to the
oldest queued request, or returns to its sender when none is queued, or which is acknowledged on a rendezvous port. R211, R370:
RECVT within the window waits for its tile; SENDT with a credit sends its tile in flits of 64 bytes and waits; a flit is written
where it says, and the last one ends the RECVT and is acknowledged; SENDV on a wake port sends a wake. -/
def Obligations.Messages : Prop :=
  (
  ∀ s c k p i m j po, sendingOf p i = some m → Executes s c k p ((4, m.n.toNat) :: m.uses) (p.guardBit m.g 0) → HasPort s c p m.n j po →
    p.isDraft = false → ¬(p.priv = true ∧ m.n = 1 ∧ m.type = 1 ∧ 4352 ≤ c ∧ c < 4360) →
    (po.state = 0 → exec i s = .next (s.ends c k p m.q m.d m.n.toNat 4 i)) ∧
    (po.state ≠ 0 → po.type ≠ m.type ∨ po.state ≠ 3 → exec i s = .next (s.ends c k p m.q m.d m.n.toNat 2 i)) ∧
    (po.state = 3 → po.type = m.type → po.credits = 0 → p.answer = none → ∀ e, po.asked = false → s.handleDest po.peer = some e →
      exec i s = .next (((s.setPort c j { po with asked := true }).send c e 0 (.creditReq po.peer (s.handle p j po.type) po.type po.tlen
        (m.words.headD 0) (s.systemValue c k p .self) (p.tagOf po))).block c k i (.credit m.n.toNat))) ∧
    (po.state = 3 → po.type = m.type → po.credits ≠ 0 → p.released (hPkg po.peer != s.pkgid.toNat) = false →
      exec i s = .next (s.block c k i (.release (hPkg po.peer != s.pkgid.toNat)))) ∧
    (po.state = 3 → po.type = m.type → po.credits ≠ 0 → p.released (hPkg po.peer != s.pkgid.toNat) = true →
      ∀ e, s.handleDest po.peer = some e → s.fenced c = false →
      ∃ t r, exec i s = .next t ∧ t.proc c k = some r ∧
        s.Sent t c e 3 (.chanMsg po.peer (s.handle p j po.type) po.type m.words (s.systemValue c k p .self)
          { index := (p.index.extractLsb' 0 32).toNat, seq := po.seq }) ∧
        t.port c j = some { po with credits := po.credits - 1, seq := po.seq + 1 } ∧
        if po.peerBuf then r.pc = p.pc + size i ∧ r.retired = p.retired + 1 ∧ r.wait = none ∧
          p.Keeps r (if m.q = 1 then [.x m.d] else []) ∧ r.xr m.d = (p.withOk m.q m.d).xr m.d
        else r.pc = p.pc ∧ r.wait = some { instr := i, kind := .sendAck m.n.toNat } ∧ p.Keeps r [])) ∧
  (
  ∀ s c k p i m j po, receivingOf p i = some m → Executes s c k p ((4, m.n.toNat) :: m.uses) (p.guardBit m.g 0) → HasPort s c p m.n j po →
    (po.state = 0 → exec i s = .next (s.ends c k p m.q m.a m.n.toNat 4 i)) ∧
    (po.state ≠ 0 → po.type ≠ m.type → exec i s = .next (s.ends c k p m.q m.a m.n.toNat 2 i)) ∧
    (po.state ≠ 0 → po.type = m.type → po.held = [] → exec i s = .next (s.block c k i (.recv m.n.toNat))) ∧
    ∀ h rest e, po.state ≠ 0 → po.type = m.type → po.held = h :: rest → h.sender.getLsbD 0 = true → s.handleDest h.sender = some e →
      s.fenced c = false →
      ∃ t r po', exec i s = .next t ∧ t.proc c k = some r ∧ r.pc = p.pc + size i ∧ r.retired = p.retired + 1 ∧
        (∀ x, r.xr x = ((m.after h.words).withOk m.q m.a).xr x) ∧ (∀ x, r.vr x = (m.after h.words).vr x) ∧
        p.Keeps r (m.dest :: if m.q = 1 then [.x m.a] else []) ∧ t.port c j = some po' ∧ po'.held = rest ∧
        if po.buffered = false then
          s.Sent t c e 2 (.chanAns h.sender (s.handle p j po.type) 3 0 0 false 0 h.self) ∧ po'.queue = po.queue
        else if po.queue = [] then
          s.Sent t c e 0 (.chanAns h.sender (s.handle p j po.type) 6 0 0 true 0 h.self) ∧ po'.owed = po.owed ++ [h.sender]
        else ∀ a l d, po.queue = a :: l → po.owner = p.uid → (s.core c).slotOf p.uid = some k →
          po.held.length + po.owed.length ≤ po.depth → a.sender.getLsbD 0 = true → s.handleDest a.sender = some d →
          s.Sent t c d 0 (.chanAns a.sender (s.handle p j po.type) 0 0 0 true a.data a.self) ∧ po'.queue = l ∧
            po'.owed = po.owed ++ [a.sender]) ∧
  (
  (∀ s c k p g q n a d j po off, Executes s c k p [(4, n.toNat), ux a, ux d] (p.guardBit g 0) → HasPort s c p n j po → po.state ≠ 0 →
    po.type = 2 → s.localCheck c p (p.xr a) (256 * po.tlen) 32 true false = .own off → p.answer = none →
    exec (.recvt g q n a d) s = .next (s.block c k (.recvt g q n a d)
      (if po.owed = [] then .tileRecv n.toNat else .tileData n.toNat false))) ∧
  (∀ s c k p g q n a d j po off dst e, Executes s c k p [(4, n.toNat), ux a, ux d] (p.guardBit g 0) → HasPort s c p n j po →
    po.state = 3 → po.type = 2 → po.credits ≠ 0 → po.tileOff = some dst → p.isDraft = false →
    p.released (hPkg po.peer != s.pkgid.toNat) = true → s.localCheck c p (p.xr a) (256 * po.tlen) 32 true true = .own off →
    (s.core c).ownedIn off (256 * po.tlen) = none → s.handleDest po.peer = some e → s.fenced c = false →
    ∃ t r, exec (.sendt g q n a d) s = .next t ∧ t.proc c k = some r ∧
      r.wait = some { instr := .sendt g q n a d, kind := .tileSend n.toNat off } ∧
      t.port c j = some { po with credits := 0, tileOff := none, seq := po.seq + 1 } ∧
      t.net = s.net ++ (List.range (4 * po.tlen)).map fun l =>
        { src := c, dst := e, vc := 3, since := s.now, body := .tileData po.peer (s.handle p j po.type) (dst + 64 * l)
            (s.localBytes c (off + 64 * l) 64) (l + 1 == 4 * po.tlen) (s.systemValue c k p .self) (p.tagOf po) }) ∧
  (∀ s n pk target sender off data last self tag b p m j po, Arrived s n pk → s.ev.n = n →
    pk.body = .tileData target sender off data last self tag →
    j = hPort target → s.port pk.dst j = some po → (s.core pk.dst).find po.owner = some p → p.ports[m]? = some j →
    (∃ w, p.wait = some w ∧ w.kind = .tileData m b) → p.gen.toNat = hGen target → p.ctx.toNat = hCtx sender →
    (s.core pk.dst).ownedIn off data.length = none → last = false →
    exec .tileTransferData s = .next (((s.drop n).tileWrite pk.dst off data).tileBegun target)) ∧
  (∀ (s : State) c off data a, off % 16 = 0 → (s.core c).waits = [] →
    ((s.tileWrite c off data).core c).spad.read a = ((s.core c).spad.put off data).read a) ∧
  (∀ s n pk target sender off data self tag f p k m j po e g a d b, Arrived s n pk → s.ev.n = n →
    pk.body = .tileData target sender off data true self tag →
    j = hPort target → s.port pk.dst j = some po → po.owner = p.uid → p.ports[m]? = some j → p.capture = none →
    Waits s pk.dst k p (.recvt g 1 b a d) (.tileData m f) → p.gen.toNat = hGen target → p.ctx.toNat = hCtx sender →
    (s.core pk.dst).waits = [] →
    (s.core pk.dst).ownedIn off data.length = none → sender.getLsbD 0 = true → s.handleDest sender = some e →
    ∃ t r, exec .tileTransferData s = .next t ∧ t.proc pk.dst k = some r ∧ r.pc = p.pc + 4 ∧ r.retired = p.retired + 1 ∧
      p.Keeps r [.x d] ∧ (d ≠ 0 → r.xr d = 0) ∧ r.wait = none ∧
      (s.drop n).Sent t pk.dst e 2 (.chanAns sender target 4 0 0 false 0 self)) ∧
  ∀ s c k p g q a d j po e origin, Executes s c k p [(4, 1), uv a, ux d] (p.guardBit g 0) → HasPort s c p 1 j po → p.priv = true →
    4352 ≤ c → c < 4360 → origin = laneOf (p.vr a) 64 1 →
    p.released ((origin.extractLsb' 13 10).toNat != s.pkgid.toNat) = true →
    s.dest (origin.extractLsb' 13 10).toNat (origin.extractLsb' 0 13).toNat = some e →
    exec (.sendv g q 1 a d) s = .next ((s.send c e 0 (.wake [laneOf (p.vr a) 64 0, laneOf (p.vr a) 64 1, laneOf (p.vr a) 64 2,
      laneOf (p.vr a) 64 3])).ends c k p q d 1 0 (.sendv g q 1 a d)))

/-- R189, R202 to R204, R211, R217: at its port a credit request is queued, and granted if it can be, or refused with its status, a
grant of a buffered port takes a buffer, that of a rendezvous port needs a process that waits to receive, a message is kept, a
returned credit frees its buffer, and a withdrawn request is gone; at the sending port a grant is a credit, an acknowledgement
ends a SEND and a bind answer binds. R218 to R220: a context blocked on channels for DLWINDOW cycles, with DLWINDOW not zero and
the core not halted, sends one probe along each edge; a probe of the same context goes on along the edges of a blocked process;
at its origin it closes a cycle, which the origin with the smallest handle reports once. -/
def Obligations.ChannelTraffic : Prop :=
  (
  (∀ s n pk target sender type tlen data self tag e, Arrived s n pk → s.ev.n = n →
    pk.body = .creditReq target sender type tlen data self tag →
    sender.getLsbD 0 = true → s.handleDest sender = some e →
    (∀ po, s.portCheck pk.dst target sender type tlen = 0 → s.port pk.dst (hPort target) = some po → po.queue.length < 16 →
      exec .creditRequestArrive s = .next (((s.drop n).setPort pk.dst (hPort target)
        { po with queue := po.queue ++ [{ sender := sender, data := data, self := self }] }).grantHead pk.dst (hPort target))) ∧
    ∀ st, s.portCheck pk.dst target sender type tlen = st → st ≠ 0 →
      exec .creditRequestArrive s = .next ((s.drop n).send pk.dst e 0 (.chanAns sender target 1 st 0 (st == 1) data self))) ∧
  (∀ s, exec .creditGrant s = .next (s.grantHead s.ev.c s.ev.n)) ∧
  (∀ (s : State) c target sender po p, s.port c (hPort target) = some po → (s.core c).find po.owner = some p →
    s.portCheck c target sender po.type po.tlen =
      if p.gen.toNat ≠ hGen target then 1 else if p.ctx.toNat ≠ hCtx sender then 5 else if po.state = 0 then 4
      else if po.state = 3 ∧ hSame po.peer sender = false then 2 else if po.disp.isSome then 2 else 0) ∧
  (∀ s c j po p r rest e, c = s.ev.c → j = s.ev.n → s.port c j = some po → (s.core c).find po.owner = some p → po.queue = r :: rest →
    po.buffered = true → po.held.length + po.owed.length < po.depth → r.sender.getLsbD 0 = true → s.handleDest r.sender = some e →
    exec .creditGrant s = .next ((s.setPort c j { po with queue := rest, owed := po.owed ++ [r.sender] }).send c e 0
      (.chanAns r.sender (s.handle p j po.type) 0 0 0 true r.data r.self))) ∧
  (∀ s c j k po p r rest e i m, c = s.ev.c → j = s.ev.n → s.port c j = some po → po.owner = p.uid → po.queue = r :: rest →
    po.buffered = false → po.owed = [] → po.held = [] → Waits s c k p i (.recv m) → p.ports[m]? = some j →
    (s.core c).halted = false → (∀ g q n a d, i ≠ .recvt g q n a d) → r.sender.getLsbD 0 = true → s.handleDest r.sender = some e →
    exec .creditGrant s = .next ((s.setPort c j { po with queue := rest, owed := [r.sender] }).send c e 0
      (.chanAns r.sender (s.handle p j po.type) 0 0 0 false r.data r.self))) ∧
  (∀ s c j k po p r rest e m g q b a d, c = s.ev.c → j = s.ev.n → s.port c j = some po → po.owner = p.uid → po.queue = r :: rest →
    po.buffered = false → po.owed = [] → po.held = [] → Waits s c k p (.recvt g q b a d) (.tileRecv m) → p.ports[m]? = some j →
    (s.core c).halted = false → r.sender.getLsbD 0 = true → s.handleDest r.sender = some e → s.fenced c = false →
    ∃ t, exec .creditGrant s = .next t ∧ t.port c j = some { po with queue := rest, owed := [r.sender] } ∧
      t.waitOf c p.uid = some (.tileData m false) ∧
      s.Sent t c e 0 (.chanAns r.sender (s.handle p j po.type) 0 0 ((p.xr a).toNat % 2 ^ 18) false r.data r.self)) ∧
  (∀ s n pk target sender type ws self tag po, Arrived s n pk → s.ev.n = n → pk.body = .chanMsg target sender type ws self tag →
    s.portCheck pk.dst target sender type 0 = 0 → s.port pk.dst (hPort target) = some po → sender ∈ po.owed →
    ∃ t po', exec .messageArrive s = .next t ∧ t.port pk.dst (hPort target) = some po' ∧
      po'.held = po.held ++ [{ sender := sender, words := ws, self := self }] ∧ po'.owed.length + 1 = po.owed.length ∧
      t.net = s.net.eraseIdx n ∧ (∀ d, d ≠ pk.dst → t.core d = s.core d)) ∧
  (∀ s n pk target sender off mode po p data self, Arrived s n pk → s.ev.n = n →
    pk.body = .chanAns sender target 0 0 off mode data self → s.port pk.dst (hPort sender) = some po →
    (s.core pk.dst).find po.owner = some p → p.gen.toNat = hGen sender → po.state = 3 → hSame po.peer target = true →
    exec .channelAnswer s = .next ((s.drop n).setPort pk.dst (hPort sender) { po with
      credits := po.credits + 1, tileOff := if po.type == 2 then some off else none, peerBuf := mode, asked := false })) ∧
  (∀ s n pk target sender st po p data self k i m v, Arrived s n pk → s.ev.n = n →
    pk.body = .chanAns sender target 3 st 0 false data self → s.port pk.dst (hPort sender) = some po → po.owner = p.uid →
    p.gen.toNat = hGen sender → Waits s pk.dst k p i (.sendAck m) → p.ports[m]? = some (hPort sender) →
    sendingOf p i = some v → (st = 0 ∨ v.q = 1) →
    exec .channelAnswer s = .next (((s.drop n).ends pk.dst k p v.q v.d v.n.toNat st i).rejoin pk.dst k)) ∧
  (∀ s n pk target sender st mode po p data self k g q m a d, Arrived s n pk → s.ev.n = n → st ≠ 1 → (st = 0 ∨ q = 1) →
    pk.body = .chanAns sender target 2 st 0 mode data self → s.port pk.dst (hPort sender) = some po → po.owner = p.uid →
    Waits s pk.dst k p (.chbind g q m a d) (.bind m.toNat) → p.ports[m.toNat]? = some (hPort sender) →
    exec .channelAnswer s = .next ((((s.drop n).setPort pk.dst (hPort sender)
      (if st = 0 then { po with state := 3, peer := target, peerBuf := mode } else { po with state := po.prev })).ends pk.dst k p q d
        m.toNat st (.chbind g q m a d)).rejoin pk.dst k)) ∧
  (∀ s n pk target sender type tlen self tag e, Arrived s n pk → s.ev.n = n → pk.body = .bindQuery target sender type tlen self tag →
    sender.getLsbD 0 = true → s.handleDest sender = some e → ∀ po, s.portCheck pk.dst target sender type tlen = 0 →
    s.port pk.dst (hPort target) = some po →
    exec .bindQueryArrive s = .next ((s.drop n).send pk.dst e 0 (.chanAns sender target 2 0 0 po.buffered 0 self))) ∧
  (∀ s n pk target sender po p, Arrived s n pk → s.ev.n = n → pk.body = .creditRet target sender 1 →
    s.port pk.dst (hPort target) = some po → (s.core pk.dst).find po.owner = some p → p.gen.toNat = hGen target → po.queue = [] →
    ∃ t, exec .creditReturn s = .next t ∧ t.port pk.dst (hPort target) = some { po with owed := eraseHandle sender po.owed } ∧
      t.net = s.net.eraseIdx n) ∧
  ∀ s n pk target sender po p, Arrived s n pk → s.ev.n = n → pk.body = .withdraw target sender →
    s.port pk.dst (hPort target) = some po → (s.core pk.dst).find po.owner = some p → p.gen.toNat = hGen target →
    exec .creditRequestWithdrawn s = .next ((s.drop n).setPort pk.dst (hPort target)
      { po with queue := po.queue.filter fun r => !hSame r.sender sender })) ∧
  (
  (∀ s c k p g q m a d j po e, c = s.ev.c → s.ev.n = p.ctx.toNat → (s.core c).waiting = [(p, (s.slot c k).since)] →
    (∃ w, p.wait = some w ∧ w.instr = .send g q m a d) → p.ports[m.toNat]? = some j → s.port c j = some po → po.state = 3 →
    (s.core c).probeLimit s.now ≠ 0 → (s.core c).halted = false →
    (s.slot c k).since + (s.core c).probeLimit s.now ≤ s.now → kget (s.core c).probes p.ctx.toNat = none →
    s.handleDest po.peer = some e → s.fenced c = false →
    ∃ t, exec .deadlockProbeStart s = .next t ∧ kget (t.core c).probes p.ctx.toNat = some s.now ∧
      s.Sent t c e 0 (.probe (s.handle p j po.type) [s.handle p j po.type] po.peer (p.tagOf po))) ∧
  (∀ s n pk origin path at_ tag po p w g b m a d j q e, Arrived s n pk → s.ev.n = n → pk.body = .probe origin path at_ tag →
    path.length < 16 → s.port pk.dst (hPort at_) = some po → (s.core pk.dst).find po.owner = some p → (s.core pk.dst).halted = false →
    p.gen.toNat = hGen at_ → p.ctx.toNat = hCtx origin →
    p.wait = some w → w.instr = .send g b m a d → p.ports[m.toNat]? = some j → s.port pk.dst j = some q → q.state = 3 →
    (hPkg origin ≠ s.pkgid.toNat ∨ hVcore origin ≠ p.vcore.toNat ∨ hGen origin ≠ p.gen.toNat ∨ hPort origin ∉ p.ports) →
    s.handleDest q.peer = some e →
    exec .deadlockProbe s = .next ((s.drop n).send pk.dst e 0 (.probe origin (path ++ [s.handle p j q.type]) q.peer (p.tagOf q)))) ∧
  (∀ s n pk origin path at_ tag po p, Arrived s n pk → s.ev.n = n → pk.body = .probe origin path at_ tag →
    s.port pk.dst (hPort at_) = some po → (s.core pk.dst).find po.owner = some p → p.ctx.toNat ≠ hCtx origin →
    exec .deadlockProbe s = .next (s.drop n)) ∧
  ∀ s n pk origin path at_ tag po p, Arrived s n pk → s.ev.n = n → pk.body = .probe origin path at_ tag →
    s.port pk.dst (hPort at_) = some po → (s.core pk.dst).find po.owner = some p → (s.core pk.dst).halted = false →
    p.gen.toNat = hGen at_ → p.ctx.toNat = hCtx origin → p.channelWait.isSome = true →
    hPkg origin = s.pkgid.toNat → hVcore origin = p.vcore.toNat → hGen origin = p.gen.toNat → hPort origin ∈ p.ports →
    (∀ h ∈ path, origin.toNat ≤ h.toNat) → (s.core pk.dst).reported = [] → (s.edges pk.dst p).any (fun e => e.1 == origin) = true →
    ∃ t, exec .deadlockProbe s = .next t ∧
      t.events = s.events ++ (cycleWords path 6 0).map fun ws => (pk.dst, p.ctx.toNat, ws))

/-- R215, R216: a malformed guard raises CHANNEL with REFUSED; an ALT of guards on the core's own state writes the e-register of the
first ready one and retires, or waits; what each kind of guard waits for; a word of global memory that differs from its second
register is ready, and one that does not is watched at its home. R215, R216, R295: a waiting ALT returns when its time-out has
come, and when its global word differs after a notification of its watch or at a poll, 1,024 cycles after the wait began. -/
def Obligations.AltResults : Prop :=
  (
  (∀ s c k p g n d gr, Executes s c k p [ux d] (p.guardBit g 0) → gr ∈ p.guards (n.toNat + 1) → s.guardBad p (n.toNat + 1) gr = true →
    exec (.alt g n d) s = .next (s.trapEntry c k p 7 0xFF02)) ∧
  (∀ s c k p g n d gs q, Executes s c k p [ux d] (p.guardBit g 0) → gs = p.guards (n.toNat + 1) → (∀ h ∈ gs, s.guardBad p (n.toNat + 1) h = false) →
    (∀ h ∈ gs, h.2.1 ≠ 4 ∧ h.2.1 ≠ 6) → q = { p with altEnd := some (p.altEnd.getD s.now) } →
    ∃ t r, exec (.alt g n d) s = .next t ∧ t.proc c k = some r ∧ s.SameMemory t ∧
      match gs.find? (s.guardReady c q) with
      | some e => r.pc = p.pc + 4 ∧ r.retired = p.retired + 1 ∧ r.wait = none ∧ p.Keeps r [.x d] ∧
          r.xr d = (p.setX d (BitVec.ofNat 64 e.1)).xr d ∧ r.altEnd = none
      | none => r.pc = p.pc ∧ r.wait = some { instr := .alt g n d, kind := .alt } ∧ p.Keeps r [] ∧ r.altEnd = q.altEnd ∧
          (t.slot c k).state = .blocked) ∧
  (∀ (s : State) c p i (w : Word) n j po, n = w.extractLsb' 0 6 → HasPort s c p n j po → po.disp = none →
    (s.guardReady c p (i, 0, w) = true ↔ po.state = 0 ∨ po.buffered = false ∧ po.queue ≠ [] ∨ po.held ≠ []) ∧
    (s.guardReady c p (i, 1, w) = true ↔ po.state ≠ 3 ∨ po.credits ≠ 0)) ∧
  (∀ (s : State) c p i (w : Word), s.guardReady c p (i, 2, w) = (s.core c).isFull (w.extractLsb' 4 14).toNat ∧
    s.guardReady c p (i, 3, w) = !(s.core c).isFull (w.extractLsb' 4 14).toNat) ∧
  (∀ (s : State) c p i (w : Word), (s.guardReady c p (i, 5, w) = true ↔
    (s.core c).ctrOwner[(w.extractLsb' 32 4).toNat] = some p.ctx ∧
      ((s.core c).ctr[(w.extractLsb' 32 4).toNat] - w.extractLsb' 0 32).toNat < 2 ^ 31)) ∧
  (∀ (s : State) c p i (w : Word) t, p.altEnd = some t →
    (s.guardReady c p (i, 7, w) = true ↔ t + (w.extractLsb' 0 32).toNat ≤ s.now)) ∧
  ∀ s c k p g d w t va, Executes s c k p [ux d] (p.guardBit g 0) → w = p.er 0 → w.extractLsb' 60 4 = 4 → w.extractLsb' 52 8 = 0 →
    w.extractLsb' 0 3 = 0 → va = w.extractLsb' 0 52 → p.isDraft = false → p.altDead = [] → p.altDone = [] → p.answer = none →
    s.inBoot c = false → s.lookup c p.uid p.ctx.toNat (va.zeroExtend 64) needR 0 = some t → leafAp t.leaf = 0 →
    s.lapses (agentDie (homeOf (t.pa (va.zeroExtend 64)))) t.exp.toNat = false → s.locked 0 (t.pa (va.zeroExtend 64)) 8 = false →
    ∃ u r, exec (.alt g 1 d) s = .next u ∧ u.proc c k = some r ∧ s.SameMemory u ∧
      if wordOf (s.hbm.bytes (t.pa (va.zeroExtend 64)) 8) ≠ p.er 1 then
        r.pc = p.pc + 4 ∧ r.retired = p.retired + 1 ∧ p.Keeps r [.x d] ∧ (d ≠ 0 → r.xr d = 0)
      else r.wait = some { instr := .alt g 1 d, kind := .alt } ∧ r.pc = p.pc ∧ p.Keeps r [] ∧
        ((s.endWatches p.uid).home (homeOf (t.pa (va.zeroExtend 64)))).watches.length < 64 →
          ∃ w ∈ (u.home (homeOf (t.pa (va.zeroExtend 64)))).watches, w.who = { core := c, uid := p.uid } ∧ w.pa = t.pa (va.zeroExtend 64)) ∧
  (
  (∀ s c k p g n d e w, c = s.ev.c → k = s.ev.k → Waits s c k p (.alt g n d) .alt →
    p.guards (n.toNat + 1) = [(e, 7, w)] → (∃ t, p.altEnd = some t ∧ t + (w.extractLsb' 0 32).toNat ≤ s.now) →
    ∃ t r, exec .altTimeout s = .next t ∧ t.proc c k = some r ∧ r.pc = p.pc + 4 ∧ r.retired = p.retired + 1 ∧ r.wait = none ∧
      p.Keeps r [.x d] ∧ r.xr d = (p.setX d (BitVec.ofNat 64 e)).xr d) ∧
  (∀ s n pk c k p g d w t va x, Arrived s n pk → s.ev.n = n → pk.body = .watchNote { core := c, uid := p.uid } x →
    Waits s c k p (.alt g 1 d) .alt → w = p.er 0 → w.extractLsb' 60 4 = 4 →
    va = (w.extractLsb' 0 52).zeroExtend 64 → p.isDraft = false → p.altDead = [] → p.altDone = [] → s.inBoot c = false →
    s.lookup c p.uid p.ctx.toNat va needR 0 = some t → leafAp t.leaf = 0 → s.lapses (agentDie (homeOf (t.pa va))) t.exp.toNat = false →
    s.locked 0 (t.pa va) 8 = false → wordOf (s.hbm.bytes (t.pa va) 8) ≠ p.er 1 →
    ∃ u r, exec .watchNotify s = .next u ∧ u.proc c k = some r ∧ r.pc = p.pc + 4 ∧ r.retired = p.retired + 1 ∧ p.Keeps r [.x d] ∧
      (d ≠ 0 → r.xr d = 0) ∧ u.watchesOf p.uid = []) ∧
  ∀ s c k p g d w t va, c = s.ev.c → k = s.ev.k → Waits s c k p (.alt g 1 d) .alt → w = p.er 0 →
    w.extractLsb' 60 4 = 4 → va = (w.extractLsb' 0 52).zeroExtend 64 → p.isDraft = false → p.altDead = [] → p.altDone = [] →
    s.inBoot c = false → (s.slot c k).since + 1024 = s.now → s.watchesOf p.uid = [] →
    s.lookup c p.uid p.ctx.toNat va needR 0 = some t → leafAp t.leaf = 0 → s.lapses (agentDie (homeOf (t.pa va))) t.exp.toNat = false →
    s.locked 0 (t.pa va) 8 = false → wordOf (s.hbm.bytes (t.pa va) 8) ≠ p.er 1 →
    ∃ u r, exec .watchPoll s = .next u ∧ u.proc c k = some r ∧ r.pc = p.pc + 4 ∧ r.retired = p.retired + 1 ∧ p.Keeps r [.x d] ∧
      (d ≠ 0 → r.xr d = 0))

/-- R227, R233 to R237: LAUNCH of well-formed operands outside a draft asks its die's agent and waits; LWAIT writes the completion's
word once the record is DONE and waits before; LCANCEL cancels the tree; LDEP adds a dependence on an earlier launch of its
opener or lets a held launch go; GRAPH.open makes a graph record and GRAPH.close closes it; JCANCEL cancels a job. R227 to R231,
R234: the launch agent makes a PENDING record and answers with its identifier; a released launch wakes, one message for each
record; a wake places its record in the spawn queue; a launch counts a child or process of another package, unless a child
launch comes when it is being cancelled; each end counts, and the last one completes the launch and posts its record; a cancel
takes the launch's records out of a core's queues and ends its processes. -/
def Obligations.Launches : Prop :=
  (
  (∀ s c k p g q b d a, Executes s c k p [ux b, ux d] (p.guardBit g 0) → p.isDraft = false → (p.er 0).extractLsb' 0 6 = 0 →
    (p.er 1).extractLsb' 38 26 = 0 → (p.er 1).extractLsb' 30 2 = 0 → (p.er 1).extractLsb' 13 13 ≠ 0 →
    ((p.er 1).extractLsb' 0 13).toNat + ((p.er 1).extractLsb' 13 13).toNat ≤ 3968 → (p.er 7).getLsbD 63 = false →
    (p.er 7).extractLsb' 0 7 = 0 → (p.er 6 = 0 ∨ s.openGraph (p.er 6).toNat p.uid = true) → p.line.length ≤ 16 →
    s.cancelling p.launch = false → p.released false = true → s.live (launchAgent (agentDie c)) = some a →
    exec (.launch g q b d) s = .next ((s.send c a 0 (.launchReq [p.er 0, p.er 1, p.er 2, p.er 3, p.er 4, p.er 5, p.er 6, p.er 7]
      p.ctx.toNat p.line p.priv (if p.er 6 = 0 then none else some (p.er 6).toNat) { core := c, uid := p.uid })).block c k
        (.launch g q b d) .launchAns)) ∧
  (∀ s c k p g q b a d r, Executes s c k p [ux b, ux a, ux d] (p.guardBit g 0) → p.answer = none → s.launchRec (p.xr a).toNat = some r →
    r.ctx = p.ctx.toNat → (p.xr a).toNat ∉ p.line →
    exec (.lwait g q b a d) s = .next (
      if r.state = 5 then s.ends c k (p.setX d (BitVec.ofNat 64 (r.outcome * 2 ^ 56 + (p.xr a).toNat))) q b 0xFF 0 (.lwait g q b a d)
      else s.block c k (.lwait g q b a d) (.lwait (p.xr a).toNat))) ∧
  (∀ s c k p g q a d r, Executes s c k p [ux a, ux d] (p.guardBit g 0) → p.isDraft = false → s.launchRec (p.xr a).toNat = some r →
    r.ctx = p.ctx.toNat →
    exec (.lcancel g q a d) s = .next ((s.cancelTree (p.xr a).toNat).ends c k p q d 0xFF 0 (.lcancel g q a d))) ∧
  (∀ s c k p g q b a d r t, Executes s c k p [ux b, ux a, ux d] (p.guardBit g 0) → p.isDraft = false → b ≠ 0 →
    s.launchRec (p.xr a).toNat = some r → s.launchRec (p.xr b).toNat = some t → r.ctx = p.ctx.toNat → t.ctx = p.ctx.toNat →
    r.graph = false → r.state = 1 → r.cancelled = false → r.opener = p.uid → r.member = none → r.e[1].getLsbD 34 = true →
    r.deps.length < 8 → t.opener = p.uid → t.born < r.born →
    exec (.ldep g q b a d) s = .next ((s.setLaunch (p.xr a).toNat { r with deps := r.deps ++ [(p.xr b).toNat] }).ends c k p q d 0xFF 0
      (.ldep g q b a d))) ∧
  (∀ s c k p g q a d r, Executes s c k p [ux 0, ux a, ux d] (p.guardBit g 0) → p.isDraft = false →
    s.launchRec (p.xr a).toNat = some r → r.ctx = p.ctx.toNat → r.graph = false → r.state = 1 → r.cancelled = false →
    r.opener = p.uid → r.member = none → r.e[1].getLsbD 34 = true →
    exec (.ldep g q 0 a d) s = .next ((s.setLaunch (p.xr a).toNat { r with held := false }).ends c k p q d 0xFF 0
      (.ldep g q 0 a d))) ∧
  (∀ s c k p g q a d, Executes s c k p [ux a, ux d] (p.guardBit g 0) → p.isDraft = false → c < 4360 →
    (s.die (agentDie c)).freePool ≠ [] → p.line.length ≤ 16 → q = 0 →
    (∀ l, p.line.head? = some l → (s.launchRec l).isSome) →
    ∃ t r id w, exec (.graphOpen g q a d) s = .next t ∧ t.launchRec id = some r ∧ r.graph = true ∧ r.closed = false ∧ r.state = 1 ∧
      r.opener = p.uid ∧ r.ctx = p.ctx.toNat ∧ r.above = p.line ∧ r.counter = 0 ∧ t.proc c k = some w ∧ w.pc = p.pc + 4 ∧
      w.retired = p.retired + 1 ∧ p.Keeps w [.x d] ∧ w.xr d = (p.setX d (BitVec.ofNat 64 id)).xr d) ∧
  (∀ s c k p g q a d r, Executes s c k p [ux a, ux d] (p.guardBit g 0) → p.isDraft = false → s.launchRec (p.xr a).toNat = some r →
    r.ctx = p.ctx.toNat → r.graph = true → r.opener = p.uid → r.closed = false →
    exec (.graphClose g q a d) s = .next ((s.setLaunch (p.xr a).toNat { r with closed := true }).ends c k p q d 0xFF 0
      (.graphClose g q a d))) ∧
  (∀ s c k p g q a d, p.priv = true → Executes s c k p [ux a, ux d] (p.guardBit g 0) → p.isDraft = false →
    (p.xr a).extractLsb' 12 52 = 0 →
    exec (.jcancel g q a d) s = .next ((s.cancelJob (launchAgent (agentDie c)) (p.xr a).toNat).ends c k p q d 0xFF 0
      (.jcancel g q a d))) ∧
  ∀ s n pk who id k p g q b d, Arrived s n pk → s.ev.n = n → pk.body = .launchAns who 0 id → p.uid = who.uid →
    Waits s who.core k p (.launch g q b d) .launchAns →
    exec .launchAnswer s = .next (((s.drop n).ends who.core k (p.setX d (BitVec.ofNat 64 id)) q b 0xFF 0 (.launch g q b d)).rejoin
      who.core k)) ∧
  (
  (∀ s n pk e ctx priv who d hp prio hdr u, Arrived s n pk → s.ev.n = n → pk.body = .launchReq e ctx [] priv none who →
    pk.dst = launchAgent d → d < 4 → (s.die d).freePool ≠ [] → (u.die d).freePool ≠ [] → u.fenced pk.dst = false →
    s.launchHead pk.dst ctx ((e[0]?).getD 0) ((e[1]?).getD 0) = .ok hp prio hdr none 0 0 u →
    if hp = true ∧ priv = false then exec .launchRequestArrive s = .next ((u.drop n).send pk.dst pk.src 0 (.launchAns who 5 0))
    else ∃ t r id, exec .launchRequestArrive s = .next t ∧ t.launchRec id = some r ∧ r.graph = false ∧ r.state = 1 ∧ r.ctx = ctx ∧
      r.counter = 1 ∧ r.hdrPrio = prio ∧ r.opener = who.uid ∧ r.e[0] = hdr ∧
      (∀ i (h : i < 8), 0 < i → r.e[i] = (e[i]?).getD 0) ∧
      (u.drop n).Sent t pk.dst pk.src 0 (.launchAns who 0 id)) ∧
  (∀ s id r c, s.ev.n = id → s.launchRec id = some r → r.graph = false → r.joining = none → r.state = 1 → r.cancelled = false →
    r.bad = false → r.deps = [] →
    r.member = none → r.held = false → r.coreCount = 1 → r.perCore = 1 → s.live r.firstCore = some c →
    s.fenced (launchAgent (idDie id)) = false →
    ∃ t, exec .launchRelease s = .next t ∧ t.launchRec id = some { r with state := 2, counter := r.counter + 1 } ∧
      s.Sent t (launchAgent (idDie id)) c 4 (.wakeLaunch id 0)) ∧
  (∀ s n pk id j r h u, Arrived s n pk → s.ev.n = n → pk.body = .wakeLaunch id j → s.launchRec id = some r → r.state ≠ 4 →
    (s.core pk.dst).queue.length < 128 → s.readHeader pk.dst r.ctx r.e[0] = .ok h u →
    ∃ t q, exec .launchWake s = .next t ∧ (t.core pk.dst).queue = (u.core pk.dst).queue ++ [q] ∧ q.hdr = r.e[0] ∧ q.header = h ∧
      q.args = #v[r.e[2], r.e[3], r.e[4], r.e[5]] ∧ q.launch = some id ∧ q.above = r.above ∧ q.exact = false ∧ q.exactHdr = r.exactHdr ∧
      q.prio = (if r.e[1].getLsbD 35 then r.e[1].extractLsb' 36 2 else r.hdrPrio) ∧
      q.index = BitVec.ofNat 32 ((s.vcoreOf pk.dst - r.firstCore) * r.perCore + j)) ∧
  (∀ s n pk id e r, Arrived s n pk → s.ev.n = n → pk.body = .ended id e → s.launchRec id = some r → e.kind = 0 → 2 ≤ r.counter →
    ∃ t r', exec .launchCounterDecrement s = .next t ∧ t.launchRec id = some r' ∧ r'.counter = r.counter - 1 ∧ r'.nok = r.nok + 1 ∧
      r'.nfault = r.nfault ∧ r'.ncancel = r.ncancel ∧ r'.nlost = r.nlost ∧ r'.state = r.state ∧ r'.e = r.e ∧ t.events = s.events) ∧
  (∀ s n pk id e r o, Arrived s n pk → s.ev.n = n → pk.body = .ended id e → s.launchRec id = some r → e.kind = 0 → r.counter = 1 →
    r.graph = false → r.state = 3 → r.e[7] = 0 → r.parent = none → r.member = none → r.depth = 0 → r.cancelled = false →
    (∀ e ∈ s.launches, e.2.parent ≠ some id) → o = (if r.nfault + r.nlost = 0 then 0 else 1) →
    ∃ t r', exec .launchCounterDecrement s = .next t ∧ t.launchRec id = some r' ∧ r'.state = 5 ∧ r'.outcome = o ∧ r'.nok = r.nok + 1 ∧
      t.events = s.events ++ [(launchAgent (idDie id), r.ctx, [0x1900000000000000, BitVec.ofNat 64 id, BitVec.ofNat 64 (o * 2 ^ 56 + id), 0])]) ∧
  (∀ s n pk id, Arrived s n pk → s.ev.n = n → pk.body = .cancel id → pk.src < 65536 → idKind id ≠ 2 → (s.core pk.dst).procs = [] →
    (s.core pk.dst).parked = [] → (s.core pk.dst).saved = [] →
    ∃ t, exec .cancelArrive s = .next t ∧ (t.core pk.dst).queue = (s.core pk.dst).queue.filter (fun r => r.launch != some id) ∧
      (t.core pk.dst).rerun = (s.core pk.dst).rerun.filter (fun r => r.launch != some id)) ∧
  (∀ s n pk id kind child who r, Arrived s n pk → s.ev.n = n → pk.body = .launchJoin id kind child who → s.launchRec id = some r →
    exec .launchRequestArrive s = .next (
      if kind = 0 ∧ (r.state = 4 ∨ r.state = 5) then (s.drop n).send pk.dst pk.src 0 (.launchJoined kind child 8 who)
      else ((s.drop n).setLaunch id
          { r with counter := r.counter + 1, children := r.children + (if kind < 2 then 1 else 0), far := true }).send pk.dst pk.src 0
        (.launchJoined kind child 0 who))) ∧
  ∀ s n pk id k p, Arrived s n pk → s.ev.n = n → pk.body = .cancel id → pk.src < 65536 → idKind id ≠ 2 →
    (s.core pk.dst).procs = [(k, p)] → (s.core pk.dst).parked = [] → (s.core pk.dst).saved = [] → (s.core pk.dst).queue = [] →
    (s.core pk.dst).rerun = [] → p.launch = some id → p.draft = none → p.stoppable = true → (s.slot pk.dst k).state ≠ .starting →
    ∃ u : State, (∀ d, u.core d = s.core d) ∧ u.net = s.net.eraseIdx n ∧ exec .cancelArrive s = .next (u.endProc pk.dst p { kind := 2 }))

/-- R240, R241, R243, R244: GSEND adds a contribution to the first sequence that takes one, or opens the next; GRECV takes the
oldest result and waits without one; an entry that is not valid ends both with CLOSED, one of another context with PROT; GCFG
writes an entry from a valid block. R86, R242: a child's value joins its sequence; a root whose contributions are all there
combines them and keeps the result; another router sends the value up against a credit, which its parent gives, or to the I/O
die for the switches; a result that comes down waits for the local receivers. -/
def Obligations.Combining : Prop :=
  (
  (∀ s c k p i g q n a d us ws e, (i = .gsendScalar g q n a d ∧ us = [(5, n.toNat), ux a, ux d] ∧ ws = [p.xr a] ∧ e.wm1 = 0 ∨
      i = .gsendVector g q n a d ∧ us = [(5, n.toNat), uv a, ux d] ∧ ws = groupWords e p a ∧ a.toNat + e.regs ≤ 32 ∧
        a.toNat + e.regs ≤ p.vregs) →
    Executes s c k p us (p.guardBit g 0) → p.isDraft = false → e = s.group c n.toNat →
    (e.valid = false → exec i s = .next (s.ends c k p q d n.toNat 4 i)) ∧
    (e.valid = true → e.ctx ≠ p.ctx.toNat → exec i s = .next (s.ends c k p q d n.toNat 5 i)) ∧
    (e.valid = true → e.ctx = p.ctx.toNat → e.lsend ≠ 0 → p.released e.xpkg = false → exec i s = .next (s.block c k i (.release e.xpkg))) ∧
    (e.valid = true → e.ctx = p.ctx.toNat → e.lsend ≠ 0 → p.released e.xpkg = true → e.oper ≠ 6 → e.seqs = [] →
      exec i s = .next ((s.setGroup c n.toNat { e with seqs := [{ Sequence.opened (e.base % 256) with
        loc := [(p.uid, p.index.toNat * 256 + p.gen.toNat, ws)] }] }).ends c k p q d n.toNat 0 i)) ∧
    (∀ z, e.valid = true → e.ctx = p.ctx.toNat → e.lsend ≠ 0 → p.released e.xpkg = true → e.oper ≠ 6 → e.seqs = [z] → z.sent = false →
      z.loc.length < e.lsend → (∀ l ∈ z.loc, l.1 ≠ p.uid) →
      exec i s = .next ((s.setGroup c n.toNat { e with seqs := [{ z with
        loc := z.loc ++ [(p.uid, p.index.toNat * 256 + p.gen.toNat, ws)] }] }).ends c k p q d n.toNat 0 i)) ∧
    (e.valid = true → e.ctx = p.ctx.toNat → e.lsend ≠ 0 → p.released e.xpkg = true → e.seqs.length = 4 →
      (∀ z ∈ e.seqs, e.lsend ≤ z.loc.length) → exec i s = .next (s.block c k i (.gsend n.toNat)))) ∧
  (∀ s c k p g q n a d e, Executes s c k p [(5, n.toNat), ux a, ux d] (p.guardBit g 0) → p.answer = none → e = s.group c n.toNat →
    e.valid = true → e.ctx = p.ctx.toNat → e.lrecv ≠ 0 → e.wm1 = 0 →
    ((∀ z ∈ e.seqs, z.result = none) → exec (.grecvScalar g q n a d) s = .next (s.block c k (.grecvScalar g q n a d) (.grecv n.toNat))) ∧
    ∀ z ws, e.seqs = [z] → z.result = some (ws, 0) → z.taken.length < e.lrecv → p.uid ∉ z.taken →
      ∃ t r, exec (.grecvScalar g q n a d) s = .next t ∧ t.proc c k = some r ∧ r.pc = p.pc + 4 ∧ r.retired = p.retired + 1 ∧
        (∀ x, r.xr x = ((p.setX d (ws.headD 0)).withOk q a).xr x) ∧ (∀ x, r.vr x = p.vr x) ∧
        ((t.group c n.toNat).seqs = [{ z with taken := p.uid :: z.taken }] ∨ (t.group c n.toNat).seqs = [] ∧
          (t.group c n.toNat).base = (e.base + 1) % 256 ∧ e.lrecv ≤ z.taken.length + 1)) ∧
  (∀ s c k p g q n a (d : BitVec 5) e, Executes s c k p [(5, n.toNat), ux a, uv d] (p.guardBit g 0) → p.answer = none → e = s.group c n.toNat →
    e.valid = true → e.ctx = p.ctx.toNat → e.lrecv ≠ 0 → d.toNat + e.regs ≤ 32 → d.toNat + e.regs ≤ p.vregs →
    ((∀ z ∈ e.seqs, z.result = none) → exec (.grecvVector g q n a d) s = .next (s.block c k (.grecvVector g q n a d) (.grecv n.toNat))) ∧
    ∀ z ws, e.seqs = [z] → z.result = some (ws, 0) → z.taken.length < e.lrecv → p.uid ∉ z.taken →
      ∃ t r, exec (.grecvVector g q n a d) s = .next t ∧ t.proc c k = some r ∧ r.pc = p.pc + 4 ∧ r.retired = p.retired + 1 ∧
        (∀ x, r.xr x = (p.withOk q a).xr x) ∧
        ∀ x : BitVec 5, r.vr x = if d.toNat ≤ x.toNat ∧ x.toNat < d.toNat + e.regs then
          (ws[4 * (x.toNat - d.toNat) + 3]?).getD 0 ++ (ws[4 * (x.toNat - d.toNat) + 2]?).getD 0 ++
            (ws[4 * (x.toNat - d.toNat) + 1]?).getD 0 ++ (ws[4 * (x.toNat - d.toNat)]?).getD 0 else p.vr x) ∧
  ∀ s c k p g n a off ws w v t, Executes s c k p [(5, n.toNat), ux a] (p.guardBit g 0) → p.isDraft = false →
    s.localCheck c p (p.xr a) 64 64 true true = .own off → (s.core c).ownedIn off 64 = none →
    ws = bytesWords (s.localBytes c off 64) 8 → v = (ws.headD 0).toNat → v < 3968 → s.agent v = some t →
    (s.group t n.toNat).valid = false → (s.group t n.toNat).seqs = [] → w = (ws[1]?).getD 0 → w ≠ 0 → (∀ x ∈ ws.drop 2, x = 0) →
    groupWordOk w.toNat = true →
    ∃ u : State, exec (.gcfg g n a) s = .next (u.retireTo c k p (.gcfg g n a) (p.pc + 4)) ∧ u.group t n.toNat =
      { valid := true, ctx := p.ctx.toNat, base := 0, word := w, seqs := [], creds := 0 } ∧ ∀ j, u.slot c j = s.slot c j) ∧
  (
  (∀ s n pk g dir m ws e z, s.net[n]? = some pk → s.held pk = false → s.ev.n = n → pk.body = .combine g dir m ws → e = s.group pk.dst g →
    e.valid = true → dir ∈ e.kids → e.seqs = [z] → z.seq = m → z.sent = false → (e.root = true ∨ e.sendsUp = true) →
    exec .combineContributionArrive s = .next ((s.drop n).setGroup pk.dst g { e with seqs := [{ z with kids := z.kids ++ [(dir, ws)] }] })) ∧
  (∀ s c g e z up, c = s.ev.c → g = s.ev.n → e = s.group c g → e.valid = true → e.seqs = [z] → z.sent = false → e.sendsUp = true →
    e.complete z = true → e.parent < 5 → e.creds ≠ 0 → s.nextRouter c e.parent = some up →
    (e.mode ≠ 0 → z.result = none →
      exec .combineSequence s = .next ((s.route c up (.combine g (facing e.parent) z.seq (e.value z))).setGroup c g
        { e with seqs := [{ z with sent := true }], creds := e.creds - 1 })) ∧
    (∀ e', e.mode = 0 → e' = { e with seqs := [], base := (e.base + 1) % 256, creds := e.creds - 1 } →
      exec .combineSequence s = .next (((s.route c up (.combine g (facing e.parent) z.seq (e.value z))).setGroup c g e').creditKids
        c g 1 e'))) ∧
  (∀ s c g e z i r, c = s.ev.c → g = s.ev.n → e = s.group c g → e.valid = true → e.seqs = [z] → z.sent = false → e.sendsUp = true →
    e.complete z = true → 5 ≤ e.parent → z.result = none → ((s.bridges[4 + agentDie c]?).getD Bridge.reset).carries = true →
    s.reductionFor (s.vcoreOf c) g e = some (i, r) →
    exec .combineSequence s = .next ((s.route c ioUnit (.contribution (r.w0.extractLsb' 0 16).toNat (r.w0.extractLsb' 20 10).toNat z.seq
      (e.value z))).setGroup c g { e with seqs := [{ z with sent := true }] })) ∧
  (∀ s c g e z, c = s.ev.c → g = s.ev.n → e = s.group c g → e.valid = true → e.seqs = [z] → z.sent = false → e.root = true →
    e.complete z = true → (e.mode = 0 ∨ e.kids = []) → z.taken.length < e.lrecv →
    exec .combineSequence s = .next (s.setGroup c g { e with seqs := [{ z with sent := true, result := some (e.value z, 0) }] })) ∧
  (∀ (e : Combine) (z : Sequence) u v m l a b, e.type = 3 → e.oper = 0 → e.wm1 = 0 → e.kids = [] → z.loc = [(u, m, [a]), (v, l, [b])] →
    e.value z = [a + b]) ∧
  (∀ s n pk g m ws st e z, s.net[n]? = some pk → s.held pk = false → s.ev.n = n → pk.body = .combineRes g m ws st →
    e = s.group pk.dst g → e.valid = true → e.kids = [] → e.seqs = [z] → z.seq = m → z.taken.length < e.lrecv → e.hasResult = true →
    exec .combineResultArrive s = .next ((s.drop n).setGroup pk.dst g { e with seqs := [{ z with result := some (ws, st) }] })) ∧
  ∀ s n pk g dir e, s.net[n]? = some pk → s.held pk = false → s.ev.n = n → pk.body = .combineCred g dir → e = s.group pk.dst g →
    e.valid = true → e.parent = dir →
    exec .combineCreditArrive s = .next ((s.drop n).setGroup pk.dst g { e with creds := e.creds + 1 }))

/-- R245 to R249: GCFG chN makes a CLOSED port a sender or a sink; DSEND reads its row and claims a slot at the destination that
x[D] selects; a sink grants its slots in order and refuses with FULL, on which POLICY 0 drops the row; a granted row is sent,
written in its slot and acknowledged, and counts; DSTAT reads the counts. -/
def Obligations.Dispatch : Prop :=
  (∀ s c k p g n a j po off ws cap base, Executes s c k p [(4, n.toNat), ux a] (p.guardBit g 0) → HasPort s c p n j po → p.isDraft = false →
    po.state = 0 → s.localCheck c p (p.xr a) 64 64 true true = .own off → (s.core c).ownedIn off 64 = none →
    ws = bytesWords (s.localBytes c off 64) 8 → ws.headD 0 = 0x2000000000000000#64 → cap < 4096 → base < 2 ^ 18 →
    (ws[1]?).getD 0 = BitVec.ofNat 64 (cap * 2 ^ 18 + base) → 1 ≤ cap → cap ≤ 2688 → base % 64 = 0 → base + 64 * cap ≤ p.wsize →
    (∀ x ∈ ws.drop 2, x = 0) →
    exec (.gcfgPort g n a) s = .next ((s.setPort c j { Port.closed po.owner with
      state := 1, type := 3, buffered := true, seq := po.seq, disp := some (Dispatch.sinkOf cap base) }).retireTo c k p (.gcfgPort g n a)
        (p.pc + 4))) ∧
  (∀ s c k p g q n a d j po e key off h x, Executes s c k p [(4, n.toNat), ux a, ux d] (p.guardBit g 0) → HasPort s c p n j po →
    p.isDraft = false → po.state ≠ 0 → po.disp = some e → e.sink = false → p.answer = none → key = (p.xr d).toNat →
    e.dests[key]? = some h → s.localCheck c p (p.xr a) 64 64 true true = .own off → (s.core c).ownedIn off 64 = none →
    p.released (hPkg h != s.pkgid.toNat) = true → s.handleDest h = some x → s.fenced c = false →
    ∃ t r, exec (.dsend g q n a d) s = .next t ∧ t.proc c k = some r ∧
      r.wait = some { instr := .dsend g q n a d, kind := .claim key false } ∧ (∃ w, r.answer = some w ∧ w.row = s.localBytes c off 64) ∧
      s.Sent t c x 0 (.claimRow h (s.handle p j 3) { core := c, uid := p.uid })) ∧
  (∀ s c k p g n a d j po, Executes s c k p [(4, n.toNat), ux a, ux d] (p.guardBit g 0) → HasPort s c p n j po →
    exec (.dstat g n a d) s = .next (s.retireTo c k (p.setX d (match po.disp with
      | some e => BitVec.ofNat 64 (e.stat (p.xr a).toNat)
      | none => 0)) (.dstat g n a d) (p.pc + 4))) ∧
  (∀ s n pk target sender who po e, Arrived s n pk → s.ev.n = n → pk.body = .claimRow target sender who →
    s.sinkCheck pk.dst target sender = 0 → s.port pk.dst (hPort target) = some po → po.disp = some e →
    exec .dispatchClaimArrive s = .next (if e.cap ≤ e.granted then (s.drop n).send pk.dst pk.src 0 (.claimAns who 1 0 0)
      else ((s.drop n).setPort pk.dst (hPort target) { po with disp := some { e with granted := e.granted + 1 } }).send pk.dst pk.src 0
        (.claimAns who 0 e.granted (e.cap - e.granted - 1)))) ∧
  (∀ s n pk who slot free k p g q m a d key j po e h x w, Arrived s n pk → s.ev.n = n → pk.body = .claimAns who 0 slot free →
    p.uid = who.uid → Waits s who.core k p (.dsend g q m a d) (.claim key false) → HasPort s who.core p m j po → po.disp = some e →
    e.sink = false → e.dests[key]? = some h → s.handleDest h = some x → s.fenced who.core = false → p.answer = some w →
    ∃ t r, exec .dispatchClaimAnswer s = .next t ∧ t.proc who.core k = some r ∧
      r.wait = some { instr := .dsend g q m a d, kind := .row key false } ∧
      (s.drop n).Sent t who.core x 3 (.row h (s.handle p j 3) slot w.row who)) ∧
  (∀ s n pk target sender slot data who po e p, Arrived s n pk → s.ev.n = n → pk.body = .row target sender slot data who →
    s.sinkCheck pk.dst target sender = 0 → s.port pk.dst (hPort target) = some po → po.disp = some e →
    (s.core pk.dst).owner (hPort target) = some p → (s.core pk.dst).isSaved p.uid = false → (s.core pk.dst).ownedIn (p.wbase + e.base + 64 * slot) 64 = none →
    exec .dispatchRowArrive s = .next ((((s.drop n).tileWrite pk.dst (p.wbase + e.base + 64 * slot) data).setPort pk.dst (hPort target)
      { po with disp := some { e with written := insertNat slot e.written } }).send pk.dst pk.src 2 (.claimAns who 3 0 0))) ∧
  (∀ s n pk who free k p g q m a d key j po e, Arrived s n pk → s.ev.n = n → pk.body = .claimAns who 3 0 free → p.uid = who.uid →
    Waits s who.core k p (.dsend g q m a d) (.row key false) → HasPort s who.core p m j po → po.disp = some e →
    ∃ t r, exec .dispatchClaimAnswer s = .next t ∧ t.proc who.core k = some r ∧ r.pc = p.pc + 4 ∧ r.retired = p.retired + 1 ∧
      r.wait = none ∧ (q = 1 → d ≠ 0 → r.xr d = 0) ∧
      t.port who.core j = some { po with disp := some { e with sent := e.sent.modify key fun m => min (m + 1) (2 ^ 32 - 1) } }) ∧
  ∀ s n pk who free k p g m a d key j po e, Arrived s n pk → s.ev.n = n → pk.body = .claimAns who 1 0 free → p.uid = who.uid →
    Waits s who.core k p (.dsend g 1 m a d) (.claim key false) → HasPort s who.core p m j po → po.disp = some e → e.sink = false →
    e.policy = 0 →
    ∃ t r, exec .dispatchClaimAnswer s = .next t ∧ t.proc who.core k = some r ∧ r.pc = p.pc + 4 ∧ r.retired = p.retired + 1 ∧
      r.wait = none ∧ (d ≠ 0 → r.xr d = 6) ∧ t.port who.core j = some { po with disp := some { e with
        free := e.free.modify key fun _ => free, drops := min (e.drops + 1) (2 ^ 32 - 1) } }

/-- R317 to R321, R330, R335: a malformed descriptor ends with REFUSED and a counter or barrier of another context with PROT; a copy
between global addresses, aligned to its elements, is accepted, runs or is armed until its counter fires, and the instruction
ends with OK; one into the own window takes its granules, which become empty and owned. R316, R323, R324, R326 to R328: every
four cycles the engine sends the next unit to its source's holder, which pushes the bytes read to the destination's; they are
written there and acknowledged, and the last acknowledgement completes the copy; a ring's slot is filled with the last unit. -/
def Obligations.Copies : Prop :=
  (
  (∀ s c k p i g q st us arm, (i = .copy g q st ∧ us = [ux st] ∧ arm = none ∨
      ∃ n a, i = .copya g q n a st ∧ us = [ux a, ux st] ∧ arm = some (n.toNat, (p.xr a).extractLsb' 0 32)) →
    isMemCore c = false → Executes s c k p us (p.guardBit g 0) →
    ∀ d : Desc, d = #v[p.er 0, p.er 1, p.er 2, p.er 3, p.er 4, p.er 5] →
    (d.malformed = true → exec i s = .next (s.ends c k p q st 0xFF 2 i)) ∧
    (d.malformed = false → s.copyTrap c p d = none → p.isDraft = false →
      (d.ctr = true ∧ (s.core c).ctrOwner[d.ck]? ≠ some (some p.ctx) ∨ d.tbv = true ∧ ((s.core c).bar d.tbn).owner ≠ some p.ctx) →
      exec i s = .next (s.ends c k p q st 0xFF 5 i)) ∧
    (d.malformed = false → d.toRing = false → d[0].getLsbD 63 = false → d[1].getLsbD 63 = false → d[0].toNat % d.es = 0 →
      d[1].toNat % d.es = 0 → p.isDraft = false → d.ctr = false → d.tbv = false →
      (∀ j w, arm = some (j, w) → (s.core c).ctrOwner[j]? = some (some p.ctx)) → (s.core c).copyRoom p.uid = true →
      p.released false = true → p.copyChecks = 0 → (∀ cp ∈ (s.core c).copies, cp.id ≠ (s.core c).nextJob) →
      ∃ t r cp, exec i s = .next t ∧ t.proc c k = some r ∧ r.pc = p.pc + 4 ∧ r.retired = p.retired + 1 ∧
        (∀ x, r.xr x = (p.withOk q st).xr x) ∧ (∀ x, r.vr x = p.vr x) ∧ (t.core c).copies.length = (s.core c).copies.length + 1 ∧
        cp ∈ (t.core c).copies ∧ cp.id = (s.core c).nextJob ∧ cp.d = d ∧ cp.uid = p.uid ∧ cp.ctx = p.ctx.toNat ∧ cp.next = 0 ∧
        match arm with
        | none => cp.running = true ∧ cp.armed = none
        | some (j, w) => if ((s.core c).ctrAt j - w).toNat < 2 ^ 31 then cp.running = true ∧ cp.armed = none
            else cp.running = false ∧ cp.armed = some (j, w)) ∧
    (d.malformed = false → d.toRing = false → d[0].getLsbD 63 = false → s.copyDest c p d = some c → s.namesOwn p d[1] = true →
      d[1].getLsbD 63 = true → c < 65536 → s.copyTrap c p d = none → p.isDraft = false → d.ctr = false → d.tbv = false → arm = none →
      (s.core c).copyRoom p.uid = true → p.released false = true → p.copyChecks = 0 → s.copyFree c p d = true →
      (s.core c).waits = [] →
      ∃ t r, exec i s = .next t ∧ t.proc c k = some r ∧ r.retired = p.retired + 1 ∧
        ∀ gr ∈ d.granules, (t.core c).owned gr = true ∧ (t.core c).isFull gr = false)) ∧
  ∀ s c k p g q st (d : Desc), c = s.ev.c → k = s.ev.k → Waits s c k p (.copy g q st) .copyQueue →
    d = #v[p.er 0, p.er 1, p.er 2, p.er 3, p.er 4, p.er 5] → d.malformed = false → d.toRing = false → d[0].getLsbD 63 = false →
    d[1].getLsbD 63 = false → d[0].toNat % d.es = 0 → d[1].toNat % d.es = 0 → p.isDraft = false → d.ctr = false → d.tbv = false →
    (s.core c).copyRoom p.uid = true → p.released false = true → p.copyChecks = 0 →
    ∃ t r, exec .copyAccept s = .next t ∧ t.proc c k = some r ∧ r.pc = p.pc + 4 ∧ r.retired = p.retired + 1 ∧ r.wait = none ∧
      (t.core c).copies.length = (s.core c).copies.length + 1) ∧
  (
  (∀ s c cp t o e x u, c = s.ev.c → (s.core c).copies = [cp] → cp.flight.length < 32 → (s.core c).copyAt ≤ s.now → cp.running = true →
    cp.stopped = false → cp.claim = 0 → cp.fixups = [] → cp.next < cp.d.len → cp.tag = none → cp.d.toRing = false →
    u = s.setCore c { s.core c with copyTurn := cp.id, copyAt := s.now + 4 } →
    u.spotFor c cp (cp.d.src cp.next) needR = .at (.spad t o) u → u.spotFor c cp (cp.d.dst cp.next) needW = .at (.spad e x) u →
    exec .copyUnitSend s = .next ((u.modCopy c cp.id fun q => { q with
        next := q.next + min (cp.d.unit cp.next) (cp.d.len - cp.next),
        flight := q.flight ++ [(cp.next, min (cp.d.unit cp.next) (cp.d.len - cp.next))] }).send c t 1
      (.copyRead { core := c, id := cp.id } cp.next (min (cp.d.unit cp.next) (cp.d.len - cp.next)) cp.order (.spad t o) (.spad e x)
        cp.uid none))) ∧
  (∀ s n pk job off len order t o e x uid tag, Arrived s n pk → s.ev.n = n →
    pk.body = .copyRead job off len order (.spad t o) (.spad e x) uid tag → s.readWaits t o len order job = false → pk.src < 65536 →
    exec .copyUnitRead s = .next ((s.drop n).send pk.dst e 2 (.copyWrite job off ((s.core t).spad.bytes o len) (.spad e x)))) ∧
  (∀ s n pk job off data t o u, Arrived s n pk → s.ev.n = n → pk.body = .copyWrite job off data (.spad t o) → pk.src < 65536 →
    job.core < 65536 → u = (s.drop n).modCore t (fun co => { co with spad := co.spad.put o data }) →
    exec .copyUnitWrite s = .next ((u.unitWritten job off data.length).send pk.dst job.core 2 (.copyAck job off data.length 0)) ∧
      (u.core t).spad = (s.core t).spad.put o data) ∧
  (∀ s n pk job off len cp, Arrived s n pk → s.ev.n = n → pk.body = .copyAck job off len 0 → job.id < noUid →
    (s.core job.core).copies = [cp] → cp.id = job.id → cp.flight = [(off, len)] → len ≠ 0 → cp.stopped = false → cp.next = cp.d.len →
    cp.fixups = [] → cp.running = true → cp.claim = 0 → cp.status = 0 → cp.d.ctr = true → cp.d.tbv = false →
    (s.core cp.dest).taken = [] →
    ∃ t, exec .copyUnitAck s = .next t ∧ (t.core job.core).copies = [] ∧
      (t.core job.core).ctrAt cp.d.ck = (s.core job.core).ctrAt cp.d.ck + cp.d.inc) ∧
  ∀ s n pk place off data job c j r slot p, Arrived s n pk → s.ev.n = n → pk.body = .ringData place off data true job true →
    s.ringAt place = some (c, j, r, slot) → (s.core c).ringOwner r = some p →
    exec .ringPushData s = .next ((((s.drop n).modCore c fun co =>
      { co with spad := co.spad.put (p.wbase + 256 * r.base + 256 * r.ssize * slot + off) data }).setRing c j (r.complete slot)).send
        pk.dst job.core 2 (.ringAns job true 0 place)))

/-- R329, R330, R332, R333, R336 to R339: CTRADD and CTRSET change a counter of their context, CSTAT reads it; TBEXP makes a barrier
its context's and posts an expectation; TBARR arrives, and retires when its phase completes, and waits otherwise. -/
def Obligations.CountersAndBarriers : Prop :=
  (∀ s c k p g q (n : BitVec 4) a d, Executes s c k p [ux a, ux d] (p.guardBit g 0) →
    ((s.core c).ctrOwner[n.toNat] ≠ some p.ctx → exec (.ctradd g q n a d) s = .next (s.ends c k p q d n.toNat 5 (.ctradd g q n a d))) ∧
    ((s.core c).ctrOwner[n.toNat] = some p.ctx → (∀ cp ∈ (s.core c).copies, cp.armed = none) →
      exec (.ctradd g q n a d) s = .next ((s.setCore c { s.core c with
        ctr := (s.core c).ctr.set n.toNat ((s.core c).ctr[n.toNat] + (p.xr a).extractLsb' 0 32) }).ends c k p q d n.toNat 0
          (.ctradd g q n a d)))) ∧
  (∀ s c k p g q z (n : BitVec 4) a d, Executes s c k p [ux a, ux d] (p.guardBit g 0) → (s.core c).copies = [] →
    exec (.ctrset g q z n a d) s = .next ((s.setCore c { s.core c with
      ctrOwner := (s.core c).ctrOwner.set n.toNat (some p.ctx),
      ctr := (s.core c).ctr.set n.toNat ((p.xr a).extractLsb' 0 32) }).ends c k p q d n.toNat 0 (.ctrset g q z n a d))) ∧
  (∀ s c k p g (n : BitVec 4) d, Executes s c k p [ux d] (p.guardBit g 0) →
    exec (.cstat g n 0 d) s = .next (s.retireTo c k (p.setX d (if (s.core c).ctrOwner[n.toNat] = some p.ctx then
      ((s.core c).ctr[n.toNat]).zeroExtend 64 else 0)) (.cstat g n 0 d) (p.pc + 4)) ∧
    ((s.core c).copies = [] → p.cfail < 256 → p.cstatus < 256 →
      exec (.cstat g n 3 d) s = .next (s.retireTo c k (({ p with cfail := 0, cstatus := 0 } : Proc).setX d
        (BitVec.ofNat 64 (p.cfail * 2 ^ 16 + p.cstatus * 2 ^ 8))) (.cstat g n 3 d) (p.pc + 4)))) ∧
  (∀ s c k p g q (n : BitVec 3) a d w, Executes s c k p [ux a, ux d] (p.guardBit g 0) → w = p.xr a → w.extractLsb' 52 10 = 0 →
    w.getLsbD 63 = true → w.getLsbD 62 = false → (s.core c).barWaited n.toNat = false → (s.core c).copies = [] → w.extractLsb' 40 12 ≠ 0 →
    ∃ t b, exec (.tbexp g q n a d) s = .next (t.ends c k p q d n.toNat 0 (.tbexp g q n a d)) ∧
      t = s.setCore c { s.core c with tb := (s.core c).tb.set n.toNat b } ∧ b.owner = some p.ctx ∧ b.phase = 0 ∧
      b.expa[0] = w.extractLsb' 40 12 ∧ b.bal[0] = (w.extractLsb' 0 40).zeroExtend 48 ∧ b.arr[0] = 0 ∧ b.posted[0] = true ∧
      b.posted[1] = false) ∧
  ∀ s c k p g q (n : BitVec 3) d b, Executes s c k p [ux d] (p.guardBit g 0) → p.tbPhase = none → b = (s.core c).tb[n.toNat] →
    (b.owner ≠ some p.ctx → exec (.tbarr g q n d) s = .next (s.ends c k p q d n.toNat 5 (.tbarr g q n d))) ∧
    (b.owner = some p.ctx → b.phase = 0 → b.posted[0] = true → b.expa[0] = b.arr[0] + 1 → b.bal[0] = 0 → b.posted[1] = false →
      exec (.tbarr g q n d) s = .next ((s.setCore c { s.core c with tb := (s.core c).tb.set n.toNat { b with
        phase := 1, expa := b.expa.set 0 0, arr := b.arr.set 0 0, posted := b.posted.set 0 false } }).ends c k p q d n.toNat 0
          (.tbarr g q n d))) ∧
    (b.owner = some p.ctx → b.phase = 0 → (b.posted[0] = false ∨ b.expa[0] ≠ b.arr[0] + 1 ∨ b.bal[0] ≠ 0) →
      ∃ t r, exec (.tbarr g q n d) s = .next t ∧ t.proc c k = some r ∧ r.wait = some { instr := .tbarr g q n d, kind := .tbarr } ∧
        r.pc = p.pc ∧ r.tbPhase = some (n.toNat, 0) ∧ (t.core c).tb[n.toNat].arr[0] = b.arr[0] + 1 ∧ (t.core c).tb[n.toNat].phase = 0)

/-- R347, R348: PROOF outside a draft only retires; in a draft a residual that is not finite or exceeds TOL sets FAILED, and NPROOF
counts up to 65,535. PVERD writes the verdict so far, 0 outside a draft. R350 to R352: a galley write at its home makes or
extends entries of its own tag alone, never more than 2,048 in all, and is acknowledged; a full store drops it and says so. -/
def Obligations.ProofsAndGalleys : Prop :=
  (
  (∀ s c k p g a r, Executes s c k p [ux a] (p.guardBit g 0) → r = p.xr a →
    exec (.proof g a) s = .next (s.retireTo c k (match p.draft with
      | none => p
      | some d => { p with draft := some { d with
          failed := d.failed || r.extractLsb' 52 11 == 0x7FF || decide (p.record.tol.toNat < (r.extractLsb' 0 63).toNat),
          nproof := min (d.nproof + 1) 65535 } }) (.proof g a) (p.pc + 4))) ∧
  ∀ s c k p g d, Executes s c k p [ux d] (p.guardBit g 0) →
    exec (.pverd g d) s = .next (s.retireTo c k (p.setX d (match p.draft with
      | none => 0
      | some v => 1#1 ++ BitVec.ofBool v.failed ++ BitVec.ofBool v.quota ++ BitVec.ofBool v.stfull ++ 0#12 ++ BitVec.ofNat 16 v.nproof ++
          BitVec.ofNat 32 v.gused)) (.pverd g d) (p.pc + 4))) ∧
  (
  (∀ s n pk r tag data who job off q u l, Arrived s n pk → s.ev.n = n → pk.body = .galley r tag data who 0 job off →
    (s.drop n).atHome pk.dst r data.length = some (q, u) →
    galleyPut tag (BitVec.ofNat 48 q.exp) q.pa data (u.home pk.dst).galley = some l →
    exec .galleyWrite s = .next (((u.modHome pk.dst fun m => { m with galley := l }).notifyWatch 0 q.pa data.length).send pk.dst who.core 2
      (.storeAck who 0 q.va (BitVec.ofNat 64 off) false 0))) ∧
  (∀ s n pk r tag data who job off q u, Arrived s n pk → s.ev.n = n → pk.body = .galley r tag data who 0 job off →
    (s.drop n).atHome pk.dst r data.length = some (q, u) →
    galleyPut tag (BitVec.ofNat 48 q.exp) q.pa data (u.home pk.dst).galley = none →
    exec .galleyWrite s = .next (u.send pk.dst who.core 2 (.storeAck who 2 q.va (BitVec.ofNat 64 off) false 0))) ∧
  (∀ tag e data pa l l', galleyPut tag e pa data l = some l' →
    l'.filter (fun g => g.tag != tag) = l.filter (fun g => g.tag != tag) ∧ (l.length ≤ 2048 → l'.length ≤ 2048) ∧
      l.length ≤ l'.length) ∧
  (∀ tag e data pa l, galleyPut tag e pa data l = none → 2048 ≤ l.length + data.length) ∧
  ∀ tag e b pa l, (∀ g ∈ l, ¬(g.tag = tag ∧ g.seg = pa / 64)) → l.length < 2048 →
    galleyPut tag e pa [b] l = some (l ++ [{ tag := tag, seg := pa / 64, data := [(pa % 64, b)], exp := e }]))

/-- R357 to R361: a draft that has drained is discarded with the first cause that holds, commits when it has written nothing, or
asks its homes to prepare; a home answers LAPSE, or locks the entries' lines; the last answer publishes, or discards; a home
writes the masked bytes alone; the last acknowledgement commits; a discard drops the tag's entries, and its last acknowledgement
ends the draft. -/
def Obligations.DraftResolution : Prop :=
  (∀ s c k p d v, s.ev.c = c → s.ev.k = k → (s.core c).procAt k = some p → p.draft = some d → p.sack = 0 → p.replay = [] → d.acks = 0 →
    (∀ cp ∈ (s.core c).copies, cp.uid ≠ p.uid) → (∀ m ∈ (s.core c).memops, m.uid = p.uid → m.op ≠ 1) →
    (∀ t ∈ (s.core c).tileq, t.uid ≠ p.uid) → d.state = .settling →
    v = (if d.cause ≠ 0 then d.cause else if d.quota then 3 else if d.stfull then 4 else if d.nproof = 0 then 2
      else if d.failed then 1 else 0) →
    exec .draftSettled s = .next (if v ≠ 0 then s.modDraft c p.uid fun d => { d with cause := v, state := .discarding }
      else if d.homes = [] then s.commitDraft c p d
      else d.homes.foldl (fun s h => s.send c h 0 (.galleyPrep p.tag { core := c, uid := p.uid }))
        (s.modDraft c p.uid fun d => { d with state := .preparing, acks := d.homes.length, lapse := false }))) ∧
  (∀ s n pk tag who, Arrived s n pk → s.ev.n = n → pk.body = .galleyPrep tag who →
    ((∃ g ∈ (s.home pk.dst).galley, g.tag = tag ∧ s.lapses (agentDie pk.dst) g.exp.toNat = true) →
      exec .galleyPrepare s = .next ((s.drop n).send pk.dst pk.src 2 (.galleyPrepAns who false))) ∧
    ((∀ g ∈ (s.home pk.dst).galley, g.tag = tag → s.lapses (agentDie pk.dst) g.exp.toNat = false) →
      ∃ t, exec .galleyPrepare s = .next t ∧ (s.drop n).Sent t pk.dst pk.src 2 (.galleyPrepAns who true) ∧
        ∀ g ∈ (s.home pk.dst).galley, g.tag = tag → (g.seg / 4, tag) ∈ (t.home pk.dst).locked)) ∧
  (∀ s n pk who p d, Arrived s n pk → s.ev.n = n → pk.body = .galleyPrepAns who true → (s.core who.core).find who.uid = some p →
    p.draft = some d → d.state = .preparing → d.acks = 1 →
    exec .galleyPrepareAnswer s = .next (if d.lapse
      then (s.drop n).modDraft who.core who.uid fun d => { d with acks := 0, cause := 7, state := .discarding }
      else d.homes.foldl (fun s h => s.send who.core h 0 (.galleyPub p.tag who true))
        ((s.drop n).modDraft who.core who.uid fun d => { d with acks := d.homes.length, state := .publishing }))) ∧
  (∀ s n pk tag who b, Arrived s n pk → s.ev.n = n → pk.body = .galleyPub tag who b →
    ∃ t, exec .galleyPublish s = .next t ∧
      (∀ a, (∀ g ∈ (s.home pk.dst).galley, g.tag = tag → ∀ e ∈ g.data, a ≠ g.seg * 64 + e.1) → t.hbm.read a = s.hbm.read a) ∧
      (∀ g i v, (s.home pk.dst).galley.filter (fun g => g.tag == tag) = [g] → g.data = [(i, v)] → t.hbm.read (g.seg * 64 + i) = v) ∧
      (t.home pk.dst).galley = (s.home pk.dst).galley.filter (fun g => g.tag != tag) ∧
      ∀ l ∈ (t.home pk.dst).locked, l.2 ≠ tag) ∧
  (∀ s n pk who p d, Arrived s n pk → s.ev.n = n → pk.body = .galleyPubAck who → (s.core who.core).find who.uid = some p →
    p.draft = some d → d.state = .publishing →
    exec .galleyPublishAck s = .next (if d.acks = 1 then (s.drop n).commitDraft who.core p d
      else (s.drop n).modDraft who.core who.uid fun d => { d with acks := d.acks - 1 })) ∧
  (∀ s n pk tag who, Arrived s n pk → s.ev.n = n → pk.body = .galleyDrop tag who →
    ∃ t, exec .galleyDiscard s = .next t ∧ t.hbm = s.hbm ∧ (s.drop n).Sent t pk.dst pk.src 2 (.galleyDropAck who) ∧
      (t.home pk.dst).galley = (s.home pk.dst).galley.filter (fun g => g.tag != tag)) ∧
  ∀ s n pk who p d, Arrived s n pk → s.ev.n = n → pk.body = .galleyDropAck who → (s.core who.core).find who.uid = some p →
    p.draft = some d → d.state = .discarding →
    (2 ≤ d.acks → exec .galleyDiscardAck s = .next ((s.drop n).modDraft who.core who.uid fun d => { d with acks := d.acks - 1 })) ∧
    ∀ hdr h u, d.acks = 1 → d.fate = 0 → p.record.exactHdr = some hdr → (s.drop n).readHeader who.core p.ctx.toNat hdr = .ok h u →
      ∃ t v, exec .galleyDiscardAck s = .next t ∧ v ∈ (t.core who.core).rerun ∧ v.hdr = hdr ∧ v.exact = true ∧
        v.index = p.record.index ∧ v.args = p.record.args ∧ v.launch = p.record.launch ∧ v.ctx = p.record.ctx ∧
        v.prio.toNat = min (p.record.prio.toNat + 1) 3

/-- R58, R272 to R276, R354: on a memory core HLOAD, HSTORE and HPUSH check their operands, wait for room, translate every page, and
are accepted, and the instruction retires; the granules of an HLOAD become empty and owned. HDRAIN waits for the operations of
its process and writes and clears the summary. TLBP probes the cached translations. R273 to R277, R351: the next line of an
HLOAD is read at its home and written into the window, one of an HSTORE is read there and written at its home, a draft's in its
galley; a granted HPUSH streams its source; a complete operation leaves the queue, and a failure counts in its process's
summary. -/
def Obligations.MemoryCoreOperations : Prop :=
  (
  (∀ s c k p i g b a d op glob loc n, (i = .hload g b a d ∧ op = 0 ∧ glob = p.xr a ∧ loc = p.xr d ∨
      i = .hstore g b a d ∧ op = 1 ∧ glob = p.xr d ∧ loc = p.xr a) → n = (p.xr b).toNat → isMemCore c = true →
    Executes s c k p [ux b, ux a, ux d] (p.guardBit g 0) →
    (loc.getLsbD 63 = false → exec i s = .next (s.trapEntry c k p 5 loc)) ∧
    (loc.getLsbD 63 = true → loc.toNat % 32 ≠ 0 → exec i s = .next (s.trapEntry c k p 3 loc)) ∧
    (loc.getLsbD 63 = true → loc.toNat % 32 = 0 → glob.toNat % 32 ≠ 0 → exec i s = .next (s.trapEntry c k p 3 glob)) ∧
    (loc.getLsbD 63 = true → loc.toNat % 32 = 0 → glob.toNat % 32 = 0 → (glob.getLsbD 63 = true ∨ n % 32 ≠ 0 ∨ 65536 < n) →
      exec i s = .next (s.trapEntry c k p 4 glob)) ∧
    ∀ off, s.localCheck c p loc n 32 true false = .own off → loc.getLsbD 63 = true → loc.toNat % 32 = 0 → glob.toNat % 32 = 0 →
      glob.getLsbD 63 = false → n % 32 = 0 → n ≤ 65536 →
      (n = 0 → exec i s = .next (s.retireTo c k p i (p.pc + 4))) ∧
      (n ≠ 0 → (s.core c).memRoom p.uid = false → exec i s = .next (s.block c k i .memop)) ∧
      (n ≠ 0 → (s.core c).memRoom p.uid = true → s.inBoot c = false →
        s.lookup c p.uid p.ctx.toNat glob (if op = 0 then needR else needW) 0 = none →
        exec i s = .next ((s.joinWalk c p.ctx.toNat glob).block c k i (.walk glob (if op = 0 then needR else needW) 4))) ∧
      (n ≠ 0 → (s.core c).memRoom p.uid = true → p.isDraft = false → p.draft = none → (op = 0 → (s.core c).ownedIn off n = none) →
        (∀ v ∈ rangePages glob n, (s.lookup c p.uid p.ctx.toNat v (if op = 0 then needR else needW) 0).isSome = true) →
        (s.core c).waits = [] →
        ∃ t r m, exec i s = .next t ∧ t.proc c k = some r ∧ r.pc = p.pc + 4 ∧ r.retired = p.retired + 1 ∧ p.Keeps r [] ∧
          (t.core c).memops = (s.core c).memops ++ [m] ∧ m.op = op ∧ m.globl = glob ∧ m.loc = off ∧ m.len = n ∧ m.uid = p.uid ∧
          m.todo = lineStarts glob.toNat n (n / 32 + 1) 0 ∧ m.status = 0 ∧
          (op = 0 → ∀ gr ∈ granulesOf off n, (t.core c).owned gr = true ∧ (t.core c).isFull gr = false))) ∧
  (∀ s c k p g b a d n, n = (p.xr b).toNat → isMemCore c = true → Executes s c k p [ux b, ux a, ux d] (p.guardBit g 0) →
    p.isDraft = false → (p.xr a).getLsbD 63 = true →
    ((p.xr a).toNat % 32 ≠ 0 → exec (.hpush g b a d) s = .next (s.trapEntry c k p 3 (p.xr a))) ∧
    ((p.xr a).toNat % 32 = 0 → (n = 0 ∨ n % 32 ≠ 0 ∨ 65280 < n) → exec (.hpush g b a d) s = .next (s.trapEntry c k p 4 (p.xr a))) ∧
    ∀ off e, (p.xr a).toNat % 32 = 0 → n ≠ 0 → n % 32 = 0 → n ≤ 65280 → s.localCheck c p (p.xr a) n 32 true false = .own off →
      (s.core c).memRoom p.uid = true → (p.xr d).extractLsb' 25 39 = 0 → ((p.xr d).extractLsb' 0 13).toNat ≤ 3967 →
      s.live ((p.xr d).extractLsb' 0 13).toNat = some e → s.fenced c = false → (∀ m ∈ (s.core c).memops, m.id ≠ (s.core c).nextJob) →
      ∃ t r m, exec (.hpush g b a d) s = .next t ∧ t.proc c k = some r ∧ r.pc = p.pc + 4 ∧ r.retired = p.retired + 1 ∧
        (t.core c).memops = (s.core c).memops ++ [m] ∧ m.op = 2 ∧ m.loc = off ∧ m.len = n ∧ m.ring = p.xr d ∧ m.stage = 1 ∧
        s.Sent t c e 0 (.ringClaim (p.xr d) p.ctx.toNat n 5 false { core := c, id := m.id } true)) ∧
  (∀ s c k p g b a d off e, c = s.ev.c → k = s.ev.k → Waits s c k p (.hpush g b a d) .memop → p.isDraft = false →
    (p.xr a).getLsbD 63 = true → (p.xr a).toNat % 32 = 0 → p.xr b ≠ 0 → (p.xr b).toNat % 32 = 0 → (p.xr b).toNat ≤ 65280 →
    s.localCheck c p (p.xr a) (p.xr b).toNat 32 true false = .own off → (s.core c).memRoom p.uid = true →
    (p.xr d).extractLsb' 25 39 = 0 → ((p.xr d).extractLsb' 0 13).toNat ≤ 3967 →
    s.live ((p.xr d).extractLsb' 0 13).toNat = some e →
    ∃ t r, exec .memcoreOpAccept s = .next t ∧ t.proc c k = some r ∧ r.pc = p.pc + 4 ∧ r.retired = p.retired + 1 ∧ r.wait = none ∧
      (t.core c).memops.length = (s.core c).memops.length + 1) ∧
  (∀ s c k p g d, isMemCore c = true → Executes s c k p [ux d] (p.guardBit g 0) →
    ((∃ m ∈ (s.core c).memops, m.uid = p.uid) → exec (.hdrain g d) s = .next (s.block c k (.hdrain g d) .hdrain)) ∧
    ((∀ m ∈ (s.core c).memops, m.uid ≠ p.uid) → p.hfail < 2 ^ 16 → p.hstatus < 2 ^ 8 → p.hop < 2 ^ 8 →
      exec (.hdrain g d) s = .next (s.retireTo c k (({ p with hfail := 0, hstatus := 0, hop := 0 } : Proc).setX d
        (0#32 ++ BitVec.ofNat 16 p.hfail ++ BitVec.ofNat 8 p.hstatus ++ BitVec.ofNat 8 p.hop)) (.hdrain g d) (p.pc + 4)))) ∧
  ∀ s c k p g b a d, p.priv = true → Executes s c k p [ux b, ux a, ux d] (p.guardBit g 0) →
    ((p.xr b).getLsbD 63 = true → exec (.tlbp g b a d) s = .next (s.retireTo c k
      (p.setX d ((s.die (agentDie c)).clock.zeroExtend 64)) (.tlbp g b a d) (p.pc + 4))) ∧
    ((p.xr b).getLsbD 63 = false → ((p.xr b).extractLsb' 12 51 ≠ 0 ∨ (p.xr a).extractLsb' 52 12 ≠ 0) →
      exec (.tlbp g b a d) s = .next (s.retireTo c k (p.setX d 0) (.tlbp g b a d) (p.pc + 4))) ∧
    ∀ ctx, (p.xr b).getLsbD 63 = false → (p.xr b).extractLsb' 12 51 = 0 → (p.xr a).extractLsb' 52 12 = 0 →
      ctx = (if b = 0 then p.ctx.toNat else ((p.xr b).extractLsb' 0 12).toNat) →
      (s.probeTlb c ctx (p.xr a) = none → exec (.tlbp g b a d) s = .next (s.retireTo c k (p.setX d 0) (.tlbp g b a d) (p.pc + 4))) ∧
      ∀ t, s.probeTlb c ctx (p.xr a) = some t → 1 ≤ t.level → t.level ≤ 3 →
        exec (.tlbp g b a d) s = .next (s.retireTo c k ((p.setX d (1#1 ++ BitVec.ofNat 2 (3 - t.level) ++ BitVec.ofBool t.drec ++ 0#12 ++
          t.exp)).setE 7 t.leaf) (.tlbp g b a d) (p.pc + 4))) ∧
  (
  (∀ s c m off r u, c = s.ev.c → (s.core c).memop s.ev.n = some m → m.op = 0 → m.nextLine = some off →
    s.lineReach c m off = .ok r u → r.ap < 3 → u.homeHeld r.ap r.pa (m.lineLen off) = false →
    exec .hloadLineArrive s = .next ((u.modCore c fun co => { co with
      spad := co.spad.put (m.loc + off) (u.readHome r m.tag (m.lineLen off)) }).lineDone c m.id off (m.lineLen off) 0)) ∧
  (∀ s c m off r u, c = s.ev.c → (s.core c).memop s.ev.n = some m → m.op = 1 → m.nextLine = some off →
    (s.core c).ownedIn (m.loc + off) (m.lineLen off) = none → s.lineReach c m off = .ok r u →
    (m.tag = none → r.ap < 3 → u.homeHeld r.ap r.pa (m.lineLen off) = false →
      exec .hstoreLineDone s = .next ((u.writePhys r.ap r.pa ((s.core c).spad.bytes (m.loc + off) (m.lineLen off))).lineDone c m.id off
        (m.lineLen off) 0)) ∧
    ∀ tag, m.tag = some tag → r.ap = 0 → u.fenced c = false →
      ∃ t, exec .hstoreLineDone s = .next t ∧ t.hbm = u.hbm ∧ u.Sent t c (homeOf r.pa) 1
        (.galley r tag ((s.core c).spad.bytes (m.loc + off) (m.lineLen off)) { core := c, uid := m.uid } 2 (m.job c) off)) ∧
  (∀ s c m t, c = s.ev.c → (s.core c).memop s.ev.n = some m → m.op = 2 → m.stage = 2 → (s.core c).ownedIn m.loc m.len = none →
    s.placeCore m.slot = some t →
    exec .hstoreLineDone s = .next ((s.modOp c m.id fun m => { m with stage := 3 }).send c t 2
      (.ringData m.slot 0 ((s.core c).spad.bytes m.loc m.len) true (m.job c) true))) ∧
  ∀ s c m, c = s.ev.c → (s.core c).memop s.ev.n = some m → m.finished = true →
    exec .memcoreOpComplete s = .next (if m.status = 0
      then s.modCore c fun co => { co with memops := co.memops.filter fun q => q.id != m.id }
      else (s.modCore c fun co => { co with memops := co.memops.filter fun q => q.id != m.id }).modCore c fun co =>
        co.modUid m.uid fun p => { p with hfail := min (p.hfail + 1) 0xFFFF, hstatus := if p.hfail = 0 then m.status else p.hstatus,
                                          hop := if p.hfail = 0 then m.op else p.hop }))

/-- R280 to R286, R290: a walk through four levels of valid tables answers the leaf with A (and D for a write) set, with the expiry
of its class, or PERM; a missing descriptor or entry is NOTMAPPED and a malformed one MALFORMED. R285, R287, R288, R294, R295: a
walk that ends well is cached and its instruction issued again, and one that faults suspends its slot; a walk that lasts a count
starts afresh; expired translations go; an operation renews a translation within the margin. R289, R291: a tick steps the
reference and the copies of the dies it reaches; a die more than two counts away raises a skew fault and drops its translations;
a resynchronised die takes the reference; the two I/O dies keep copies of their own. -/
def Obligations.Translations : Prop :=
  (
  (∀ s ctx va need c0, va.extractLsb' 52 12 ≠ 0#12 → State.walk s ctx va need c0 = .fault 1 false s) ∧
  (∀ (s : State) ctx va need c0, va.extractLsb' 52 12 = 0#12 → s.ctxbase + 64 * ctx < hbmSize →
    s.locked 0 (s.ctxbase + 64 * ctx) 8 = false → (s.hbm.word (s.ctxbase + 64 * ctx)).getLsbD 0 = false →
    s.walk ctx va need c0 = .fault 1 false s) ∧
  (∀ (s : State) ctx va need c0 d a0 a1 a2 a3 w0 w1 w2 w3 k, va.extractLsb' 52 12 = 0#12 → s.ctxbase + 64 * ctx < hbmSize →
    d = s.hbm.word (s.ctxbase + 64 * ctx) → d.getLsbD 0 = true →
    a0 = (d.extractLsb' 12 40).toNat * 4096 + 8 * (va.extractLsb' 43 9).toNat → a0 < hbmSize → w0 = s.hbm.word a0 →
    a1 = (w0.extractLsb' 12 40).toNat * 4096 + 8 * (va.extractLsb' 34 9).toNat → a1 < hbmSize → w1 = s.hbm.word a1 →
    a2 = (w1.extractLsb' 12 40).toNat * 4096 + 8 * (va.extractLsb' 25 9).toNat → a2 < hbmSize → w2 = s.hbm.word a2 →
    a3 = (w2.extractLsb' 12 40).toNat * 4096 + 8 * (va.extractLsb' 16 9).toNat → a3 < hbmSize → w3 = s.hbm.word a3 →
    (∀ a ∈ [s.ctxbase + 64 * ctx, a0, a1, a2, a3], s.locked 0 a 8 = false) →
    (∀ w ∈ [w0, w1, w2], w.getLsbD 0 = true ∧ w.getLsbD 1 = false ∧ w.extractLsb' 52 12 = 0 ∧ w.extractLsb' 2 10 = 0) →
    k = min (w3.extractLsb' 8 4).toNat (d.extractLsb' 8 4).toNat →
    (w3.getLsbD 0 = false → s.walk ctx va need c0 = .fault 1 false s) ∧
    (w3.getLsbD 0 = true → w3.getLsbD 1 = false → s.walk ctx va need c0 = .fault 4 false s) ∧
    (w3.getLsbD 0 = true → w3.getLsbD 1 = true → (w3.extractLsb' 62 2 ≠ 0 ∨ 3 < (w3.extractLsb' 12 4).toNat ∨
        (w3.extractLsb' 12 4 = 0 ∧ 6291455 < (w3.extractLsb' 26 36).toNat)) → s.walk ctx va need c0 = .fault 4 false s) ∧
    (w3.getLsbD 0 = true → w3.getLsbD 1 = true → w3.extractLsb' 62 2 = 0 → w3.extractLsb' 12 4 = 0 → w3.extractLsb' 16 10 = 0 →
      (w3.extractLsb' 26 36).toNat ≤ 6291455 →
      (w3.getLsbD 2 = false → s.walk ctx va needR c0 = .fault 2 false s) ∧ (w3.getLsbD 3 = false → s.walk ctx va needW c0 = .fault 2 false s) ∧
      (w3.getLsbD 4 = false → s.walk ctx va needX c0 = .fault 2 false s) ∧
      (w3.getLsbD 2 = true → ∃ u : State, s.walk ctx va needR c0 = .ok
          { ctx := ctx, va := va.toNat / 65536, level := 3, leaf := w3 ||| 0x40,
            drec := false, exp := c0 + BitVec.ofNat 48 (if k = 0 then 0 else 2 ^ (k + 3)) } (k != 0) u ∧
        u.cores = s.cores ∧ u.hbm = if w3 ||| 0x40 = w3 then s.hbm else s.hbm.put a3 (leBytes (w3 ||| 0x40).toNat 8)) ∧
      (w3.getLsbD 3 = true → ∃ u : State, s.walk ctx va needW c0 = .ok
          { ctx := ctx, va := va.toNat / 65536, level := 3, leaf := w3 ||| 0x40 ||| 0x80,
            drec := true, exp := c0 + BitVec.ofNat 48 (if k = 0 then 0 else 2 ^ (k + 3)) } (k != 0) u ∧
        u.cores = s.cores ∧
        u.hbm = if w3 ||| 0x40 ||| 0x80 = w3 then s.hbm else s.hbm.put a3 (leBytes (w3 ||| 0x40 ||| 0x80).toNat 8)))) ∧
  ∀ (t : Tlb) ctx va need now, t.serves ctx va need now = true →
    (now - t.exp).toInt < 0 ∧ t.ctx = ctx ∧ t.va = va.toNat / 2 ^ pageBits t.level) ∧
  (
  (∀ s c p i va need source w c0 start, c = s.ev.c → (s.core c).walkAt s.ev.k = some (p, i, va, need, source) →
    s.walkOf (clusterOf c) p.ctx.toNat va = some w → w.run = some (c0, start) → (s.die (agentDie c)).skewed = false →
    s.now < start + 1280 →
    (∀ t cached u, s.walkWaiters (clusterOf c) p.ctx.toNat (va.toNat / 65536) = [{ core := c, uid := p.uid }] →
      s.walk p.ctx.toNat va need c0 = .ok t cached u →
      exec .walkComplete s = .next (((u.endWalk (clusterOf c) p.ctx.toNat va).cacheTlb c p.uid (walkUse i source) t cached).reissue
        c p.uid)) ∧
    ∀ kind rap u, s.walkWaiters (clusterOf c) p.ctx.toNat (va.toNat / 65536) = [{ core := c, uid := p.uid }] →
      s.walk p.ctx.toNat va need c0 = .fault kind rap u → (s.core c).blockedSlot p.uid = some s.ev.k → s.ev.k < 16 →
      (s.core c).find p.uid = some p → (∀ g r w b a, i ≠ .amoStore g r w b a) → s.inBoot c = false →
      ∃ t f q, exec .walkComplete s = .next t ∧ (t.slot c s.ev.k).state = .suspended ∧ t.proc c s.ev.k = some q ∧ q.pc = p.pc ∧
        q.x = p.x ∧ (t.core c).faults = (s.core c).faults ++ [f] ∧ f.uid = p.uid ∧ f.source = source ∧
        (f.msg[2]?).getD 0 = va ∧ (f.msg[3]?).getD 0 = p.pc) ∧
  (∀ s c p i va need source w c0 start, c = s.ev.c → (s.core c).walkAt s.ev.k = some (p, i, va, need, source) →
    s.walkOf (clusterOf c) p.ctx.toNat va = some w → w.run = some (c0, start) → (s.die (agentDie c)).skewed = false →
    start + 1280 ≤ s.now →
    exec .walkRestart s = .next (({ s with walkers := kset s.walkers (clusterOf c) ((s.walksAt (clusterOf c)).map fun x =>
      if x == w then { x with run := some (s.clockOf c, s.now) } else x) } : State).countWalk w.core)) ∧
  (∀ s c, c = s.ev.n →
    ∃ t, exec .translationExpiry s = .next t ∧
      (t.core c).itlb = (s.core c).itlb.filter (fun e => decide (((s.die (agentDie c)).clock - e.exp).toInt < 0)) ∧
      (t.core c).dtlb = (s.core c).dtlb.filter (fun e => decide (((s.die (agentDie c)).clock - e.exp).toInt < 0)) ∧
      (∀ l, kget s.l2 (clusterOf c) = some l →
        kget t.l2 (clusterOf c) = some (l.filter fun e => decide (((s.die (agentDie c)).clock - e.exp).toInt < 0)))) ∧
  (∀ s c m off need, c = s.ev.c → s.ev.n < 2 ^ 32 → (s.core c).copy s.ev.n = none → (s.core c).memop s.ev.n = some m →
    m.nextLine = some off → need = (if m.op = 0 then needR else needW) →
    (∀ u, s.renewWalk c m.ctx (m.va off) need = .same u → exec .leaseRenewal s = .next u) ∧
    (∀ u, s.renewWalk c m.ctx (m.va off) need = .changed u → exec .leaseRenewal s = .next (u.holdOp c m off 5 need false)) ∧
    ∀ kind rap u, s.renewWalk c m.ctx (m.va off) need = .fault kind rap u →
      exec .leaseRenewal s = .next (u.holdOp c m off kind need rap)) ∧
  (∀ (s : State) c ctx va need t, s.lookup c noUid ctx va need 0 = some t →
    (8 ≤ (t.exp - s.clockOf c).toInt → s.renewWalk c ctx va need = .same s) ∧
    ((t.exp - s.clockOf c).toInt < 8 → s.walkerFree c ctx va = true → ∀ kind rap u,
      s.walk ctx va need (s.clockOf c) = .fault kind rap u → s.renewWalk c ctx va need = .fault kind rap (u.countWalk c))) ∧
  ∀ s c k p w t u, c = s.ev.c → s.ev.n = 2 ^ 32 + k → (s.core c).procAt k = some p → p.inAlt = true →
    s.watchesOf p.uid = [w] → w.leaf.extractLsb' 8 4 ≠ 0 → (w.exp - s.clockOf c).toInt < 8 → s.walkerFree c p.ctx.toNat w.va = true →
    s.walk p.ctx.toNat w.va needR (s.clockOf c) = .ok t true u → (t.leaf ||| 0xC0) = (w.leaf ||| 0xC0) →
    exec .leaseRenewal s = .next (((u.countWalk c).cacheTlb c p.uid 0 t true).extendWatch p.uid w.va t.leaf t.exp)) ∧
  (
  (∀ s, s.ev.n < 64 → s.ev.flag = false → s.clockAt + 1280 ≤ s.now →
    ∃ t, exec .leaseTick s = .next t ∧ t.clock = s.clock + 1 ∧ t.clockAt = s.now ∧
      (∀ d, d < 2 → (s.ioClock d).2 = false → (s.ev.n.testBit (4 + d) = true ∨ (s.ioClock d).1 ≠ s.clock) →
        if ((s.ioClock d).1 - (s.clock + 1)).toInt.natAbs ≤ 2 then t.ioClock d = (s.clock + 1, false)
        else t.ioClock d = ((s.ioClock d).1, true)) ∧
      ∀ d, d < 4 → (s.die d).skewed = false → (s.ev.n.testBit d = true ∨ (s.die d).clock ≠ s.clock) →
        if ((s.die d).clock - (s.clock + 1)).toInt.natAbs ≤ 2 then (t.die d).clock = s.clock + 1 ∧ (t.die d).skewed = false
        else (t.die d).skewed = true ∧ (t.die d).clock = (s.die d).clock ∧
          ∀ c, agentDie c = d → (t.core c).dtlb = [] ∧ (t.core c).itlb = []) ∧
  (∀ s, s.ev.n < 64 → s.ev.flag = false → s.now < s.clockAt + 1280 → exec .leaseTick s = .next s) ∧
  (∀ s d, 64 ≤ s.ev.n → s.ev.flag = false → d < 4 → (s.ev.n - 64).testBit d = true → (s.die d).skewed = false →
    ((s.die d).clock - s.clock).toInt.natAbs ≤ 2 →
    ∃ t, exec .leaseTick s = .next t ∧ (t.die d).clock = s.clock ∧ t.clock = s.clock ∧ t.clockAt = s.clockAt) ∧
  (∀ s d, d = s.ev.n → d < 4 → (s.die d).skewed = true →
    ∃ t, exec .leaseResync s = .next t ∧ (t.die d).clock = s.clock ∧ (t.die d).skewed = false ∧ s.SameMemory t) ∧
  ∀ s d, s.ev.n = 4 + d → d < 2 → (s.ioClock d).2 = true →
    ∃ t, exec .leaseResync s = .next t ∧ t.ioClock d = (s.clock, false) ∧ s.SameMemory t)

/-- R369 to R372: a fault record goes to core port 0 of the die's pager against a credit, and is held 1,024 cycles without a
receiver; a wake with RETRY lets the slot, the queued stores, the units or the lines go again; KILL ends the process; ABANDON
gives up the entry or the lines; one that matches no fault, or whose ACTION is reserved, is discarded. -/
def Obligations.FaultsAndWakes : Prop :=
  (∀ s c f, c = s.ev.c → (s.core c).faults[s.ev.n]? = some f → f.stage = 0 →
    (∀ po q, s.pagerPort (agentDie c) = some (po, q) → s.pagerCredit (agentDie c) po = true →
      exec .faultRecordSend s = .next ((s.setPort (pagerOf (agentDie c)) 0 { po with held := po.held ++
          [{ sender := 0, words := f.msg, self := (f.msg[1]?).getD 0 }] }).modCore c fun co =>
        { co with faults := co.faults.modify s.ev.n fun f => { f with stage := 2 } })) ∧
    (s.pagerPort (agentDie c) = none → exec .faultRecordSend s = .next (s.modCore c fun co =>
      { co with faults := co.faults.modify s.ev.n fun f => { f with stage := 1, next := s.now + 1024 } }))) ∧
  (∀ s c f, c = s.ev.c → (s.core c).faults[s.ev.n]? = some f → f.stage = 1 → f.next ≤ s.now →
    exec .faultRecordRetry s = .next (s.modCore c fun co =>
      { co with faults := co.faults.modify s.ev.n fun f => { f with stage := 0 } })) ∧
  (∀ s n pk ws f u, Arrived s n pk → s.ev.n = n → pk.body = .wake ws → (ws.headD 0).extractLsb' 40 8 = 1 →
    (s.core pk.dst).faultOf ws = some f → u = ((s.drop n).traceWake pk.dst f 1).modCore pk.dst (fun co => co.forget f) →
    (f.source = 0 ∨ f.source = 1 ∨ f.source = 5 → exec .wakeRetry s = .next (u.reissue pk.dst f.uid)) ∧
    (∀ p, f.source = 2 → ((u.modCore pk.dst fun co => co.modUid f.uid fun p => { p with replay := p.replay.map fun q =>
        if q.cookie == f.cookie then { q with go := true } else q }).core pk.dst).find f.uid = some p →
      exec .wakeRetry s = .next ((u.modCore pk.dst fun co => co.modUid f.uid fun p => { p with replay := p.replay.map fun q =>
        if q.cookie == f.cookie then { q with go := true } else q }).replayGo pk.dst p)) ∧
    (f.source = 3 → exec .wakeRetry s = .next (u.modCopy pk.dst f.obj fun cp => { cp with
      fixups := cp.fixups.map fun e => if e.cookie == f.cookie then { e with go := true } else e })) ∧
    (f.source = 4 → f.obj ≠ 0 → exec .wakeRetry s = .next (u.modOp pk.dst (f.obj - 1) fun m => { m with cookie := none }))) ∧
  (∀ s n pk ws f k p w, Arrived s n pk → s.ev.n = n → pk.body = .wake ws → (ws.headD 0).extractLsb' 40 8 = 2 →
    (s.core pk.dst).faultOf ws = some f → f.source = 0 ∨ f.source = 1 → p.uid = f.uid → s.proc pk.dst k = some p →
    (s.core pk.dst).find f.uid = some p → p.wait = some w → w.kind.noPark = false → p.draft = none →
    exec .wakeKill s = .next ((((((s.drop n).traceWake pk.dst f 2).modCore pk.dst fun co => co.forget f).modCore pk.dst fun co => co.modUid p.uid fun _ =>
        { p with dying := 2, diePc := p.pc, dieVa := (f.msg[2]?).getD 0 }).endCopies pk.dst p.uid true).endProc pk.dst
      { p with dying := 2, diePc := p.pc, dieVa := (f.msg[2]?).getD 0 }
      { kind := 1, tcause := 0, tval := (f.msg[2]?).getD 0, tpc := p.pc })) ∧
  (∀ s n pk ws f, Arrived s n pk → s.ev.n = n → pk.body = .wake ws → (ws.headD 0).extractLsb' 40 8 = 3 →
    (s.core pk.dst).faultOf ws = some f →
    (∀ m, f.source = 4 → f.obj ≠ 0 →
      ((s.drop n).modCore pk.dst fun co => co.forget f).faultOp pk.dst f = some m →
      exec .wakeAbandon s = .next (((s.drop n).modCore pk.dst fun co => co.forget f).abandonOp pk.dst m)) ∧
    ∀ k p i g b a d st, f.source = 4 → f.obj = 0 → p.uid = f.uid → s.proc pk.dst k = some p → (s.core pk.dst).slotOf p.uid = some k →
      (s.core pk.dst).find p.uid = some p → p.wait = some { instr := i, kind := st } → (i = .hload g b a d ∨ i = .hstore g b a d) →
      ∃ t r, exec .wakeAbandon s = .next t ∧ t.proc pk.dst k = some r ∧ r.pc = p.pc + 4 ∧ r.x = p.x ∧
        r.hfail = min (p.hfail + 1) 65535 ∧ (p.hfail = 0 → r.hstatus = 7 ∧ r.hop = if i = .hload g b a d then 0 else 1)) ∧
  ∀ s n pk ws, Arrived s n pk → s.ev.n = n → pk.body = .wake ws →
    ((s.core pk.dst).faultOf ws = none ∨ (ws.headD 0).extractLsb' 40 8 = 0 ∨ 3 < ((ws.headD 0).extractLsb' 40 8).toNat) →
    exec (match ((ws.headD 0).extractLsb' 40 8).toNat with
      | 1 => .wakeRetry
      | 2 => .wakeKill
      | _ => .wakeAbandon) s = .next (s.drop n)

/-- R375 to R381, R384: PREEMPT refuses a malformed descriptor; a save that finds nothing to stop answers OK at once, another waits
until its cores are done, and so does a resume; the reissued instruction returns the answer. A core under a save discards a
process that is not committed, and saves the others once all have stopped; a resumed process comes back with its registers and
its window. -/
def Obligations.Preemption : Prop :=
  (∀ s c k p i g x save, (i = .preemptSave g x ∧ save = true ∨ i = .preemptResume g x ∧ save = false) → x ≠ 0 → p.priv = true →
    p.isDraft = false → Executes s c k p [ux x] (p.guardBit g 0) →
    (∀ a, p.answer = some a → exec i s = .next (s.retireTo c k (p.setX x (BitVec.ofNat 64 a.status)) i (p.pc + 4))) ∧
    (p.answer = none → ((p.xr x).extractLsb' 38 26 ≠ 0 ∨ (p.xr x).extractLsb' 25 13 = 0 ∨
        3968 < ((p.xr x).extractLsb' 12 13).toNat + ((p.xr x).extractLsb' 25 13).toNat ∨ (p.xr x).extractLsb' 0 12 = p.ctx ∨
        (p.er 0).getLsbD 63 = true ∨ (p.er 0).extractLsb' 0 16 ≠ 0) →
      exec i s = .next (s.retireTo c k (p.setX x 2) i (p.pc + 4))) ∧
    (∀ a u v, p.answer = none → saveBad (p.xr x) (p.er 0) = false → saveCtx (p.xr x) ≠ p.ctx.toNat → save = true →
      s.saveMapped (some p.ctx.toNat) (savePages (p.xr x) (p.er 0)) = .at a u →
      (u.modCore c fun co => { co with walks := co.walks + 8 * ((p.xr x).extractLsb' 25 13).toNat }).beginSave (p.xr x) (p.er 0) (some p.ctx.toNat) { core := c, uid := p.uid } = some v →
      ((∃ e ∈ v.cores, ∃ j ∈ e.2.jobs, j.who = { core := c, uid := p.uid }) → exec i s = .next (v.block c k i .preempt)) ∧
      ((∀ e ∈ v.cores, ∀ j ∈ e.2.jobs, j.who ≠ { core := c, uid := p.uid }) → v.proc c k = some p →
        exec i s = .next (v.retireTo c k (p.setX x 0) i (p.pc + 4)))) ∧
    ∀ u, p.answer = none → saveBad (p.xr x) (p.er 0) = false → saveCtx (p.xr x) ≠ p.ctx.toNat → save = false →
      s.beginResume (p.xr x) (p.er 0) (some p.ctx.toNat) { core := c, uid := p.uid } = some u →
      exec i s = .next (u.block c k i .presume)) ∧
  (∀ s c j, c = s.ev.c → (s.core c).jobs.find? (·.save) = some j →
    (∀ k p, ((s.core c).procsOf j.ctx).find? (fun e => e.2.discardable && (s.core c).canDiscard e.1 e.2) = some (k, p) →
      p.isDraft = false → p.draft = none →
      exec .coreSave s = .next ((s.endProc c p { kind := 9 }).requeue c { p.record with prio := p.prio })) ∧
    ((∀ e ∈ (s.core c).procsOf j.ctx, e.2.isDraft = false ∧ e.2.cmt = true ∧ (s.core c).stopped e.1 e.2 = true) →
      (∀ i, i < 8 → s.saveAddr j.octx (j.region + 65536 * i) ≠ .later) →
      exec .coreSave s = .next (s.finishSave c j) ∧
      ∀ k p, (s.core c).procsOf j.ctx = [(k, p)] → k < 16 → p.rings = [] → (s.core c).copies = [] → (s.core c).taken = [] →
        (s.core c).foreign = [] →
        (∀ w : Saved, w.ctx = j.ctx → w.base = j.base → w.procs = [] → w.windows = [] → (s.core c).saved = [w] →
          ∃ v, ((s.saveProc c j k p).core c).saved = [v] ∧ v.windows = [(p.wbase, (s.core c).spad.bytes p.wbase p.wsize,
            (s.core c).full.filter fun g => inRange p.wbase p.wsize g)] ∧ ∃ b, v.procs = [(p.toSave, b, [])]))) ∧
  ∀ s c j v p b a bs full k rest, c = s.ev.c →
    (s.core c).jobs.find? (fun j => (s.core c).resumable c j) = some j →
    (s.core c).entryOf j = some v → v.procs = [(p, b, [])] → v.windows = [(a, bs, full)] → v.taken = [] → v.foreign = [] → v.copies = [] → v.records = [] →
    (s.core c).emptySlots = k :: rest → k < 16 → j.who.core = hostUnit →
    ∃ t q, exec .coreRestore s = .next t ∧ t.proc c k = some q ∧ q.pc = p.pc ∧ q.x = p.x ∧ q.v = p.v ∧ q.wbase = p.wbase ∧ q.gen = p.gen ∧
      q.wait = p.wait ∧ (t.slot c k).state = (if (s.core c).halted then .halted else .runnable) ∧ (t.core c).spad.bytes a bs.length = bs ∧
      ∀ w ∈ (t.core c).saved, w ∈ (s.core c).saved ∧ ¬(w.ctx = v.ctx ∧ w.base = v.base)

/-- R389 to R393: FENCEC.fence of a mapped vcore that is not fenced sets FENCED and starts its salvage, FENCEC.abandon drops the
restart records of a fenced one, and CMAPW writes an entry that is free to be written; all write their status, REFUSED where a
field is wrong. The salvage turns the records of the core into restart records and leaves the core empty. R385 to R387, R395: a
watchdog whose count is reached posts its record once; a corrected error counts; an uncorrectable one in a process's state ends
it with FAULT, in the instruction cache costs a fetch, and in flits a retry. -/
def Obligations.FencingAndErrors : Prop :=
  (
  (∀ s c k p i g x w, i = .fencecFence g x ∨ i = .fencecAbandon g x → x ≠ 0 → p.priv = true → p.isDraft = false →
    Executes s c k p [ux x] (p.guardBit g 0) → w = p.xr x →
    (3967 < w.toNat ∨ w.toNat = p.vcore.toNat → exec i s = .next (s.retireTo c k (p.setX x 2) i (p.pc + 4))) ∧
    (w.toNat ≤ 3967 → w.toNat ≠ p.vcore.toNat →
      ((i = .fencecFence g x ∧ ((s.mapEntry w.toNat).getLsbD 15 = false ∨ (s.mapEntry w.toNat).getLsbD 14 = true)) ∨
        (i = .fencecAbandon g x ∧ (s.mapEntry w.toNat).getLsbD 14 = false)) →
      exec i s = .next (s.retireTo c k (p.setX x 2) i (p.pc + 4)))) ∧
  (∀ s c k p g x w e, x ≠ 0 → p.priv = true → p.isDraft = false → Executes s c k p [ux x] (p.guardBit g 0) → w = p.xr x →
    w.toNat ≤ 3967 → w.toNat ≠ p.vcore.toNat → (s.mapEntry w.toNat).getLsbD 15 = true → (s.mapEntry w.toNat).getLsbD 14 = false →
    s.agent w.toNat = some e → e ≠ c → (s.core e).jobs = [] → (s.core e).copies = [] → (s.core e).rings = [] → (s.core e).saved = [] →
    ∃ t r, exec (.fencecFence g x) s = .next t ∧ t.proc c k = some r ∧ r.pc = p.pc + 4 ∧ r.xr x = 0 ∧ p.Keeps r [.x x] ∧
      t.mapEntry w.toNat = (s.mapEntry w.toNat ||| 0x4000) ∧ w.toNat ∈ (t.die (dieOf w.toNat)).salvages) ∧
  (∀ s c k p g x w, x ≠ 0 → p.priv = true → p.isDraft = false → Executes s c k p [ux x] (p.guardBit g 0) → w = p.xr x →
    w.toNat ≤ 3967 → w.toNat ≠ p.vcore.toNat → (s.mapEntry w.toNat).getLsbD 14 = true →
    ∃ t r, exec (.fencecAbandon g x) s = .next t ∧ t.proc c k = some r ∧ r.pc = p.pc + 4 ∧ r.xr x = 0 ∧ p.Keeps r [.x x] ∧
      (t.die (dieOf w.toNat)).restarts = (s.die (dieOf w.toNat)).restarts.filter fun r => r.vcore != w.toNat) ∧
  (∀ s c k p g x w d i e, x ≠ 0 → p.priv = true → p.isDraft = false → Executes s c k p [ux x] (p.guardBit g 0) → w = p.xr x →
    d = (w.extractLsb' 27 2).toNat → i = (w.extractLsb' 16 11).toNat → e = w.extractLsb' 0 16 →
    ((w.extractLsb' 29 35 ≠ 0 ∨ 1057 < i ∨ e.extractLsb' 10 4 ≠ 0 ∨ e.getLsbD 14 = true ∨
        (((kget (s.die d).map i).getD 0).getLsbD 15 = true ∧ ((kget (s.die d).map i).getD 0).getLsbD 14 = false)) →
      exec (.cmapw g x) s = .next (s.retireTo c k (p.setX x 2) (.cmapw g x) (p.pc + 4))) ∧
    (w.extractLsb' 29 35 = 0 → i ≤ 1057 → e.extractLsb' 10 4 = 0 → e.getLsbD 14 = false → e.getLsbD 15 = true →
      kget (s.die d).map i = none → (s.die d).taken i e = false → (s.die d).salvages = [] → s.inBoot c = false →
      entryAgent d i e ≠ c →
      ∃ t r, exec (.cmapw g x) s = .next t ∧ t.proc c k = some r ∧ r.pc = p.pc + 4 ∧ r.xr x = 0 ∧ p.Keeps r [.x x] ∧
        kget (t.die d).map i = some e ∧ (t.core (entryAgent d i e)).procs = [] ∧ (t.core (entryAgent d i e)).queue = [] ∧
        (t.core (entryAgent d i e)).genCtr = 0)) ∧
  (∀ s v c d i, v = s.ev.n → s.ev.flag = false → v ∈ (s.die (dieOf v)).salvages → mapPlace v = some (d, i) → s.agent v = some c → d < 4 →
    ∃ t, exec .fenceSalvage s = .next t ∧ t.core c = (s.core c).kept ∧ (t.core c).procs = [] ∧ (t.core c).queue = [] ∧
      (t.die d).salvages = (s.die d).salvages.erase v ∧
      (∀ r ∈ (s.core c).queue ++ (s.core c).rerun, ∃ y ∈ (t.die d).restarts, y.vcore = v ∧ y.item = { r with reserved := false }) ∧
      ∀ k p, (s.core c).procs = [(k, p)] → p.isDraft = true ∨ (p.cmt = false ∧ s.idemLaunch p.launch = true) →
        ∃ y ∈ (t.die d).restarts, y.vcore = v ∧ y.item = { p.record with reserved := false }) ∧
  ∀ s v c, v = s.ev.n → s.ev.flag = true → v ∈ (s.die (dieOf v)).salvages → s.agent v = some c →
    ∃ t, exec .fenceSalvage s = .next t ∧ (t.core c).procs = [] ∧ (t.core c).queue = [] ∧ t.net = s.net) ∧
  (
  (∀ s c, c = s.ev.c → (s.core c).watchLimit s.now ≠ 0 → (s.core c).wdFired = false →
    (s.core c).watchLimit s.now ≤ (s.core c).wdCount →
    exec .coreWatchdog s = .next ((s.setCore c { s.core c with wdFired := true }).out (.record
      [0x2000000000000000#64 + BitVec.ofNat 64 (s.vcoreOf c), BitVec.ofNat 64 (s.cycle (s.core c)), 0, 0]))) ∧
  (∀ s pk r port, s.net[s.ev.n]? = some pk → s.waitsAt pk = some (r, port) → (s.core r).lwcycles ≠ 0 → pk.fired = false → pk.vc < 4 →
    (∀ a ∈ s.net.take s.ev.n, a.before pk = false) → (s.core pk.dst).halted = false →
    pk.since + (s.core r).lwcycles.toNat ≤ s.now →
    exec .linkWatchdog s = .next ({ s with net := s.net.set s.ev.n { pk with fired := true } }.out (.record
      [0x2100000000000000#64 + BitVec.ofNat 64 (s.vcoreOf r), BitVec.ofNat 64 (s.cycle (s.core r)),
        BitVec.ofNat 64 (pk.vc * 256 + port), BitVec.ofNat 64 (s.destVcore pk)]))) ∧
  (∀ s, exec .eccCorrectable s = .next (s.modCore s.ev.c fun co => { co with eccCount := min (co.eccCount + 1) (2 ^ 32 - 1) })) ∧
  (∀ s c k p w, c = s.ev.c → s.ev.n = 0 → k = s.ev.k → k < 16 → (s.slot c k).proc = some p → (s.core c).slotOf p.uid = some k →
    p.draft = none → p.wait = some w → w.kind.noPark = false → (s.slot c k).state ≠ .starting →
    ∃ (u : State) (q : Proc), exec .eccUncorrectable s = .next (u.endProc c q { kind := 1, tcause := 0, tval := 0, tpc := p.pc }) ∧
      q.uid = p.uid ∧ q.launch = p.launch ∧ (∀ e, e ≠ c → u.core e = s.core e) ∧ u.net = s.net ∧
      u.events = s.events ++ [(launchAgent (dieOf ((s.selfWord k p).extractLsb' 0 13).toNat), p.ctx.toNat,
        [0x1507000000000000, s.selfWord k p, 0, 0])]) ∧
  (∀ s, s.ev.n = 7 → exec .eccUncorrectable s = .next (s.setCore s.ev.c (s.core s.ev.c).flushUnits) ∧
    (s.core s.ev.c).flushUnits.icache = []) ∧
  ∀ s, s.ev.n = 9 → exec .eccUncorrectable s = .next (s.setCore s.ev.c { s.core s.ev.c with
    replays := min ((s.core s.ev.c).replays + 1) (2 ^ 32 - 1) }))

/-- R388, R397, R400, R401: a halt stops the runnable slots and no other, a resume lets the halted ones go, a step lets one; DBGACC
reads and writes the named item of a slot in a state that permits it, and sets ERR otherwise. -/
def Obligations.DebugControl : Prop :=
  (∀ s c, s.agent s.ev.n = some c → s.ev.flag = false → (s.core c).halted = false →
    ∃ t, exec .dbgHalt s = .next t ∧ (t.core c).halted = true ∧ (t.core c).dbgctl = (s.core c).dbgctl ||| 3 ∧
      (∀ j, j < 16 → t.slot c j = if (s.slot c j).state = .runnable then { s.slot c j with state := .halted } else s.slot c j) ∧
      ∀ d, d ≠ c → t.core d = s.core d) ∧
  (∀ s c, s.agent s.ev.n = some c → s.ev.flag = false → (s.core c).halted = true →
    ∃ t, exec .dbgResume s = .next t ∧ (t.core c).halted = false ∧
      ∀ j, j < 16 → (t.slot c j).state = (if (s.slot c j).state = .halted then .runnable else (s.slot c j).state) ∧
        ((s.slot c j).state = .halted → (t.slot c j).ready = s.now + 1) ∧
        ∀ p, s.proc c j = some p → ∃ q, t.proc c j = some q ∧ q.pc = p.pc ∧ q.x = p.x ∧ q.wait = p.wait ∧
          ((s.slot c j).state = .halted → p.pc ∈ p.bpHit → q.bpSkip = true)) ∧
  (∀ s c k, s.agent s.ev.n = some c → s.ev.flag = false → k = s.ev.k → k < 16 → (s.core c).halted = true → (s.slot c k).state = .halted →
    ∃ t, exec .dbgStep s = .next t ∧ (t.core c).stepping = k :: (s.core c).stepping ∧ (t.slot c k).state = .runnable ∧ (t.slot c k).ready = s.now ∧
      (∀ j, j ≠ k → t.slot c j = s.slot c j) ∧ (t.core c).halted = true) ∧
  (∀ s c k, s.agent s.ev.n = some c → s.ev.flag = false → k = s.ev.k → k < 16 → ((s.core c).halted = false ∨ (s.slot c k).state ≠ .halted) →
    ∃ t, exec .dbgStep s = .next t ∧ (t.core c).dbgctl.getLsbD 13 = true ∧ (t.core c).slots = (s.core c).slots ∧
      (t.core c).stepping = (s.core c).stepping) ∧
  (∀ s c w k p, s.agent s.ev.n = some c → s.ev.flag = false → w = s.ev.w → k = (w.extractLsb' 59 4).toNat → (s.slot c k).proc = some p → (s.core c).halted = true →
    ((s.slot c k).state = .halted ∨ (s.slot c k).state = .blocked ∨ (s.slot c k).state = .suspended) →
    ∃ u, exec .dbgaccRead s = .next u ∧ u.net = s.net ∧ (u.core c).slots = (s.core c).slots ∧
      (w.extractLsb' 56 3 = 0 → (w.extractLsb' 44 12).toNat < 32 → (u.core c).dbgdata = p.xr (w.extractLsb' 44 5)) ∧
      (w.extractLsb' 56 3 = 1 → w.extractLsb' 46 4 = 0 → w.getLsbD 55 = false →
        (u.core c).dbgdata = (p.vr (w.extractLsb' 50 5)).extractLsb' (64 * (w.extractLsb' 44 2).toNat) 64) ∧
      (w.extractLsb' 56 3 = 2 → (w.extractLsb' 44 12).toNat < 8 → (u.core c).dbgdata = (p.pr (w.extractLsb' 44 3)).zeroExtend 64) ∧
      (w.extractLsb' 56 3 = 3 → (w.extractLsb' 44 12).toNat < 8 → (u.core c).dbgdata = p.er (w.extractLsb' 44 3)) ∧
      (w.extractLsb' 56 3 = 4 → (u.core c).dbgdata = p.pc) ∧
      (∀ r : SysReg, w.extractLsb' 56 3 = 5 → w.extractLsb' 44 12 = r.number → (u.core c).dbgdata = s.systemValue c k p r) ∧
      (∀ i (h : i < 4), w.extractLsb' 56 3 = 6 → (w.extractLsb' 44 12).toNat = i → (u.core c).dbgdata = p.z[i]) ∧
      (w.extractLsb' 56 3 = 7 → (u.core c).dbgdata = 0 ∧ (u.core c).dbgctl.getLsbD 13 = true)) ∧
  (∀ s c w k p v, s.agent s.ev.n = some c → s.ev.flag = false → w = s.ev.w → k = (w.extractLsb' 59 4).toNat → (s.slot c k).proc = some p → (s.core c).halted = true →
    (s.slot c k).state = .halted → v = (s.core c).dbgdata →
    (w.extractLsb' 56 3 = 0 → (w.extractLsb' 44 12).toNat < 32 →
      exec .dbgaccWrite s = .next (s.setProc c k (p.setX (w.extractLsb' 44 5) v))) ∧
    (w.extractLsb' 56 3 = 2 → (w.extractLsb' 44 12).toNat < 8 →
      exec .dbgaccWrite s = .next (s.setProc c k (p.setP (w.extractLsb' 44 3) (v.extractLsb' 0 32)))) ∧
    (w.extractLsb' 56 3 = 3 → (w.extractLsb' 44 12).toNat < 8 →
      exec .dbgaccWrite s = .next (s.setProc c k (p.setE (w.extractLsb' 44 3) v))) ∧
    (w.extractLsb' 56 3 = 4 → v.getLsbD 0 = false → exec .dbgaccWrite s = .next (s.setProc c k { p with pc := v })) ∧
    (∀ r : SysReg, w.extractLsb' 56 3 = 5 → w.extractLsb' 44 12 = r.number → exec .dbgaccWrite s = .next
      ((s.setProc c k (p.systemWritten r v)).modCore c fun co => co.systemWritten s.now r v)) ∧
    (∀ i (h : i < 4), w.extractLsb' 56 3 = 6 → (w.extractLsb' 44 12).toNat = i →
      exec .dbgaccWrite s = .next (s.setProc c k { p with z := p.z.set i (v &&& zMask i) }))) ∧
  ∀ s c w k, s.agent s.ev.n = some c → s.ev.flag = false → w = s.ev.w → k = (w.extractLsb' 59 4).toNat →
    ((s.core c).halted = false ∨ (s.slot c k).state ≠ .halted ∨ w.extractLsb' 56 3 = 7 ∨
      (w.extractLsb' 56 3 = 4 ∧ (s.core c).dbgdata.getLsbD 0 = true)) →
    exec .dbgaccWrite s = .next (s.modCore c fun co => { co with dbgctl := co.dbgctl ||| 0x2000 })

/-- R403, R404, R409 to R411, R413: TRCMARK retires, and its record enters the buffer when TRCCTL lets it and there is room;
CAPSTART binds a capture set with its four events; CAPSTOP writes the counts and the summary, or zeros, and releases the set.
R404, R405, R407, R408: the oldest record of a buffer enters the trace network against a credit, and a loss record takes its
place where records were lost; the die's trace unit writes a record at WRPTR and then WRPTR + 1, and reads RDPTR when the ring
is full; a start packet begins a capture of the counts, and the end of an interval or a stop packet dumps them. -/
def Obligations.TraceAndCounts : Prop :=
  (
  (∀ s c k p g b a n, Executes s c k p [ux b, ux a] (p.guardBit g 0) →
    ∃ t r, exec (.trcmark g b a n) s = .next t ∧ t.proc c k = some r ∧ r.pc = p.pc + 4 ∧ r.retired = p.retired + 1 ∧ p.Keeps r [] ∧
      ((s.core c).trcctl.getLsbD 0 = false → (t.core c).trace = (s.core c).trace) ∧
      ((s.core c).trcctl.getLsbD 0 = true → (s.core c).trcctl.getLsbD 51 = false → (s.core c).trace.length < 64 → k < 16 →
        ∃ y, (t.core c).trace = (s.core c).trace ++
          [[0x30#8 ++ BitVec.ofNat 4 k ++ p.gen ++ p.ctx ++ n.zeroExtend 8 ++ 0#11 ++ p.vcore, y, p.xr a, p.xr b]])) ∧
  (∀ s c k p g a ev, Executes s c k p [ux a] (p.guardBit g 0) →
    ev = #v[(p.xr a).extractLsb' 0 8, (p.xr a).extractLsb' 8 8, (p.xr a).extractLsb' 16 8, (p.xr a).extractLsb' 24 8] →
    exec (.capstart g a) s = .next (s.retireTo c k
      { p with capture := some { ev := ev, cnt := #v[0, 0, 0, 0], pend := #v[0, 0, 0, 0], pendAt := s.now, nsusp := 0, start := s.now } } (.capstart g a) (p.pc + 4))) ∧
  ∀ s c k p g a d, Executes s c k p [ux a, uv d] (p.guardBit g 0) →
    (p.capture = none → exec (.capstop g a d) s = .next (s.retireTo c k ((p.setV d 0).setX a 0) (.capstop g a d) (p.pc + 4))) ∧
    ∀ cp n (v : VReg) (w : Word), p.capture = some cp → n = cp.before s.now → cp.nsusp ≤ 65535 → v = n[3] ++ n[2] ++ n[1] ++ n[0] →
      w = 1#1 ++ BitVec.ofBool (cp.nsusp != 0) ++ 0#14 ++ BitVec.ofNat 16 cp.nsusp ++ cp.ev[3] ++ cp.ev[2] ++ cp.ev[1] ++ cp.ev[0] →
      exec (.capstop g a d) s = .next (s.retireTo c k { (p.setV d v).setX a w with capture := none } (.capstop g a d) (p.pc + 4))) ∧
  (
  (∀ s c r rest, c = s.ev.c → (s.core c).trace = r :: rest → s.traceCredit (agentDie c) = true →
    ∃ t, exec .traceDrain s = .next t ∧
      t.net = s.net ++ [{ src := c, dst := traceUnit (agentDie c), vc := 5, since := s.now, body := .trace r }] ∧
      ((s.core c).lossT = 0 → (s.core c).lossD = 0 → (t.core c).trace = rest) ∧
      ((s.core c).lossT ≠ 0 ∨ (s.core c).lossD ≠ 0 → (s.core c).lossT < 2 ^ 32 → (s.core c).lossD < 2 ^ 32 →
        (t.core c).lossT = 0 ∧ (t.core c).lossD = 0 ∧ ∃ y, (t.core c).trace = rest ++
          [[0x3F00000000000000#64 + BitVec.ofNat 64 (s.vcoreOf c), y,
            BitVec.ofNat 32 (s.core c).lossD ++ BitVec.ofNat 32 (s.core c).lossT, 0]])) ∧
  (∀ s c, c = s.ev.c → s.traceCredit (agentDie c) = false → exec .traceDrain s = .next s) ∧
  (∀ s d pk r rest base size wr, d = s.ev.n → s.net = pk :: rest → pk.dst = traceUnit d → pk.body = .trace r → base = (s.die d).trbase →
    base + 0x1000 < hbmSize → size = s.hbm.nat base 8 → wr = s.hbm.nat (base + 8) 8 → size ≠ 0 →
    exec .traceRingWrite s = .next (((s.drop 0).writePhys 0 (base + 0x1000 + 32 * (wr % size)) (wordBytes r)).writePhys 0 (base + 8)
      (leBytes (wr + 1) 8))) ∧
  (∀ s d base rd wr, d = s.ev.n → d < 4 → base = (s.die d).trbase → rd = s.hbm.nat (base + 0x10) 8 → wr = s.hbm.nat (base + 8) 8 →
    s.traceFull d = true → s.traceSize d ≠ 0 → (s.die d).ringNext ≤ s.now →
    ∃ t, exec .traceRdptrPoll s = .next t ∧ (t.die d).ringNext = s.now + 1024 ∧
      ((wr < rd ∨ rd + s.hbm.nat base 8 < wr) → (t.die d).ringErr = true ∧ (t.die d).ringRd = (s.die d).ringRd ∧
        t.hbm.nat (base + 0x18) 8 = 1) ∧
      (rd ≤ wr → wr ≤ rd + s.hbm.nat base 8 → (t.die d).ringErr = false ∧ (t.die d).ringRd = rd ∧ t.hbm.nat (base + 0x18) 8 = 0)) ∧
  (∀ s pk c idx len count, s.packet s.ev.n = some pk → pk.body = .capture true idx len count → c = pk.dst →
    ∃ t, exec .captureStartPacket s = .next t ∧ (t.core c).capture =
        some { idx := idx % 2 ^ 24, len := len, count := count, done := 0, start := s.now } ∧
      (t.core c).flits = [] ∧ (t.core c).stalls = [] ∧ (t.core c).lapses = 0 ∧ (t.core c).eccCount = 0 ∧ (t.core c).walks = 0 ∧
      (t.core c).replays = 0 ∧ (t.core c).trace = (s.core c).trace) ∧
  (∀ s c cp, c = s.ev.c → (s.core c).capture = some cp → cp.start + cp.len ≤ s.now →
    ∃ t, exec .captureIntervalEnd s = .next t ∧ (t.core c).walks = 0 ∧ (t.core c).lapses = 0 ∧ (t.core c).eccCount = 0 ∧
      (t.core c).capture = (if cp.count ≠ 0 ∧ cp.count ≤ cp.done + 1 then none
        else some { cp with idx := (cp.idx + 1) % 2 ^ 24, done := cp.done + 1, start := cp.start + cp.len }) ∧
      ((s.core c).trace.length + (s.ports c).length < 64 →
        (t.core c).trace.length = (s.core c).trace.length + (s.ports c).length + 1)) ∧
  ∀ s pk c idx len count cp, s.packet s.ev.n = some pk → pk.body = .capture false idx len count → c = pk.dst →
    (s.core c).capture = some cp → s.vcoreOf c < 8192 →
    ∃ t, exec .captureStopPacket s = .next t ∧ (t.core c).capture = none ∧ (t.core c).walks = 0 ∧
      ((s.core c).trace.length + (s.ports c).length < 64 →
        (t.core c).trace.length = (s.core c).trace.length + (s.ports c).length + 1 ∧
        ∀ r ∈ (t.core c).trace.drop (s.core c).trace.length, (r.headD 0).getLsbD 51 = true))

/-- R419 to R421: a bridge moves between its service states by the commands that its state takes, and any other command, or one that
names no module, sets ERR; a repair or training ends with what its failing lanes allow; a sixteenth failed retry takes the
module out. R423, R424: a link flit with a bad CRC asks for a retry; a good one acknowledges, the one expected returns credits,
and a packet that has come whole is delivered in its flow's order; a retry request sends the flits from its SEQ again; an
end-to-end ack frees, a nak or a time-out resends, a flit of up to four slots at a time while there are credits, and after eight
resends the peer is unreachable. -/
def Obligations.BridgesAndFlows : Prop :=
  (
  ∀ s b x m, b = s.ev.n → b < 8 → x = s.bridge b → m = s.ev.m →
    exec .bridgePause s = .next (s.modBridge b fun _ => if x.state = 0 then { x with state := 1 } else { x with err := true }) ∧
    exec .bridgePaused s = .next (s.modBridge b fun _ => if x.state = 1 then { x with state := 2 } else x) ∧
    exec .bridgeRepair s = .next (s.modBridge b fun _ =>
      if x.state = 2 ∧ m < 10 then { x with state := 3, mod := m } else { x with err := true }) ∧
    exec .bridgeRetrain s = .next (s.modBridge b fun _ =>
      if x.state = 2 ∧ m < 10 then { x with state := 4, mod := m } else { x with err := true }) ∧
    exec .bridgeModoff s = .next (s.modBridge b fun _ => if x.state = 2 ∧ m < 10
      then { x with mods := x.mods.setIfInBounds m { x.module m with up := false } } else { x with err := true }) ∧
    exec .bridgeResume s = .next (s.modBridge b fun _ =>
      if x.state = 2 ∧ ∃ y ∈ x.mods.toList, y.up = true then { x with state := 0 } else { x with err := true }) ∧
    (∀ lo hi n y, m = lo → lo ≤ 32 → s.ev.k = hi → hi ≤ 32 → n = lo + hi → y = x.module x.mod → x.mod < 10 →
      (x.state = 3 → ∃ t z, exec .bridgeServiceDone s = .next t ∧ z = (t.bridge b).module x.mod ∧ (t.bridge b).state = 2 ∧ z.bad = n ∧
        z.up = y.up ∧ if n ≤ 4 then z.spares = n ∧ (t.bridge b).err = x.err else z.spares = y.spares ∧ (t.bridge b).err = true) ∧
      (x.state = 4 → ∃ t z, exec .bridgeServiceDone s = .next t ∧ z = (t.bridge b).module x.mod ∧ (t.bridge b).state = 2 ∧ z.bad = n ∧
        if n ≤ 4 then z.up = true ∧ z.half = false ∧ z.spares = n ∧ z.width = 0 ∧ (t.bridge b).err = x.err
        else if lo ≤ 4 ∨ hi ≤ 4 then z.up = true ∧ z.half = true ∧ z.spares = min lo hi ∧ z.width = 1 ∧ (t.bridge b).err = x.err
        else z.up = false ∧ z.width = 2 ∧ (t.bridge b).err = true)) ∧
    ∀ y, m < 10 → y = x.module m → y.up = true →
      ∃ t z, exec .bridgeFlitRetry s = .next t ∧ z = (t.bridge b).module m ∧ z.retry = min (y.retry + 1) (2 ^ 32 - 1) ∧
        if s.ev.flag = true ∧ 15 ≤ y.row then z.up = false ∧ z.width = 2 else (s.ev.flag = true → z.row = y.row + 1) ∧
          (s.ev.flag = false → z.row = 0 ∧ z.up = true)) ∧
  (
  (∀ s p l f, p = s.ev.n → p < 64 → s.ev.flag = false → l = s.link p → f.seq = l.expect → f.ack = (l.expect + 4095) % 4096 →
    f.credits = Vector.replicate 4 0 → f.kind = 2 → f.slots = [] →
    exec .scaleupLinkFlit s = .next { s with outbox := s.outbox ++ [.link p f] }) ∧
  (∀ s p l f y fp pk x d, p = s.ev.n → p < 64 → s.ev.flag = true → s.ev.flit = some f → l = s.link p → l.waiting = [] → f.kind = 0 →
    f.seq = l.expect → f.slots = [y] → y.first = some fp → fp.len ≤ 1 → fp.body = .data pk → x = s.flowState fp.flow → fp.fseq = x.expect →
    x.got = [] → x.kept = [] → x.owed < 15 → (∀ q ∈ s.net, q.via ≠ some fp.flow) → pk.dst < 8000 → s.live pk.dst = some d →
    ∃ t, exec .scaleupLinkFlit s = .next t ∧
      t.net = s.net ++ [{ pk with dst := d, since := s.now, body := pk.body.fromPeer, via := some fp.flow }] ∧
      (t.link p).expect = (l.expect + 1) % 4096 ∧ (t.link p).due = true ∧ (t.link p).buffer = afterAck f.ack l.buffer ∧
      (∀ i : Fin 4, (t.link p).used[i] = l.used[i] - f.credits[i]) ∧
      (t.link p).owed = l.owed.setIfInBounds (y.vc % 4) ((l.owed[y.vc % 4]?).getD 0 + 1) ∧
      (t.flowState fp.flow).expect = (x.expect + 1) % 2 ^ 24 ∧ (t.flowState fp.flow).got = [] ∧ (t.flowState fp.flow).kept = [] ∧
      (t.flowState fp.flow).owed = x.owed + 1 ∧ (t.flowState fp.flow).ackAt.isSome = true) ∧
  (∀ s p l f, p = s.ev.n → p < 64 → s.ev.flag = true → s.ev.flit = some f → l = s.link p → l.waiting = [] → f.kind ≤ 1 → f.seq ≠ l.expect →
    exec .scaleupLinkFlit s = .next (s.modLink p fun l => { l with buffer := afterAck f.ack l.buffer })) ∧
  (∀ s f, s.ev.n < 64 → s.ev.flag = true → s.ev.flit = some f → f.kind = 2 → exec .scaleupLinkFlit s = .next (s.replayLink s.ev.n f.seq)) ∧
  (∀ s p l, p = s.ev.n → l = (s.link p).buffer.dropWhile (fun e => e.1 != s.ev.m) → l ≠ [] →
    ∃ t, exec .scaleupRetryRequest s = .next t ∧ t = s.replayLink p s.ev.m ∧ t.outbox = s.outbox ++ l.map (fun e => .link p e.2) ∧
      (t.link p).retries = min ((s.link p).retries + 1) (2 ^ 32 - 1) ∧ (t.link p).buffer = (s.link p).buffer) ∧
  (∀ s f x, f = s.ev.flow → x = s.flowState f → x.waiting = [] →
    ((∃ e ∈ x.unacked, e.fseq = s.ev.n) → exec .e2eAck s = .next (s.setFlow { x with
      unacked := (x.unacked.dropWhile fun e => e.fseq != s.ev.n).drop 1, resends := 0, lastAck := s.now })) ∧
    ((∀ e ∈ x.unacked, e.fseq ≠ s.ev.n) → exec .e2eAck s = .next (s.setFlow { x with lastAck := s.now }))) ∧
  (∀ s f x, f = s.ev.flow → x = s.flowState f →
    (∀ q rest, x.unacked = q :: rest → q.fseq = s.ev.n → x.waiting = [] → x.resends < 8 → exec .e2eNak s = .next (s.resendFlow f x)) ∧
    ((∀ e ∈ x.unacked, e.fseq ≠ s.ev.n) → exec .e2eNak s = .next s)) ∧
  (∀ s f x, f = s.ev.flow → x = s.flowState f → x.unacked ≠ [] → x.lastAck + 1250000 ≤ s.now →
    (x.resends < 8 → exec .e2eResendTimeout s = .next (s.resendFlow f x)) ∧
    ∀ pkg rest, 8 ≤ x.resends → s.withAddress f.dstPkg = pkg :: rest →
      ∃ t, exec .e2eResendTimeout s = .next t ∧ (t.routeOf pkg).w0 = ((s.routeOf pkg).w0 ||| 0x2000000000000000) ∧
        (t.flowState f).unacked = [] ∧ (t.flowState f).waiting = []) ∧
  (∀ (s : State) f x e l n, x = s.flowState f → x.unacked = [e] → l = s.link f.port → l.waiting = [] → l.buffer.length < 2048 → 1 ≤ e.len →
    e.len ≤ 4 → n = min e.len (l.room (e.flow.vc % 4)) →
    ∃ t, s.resendFlow f x = t ∧ (t.flowState f).resends = x.resends + 1 ∧ (t.flowState f).lastAck = s.now ∧ t.net = s.net ∧
      (t.link f.port).resends = l.resends + 1 ∧ (t.link f.port).waiting = (if n = e.len then [] else [(e, e.len - n)]) ∧
      t.outbox = s.outbox ++ (if n = 0 then [] else [.link f.port (l.flit l.seq 0 (e.slots true n))])) ∧
  ∀ s f x n, f = s.ev.flow → x = s.flowState f → x.kept.length < 16 → x.ackAt = some n → n ≤ s.now →
    exec .e2eAckTimer s =
      .next ((s.setFlow { x with owed := 0, ackAt := none }).linkControl f.back ((x.expect + 2 ^ 24 - 1) % 2 ^ 24) 0 .ack))

/-- R426 to R429: a request through APERTURE 3 is admitted by an entry that covers its frame for its sender with the permission that
it needs, and refused without one; a write of V = 0 sets DRAIN, which clears when nothing admitted is outstanding; a reduction's
mask is written before its result goes to the root. R430 to R432: packets of the course transport are addressed by the route
table; a data packet with the PSN expected delivers its course traffic and is acked, one beyond a gap draws a nak, and an old
one an ack; an ack frees what it covers and moves the window; a time-out sends everything again and doubles, and the tenth in a
row makes the peer unreachable. -/
def Obligations.LendingAndScaleOut : Prop :=
  (
  (∀ s n pk f r op w v x who posted tag need e l, s.packet n = some pk → pk.via = some f → s.ev.n = n → pk.body = .amo r op w v x who posted tag →
    65536 ≤ pk.src → pk.dst < 65536 → r.ap = 3 → r.pa < hbmSize → need = (if op = 0 then 56 else if op = 1 then 57 else 58) →
    (s.lends.find? fun e => e.1 / 256 == agentDie pk.dst / 2 && e.2.covers (r.pa / 65536) f.srcPkg need) = some (e, l) →
    exec .lendRequest s = .next { s with
      net := s.net.set n { pk with body := .amo { r with ap := 16 + e } op w v x who posted tag },
      lends := kset s.lends e { l with inUse := l.inUse + 1 } }) ∧
  (∀ s n pk r op w v x who posted tag need, s.packet n = some pk → s.ev.n = n → pk.body = .amo r op w v x who posted tag →
    65536 ≤ pk.src → pk.dst < 65536 → r.ap = 3 → need = (if op = 0 then 56 else if op = 1 then 57 else 58) →
    (∀ f, pk.via = some f → ∀ e ∈ s.lends, e.1 / 256 = agentDie pk.dst / 2 → e.2.covers (r.pa / 65536) f.srcPkg need = false) →
    exec .lendRequest s = .next ((s.drop n).deny pk)) ∧
  (∀ (l : Lend) frame addr need, l.covers frame addr need = true ↔ l.w0.getLsbD 63 = true ∧ (l.w0.extractLsb' 0 36).toNat ≤ frame ∧
    frame < (l.w0.extractLsb' 0 36).toNat + (l.w1.extractLsb' 0 32).toNat ∧ (l.w0.extractLsb' 46 10).toNat = addr ∧
    l.w0.getLsbD need = true) ∧
  (∀ s e, e = s.ev.n → e < 512 →
    ∃ t l, exec .lendEntryWrite s = .next t ∧ t.lend e = l ∧ l.inUse = (s.lend e).inUse ∧ l.w1 = (0#32 ++ s.ev.w2.extractLsb' 0 32) ∧
      l.w0.getLsbD 63 = s.ev.w.getLsbD 63 ∧ l.w0.extractLsb' 46 13 = s.ev.w.extractLsb' 46 13 ∧ l.w0.extractLsb' 59 3 = 0 ∧
      l.w0.extractLsb' 36 10 = 0 ∧ l.w0.extractLsb' 0 36 = s.ev.w.extractLsb' 0 36 ∧
      l.w0.getLsbD 62 = (if s.ev.w.getLsbD 63 then (s.lend e).w0.getLsbD 62 else true)) ∧
  (∀ s e, e = s.ev.n → (s.lend e).w0.getLsbD 62 = true →
    ((s.lend e).inUse = 0 → ∃ t, exec .lendDrainDone s = .next t ∧ (t.lend e).w0 = ((s.lend e).w0 &&& ~~~0x4000000000000000) ∧
      (t.lend e).w1 = (s.lend e).w1) ∧
    ((s.lend e).inUse ≠ 0 → exec .lendDrainDone s = .next s)) ∧
  ∀ s i r c a, s.reductionOf s.ev.n = some (i, r) → s.agent (r.w0.extractLsb' 38 13).toNat = some c →
    a = (r.w1.extractLsb' 0 52).toNat + 128 * (s.ev.m % 4) → a + 128 ≤ hbmSize → s.ev.bytes.length = 128 →
    ∃ t l, exec .reductionResult s = .next t ∧ t.hbm = s.hbm.put a s.ev.bytes ∧
      t.net = l ++ [{ src := ioUnit, dst := c, vc := 2, since := s.now,
                      body := .combineRes (r.w0.extractLsb' 30 6).toNat s.ev.m s.ev.words s.ev.k }]) ∧
  (
  (∀ (s : State) peer vc type ece psn ackpsn nflits pkts a r, a = s.coursePacket peer vc type ece psn ackpsn nflits pkts → r = s.routeOf peer →
    a.version = 1 ∧ a.src = s.pkgid.toNat ∧ a.dst = peer ∧ a.srcDom = ((s.routeOf s.pkgid.toNat).w0.extractLsb' 0 32).toNat ∧
    a.dstDom = (r.w0.extractLsb' 0 32).toNat ∧ a.ip = r.w3 ++ r.w2 ∧ a.udp = (r.w1.extractLsb' 0 16).toNat) ∧
  (∀ s o x pk d, s.ev.out = some o → o.dst = s.pkgid.toNat → o.version = 1 → o.type = 0 → x = s.outFlow o.src o.vc →
    (o.psn = x.expect → o.pkts = [pk] → pk.body.course = true → pk.dst < 8000 → s.live pk.dst = some d →
      ∃ t, exec .scaleoutPacket s = .next t ∧ t.net = s.net ++ [{ pk with dst := d, since := s.now, body := pk.body.fromPeer, via := none }] ∧
        (t.outFlow o.src o.vc).expect = (x.expect + 1) % 2 ^ 32 ∧
        t.outbox = s.outbox ++ [.course (s.coursePacket o.src o.vc 1 o.ece 0 ((x.expect + 1) % 2 ^ 32) 0 [])]) ∧
    (o.psn ≠ x.expect → exec .scaleoutPacket s = .next { s with outbox := s.outbox ++ [.course
      (s.coursePacket o.src o.vc (if (o.psn + 2 ^ 32 - x.expect) % 2 ^ 32 < 2 ^ 31 then 2 else 1) o.ece 0 x.expect 0 [])] })) ∧
  (∀ s o x q, s.ev.out = some o → o.dst = s.pkgid.toNat → o.version = 1 → o.type = 1 → x = s.outFlow o.src o.vc → x.unacked = [q] →
    x.waiting = [] → q.psn < 2 ^ 32 → o.ackpsn = (q.psn + 1) % 2 ^ 32 →
    exec .scaleoutPacket s = .next (s.setOutFlow { x with
      unacked := [], expiries := 0, timeout := 125000, since := s.now,
      window := if o.ece then max 1 (x.window / 2) else if x.window ≤ x.grown + 1 then min 1024 (x.window + 1) else x.window,
      grown := if o.ece then 0 else if x.window ≤ x.grown + 1 then x.grown + 1 - x.window else x.grown + 1 })) ∧
  (∀ s o x, s.ev.out = some o → o.dst = s.pkgid.toNat → o.version = 1 → o.type = 2 → x = s.outFlow o.src o.vc → x.waiting = [] →
    (∀ q rest, x.unacked = q :: rest → q.psn = o.ackpsn) → x.unacked ≠ [] → o.ece = false → 1 ≤ x.window → x.grown < x.window →
    exec .scaleoutPacket s = .next { s.setOutFlow x with outbox := s.outbox ++ x.unacked.map Output.course }) ∧
  (∀ s o, s.ev.out = some o → o.dst ≠ s.pkgid.toNat ∨ o.version ≠ 1 → exec .scaleoutPacket s = .next s) ∧
  ∀ s x, s.outflows[s.ev.n]? = some x → x.unacked ≠ [] → x.since + x.timeout ≤ s.now →
    (x.expiries < 9 → exec .scaleoutTimeout s = .next { s.setOutFlow { x with
        expiries := x.expiries + 1, timeout := min (2 * x.timeout) 4000000, since := s.now } with
      outbox := s.outbox ++ x.unacked.map Output.course }) ∧
    (9 ≤ x.expiries → ∃ t, exec .scaleoutTimeout s = .next t ∧
      (t.routeOf x.peer).w0 = ((s.routeOf x.peer).w0 ||| 0x2000000000000000)))

/-- R433, R435 to R437, R447: a package that is not offered to the host takes nothing of it; else a host access goes to the homes
line by line and is performed there unless its line is locked; a line that the host read loses its host copy before a device
write; a snoop brings what its owner wrote; EN = 1 resets HEAD to TAIL; a ring's next entry is read, and a TAIL too far ahead
disables the ring; a completion is written before HEAD + 1. R232, R234, R237, R384, R438 to R440: each command of a ring has the
effect of its row and completes with its status; one with a nonzero reserved field, and an OPC that is no command, complete with
REFUSED and no effect. R439: the oldest record that no paused bridge holds goes to its context's enabled queue, and then WRPTR +
1, with the vector when the queue was empty; a full queue counts it in LOSS, and a context without an enabled queue in the
package's count; RDPTR of a full queue is read again. -/
def Obligations.HostInterface : Prop :=
  (
  (∀ s a n d, s.ev.k = 0 → a = s.ev.n → n = (if s.ev.flag then s.ev.bytes.length else s.ev.m) →
    d = (if s.ev.flag then some s.ev.bytes else none) →
    (s.offered = false → exec .hostMemAccess s = .next s) ∧
    (s.offered = true → a + n ≤ hbmSize → exec .hostMemAccess s = .next (s.hostAccess a n d)) ∧
    (s.offered = true → hbmSize < a + n → exec .hostMemAccess s = .fault (.noSuchPhysical (a + n)))) ∧
  (∀ a n, 0 < n → (∀ e ∈ linePieces a n, 0 < e.2 ∧ e.1 + e.2 ≤ n ∧ (a + e.1) / 64 = (a + e.1 + e.2 - 1) / 64) ∧
    (a % 64 + n ≤ 64 → linePieces a n = [(0, n)])) ∧
  (∀ s m pk a n d, s.ev.k = 1 → m = s.ev.n → s.packet m = some pk → pk.body = .hostAccess a n d → s.fenced pk.dst = false →
    (s.locked 0 a n = true → exec .hostMemAccess s = .next s) ∧
    (s.locked 0 a n = false → exec .hostMemAccess s = .next ((s.drop m).hostPerform a n d))) ∧
  (∀ (s : State) a n, ∃ t, s.hostPerform a n none = t ∧ t.outbox = s.outbox ++ [.hostRead a (s.hbm.bytes a n)] ∧ t.hbm = s.hbm ∧
    a / 64 ∈ (t.home (homeOf a)).host) ∧
  (∀ (s : State) a d, ∃ t, s.hostPerform a d.length (some d) = t ∧ t.hbm = s.hbm.put a d ∧ t.outbox = s.outbox ++ [.hostWritten a d.length]) ∧
  (∀ (s : State) l bs, bs ≠ [] → bs.length ≤ 64 → l ∈ (s.home (homeOf (64 * l))).host →
    ∃ t, s.writePhys 0 (64 * l) bs = t ∧ t.hbm = s.hbm.put (64 * l) bs ∧ t.outbox = s.outbox ++ [.backInvalidate (64 * l)] ∧
      l ∉ (t.home (homeOf (64 * l))).host) ∧
  (∀ s, s.ev.bytes ≠ [] → exec .cxlSnoop s = .next (s.writePhys (if s.ev.n = 1 then 1 else 2) s.ev.m s.ev.bytes)) ∧
  (∀ s, s.ev.bytes = [] → ∃ t, exec .cxlSnoop s = .next t ∧ s.SameMemory t) ∧
  (∀ s r x, r = s.ev.n → r < 16 → x = s.cmdRing r →
    (s.offered = false → exec .rdescEnable s = .next s) ∧
    (s.offered = true → x.w1.getLsbD 32 = false → s.ev.w.getLsbD 32 = true → ∃ t y, exec .rdescEnable s = .next t ∧ y = t.cmdRing r ∧
      y.w1 = s.ev.w &&& 0x1FFFFFFFF ∧ y.w0 = x.w0 ∧ y.cur = none ∧
      y.head = (s.phys (x.w0.extractLsb' 60 4).toNat).nat (x.w0.extractLsb' 0 52).toNat 8) ∧
    (s.offered = true → x.w1.getLsbD 32 = true → s.ev.w.getLsbD 32 = false → ∃ t y, exec .rdescEnable s = .next t ∧ y = t.cmdRing r ∧
      y.w1 = x.w1 &&& 0xFFFFFFFF ∧ y.head = x.head)) ∧
  (∀ s r x, r = s.ev.n → r < 16 → x = s.cmdRing r → x.en = true → x.cur = none → x.head < s.ringTail x →
    (s.ringTail x - x.head ≤ x.size → ∃ t w, exec .commandRingFetch s = .next t ∧ (t.cmdRing r).cur = some w ∧
      (∀ i (h : i < 8), w[i] = (s.phys x.ap).word (x.base + 0x40 + 64 * (x.head % x.size) + 8 * i)) ∧ (t.cmdRing r).head = x.head) ∧
    (x.size < s.ringTail x - x.head → ∃ t y, exec .commandRingFetch s = .next t ∧ (t.cmdRing r).en = false ∧
      t.outbox = s.outbox ++ [.record [BitVec.ofNat 64 r, y]])) ∧
  ∀ (s : State) r x w st v, r < 16 → x = s.cmdRing r → x.cur = some w → x.ap = 1 → x.size ≠ 0 → st < 256 →
    ∃ y m, (s.completeCmd r st v).cmdRing r = y ∧ y.head = x.head + 1 ∧ y.cur = none ∧ y.busy = false ∧
      m = (s.completeCmd r st v).hostMem ∧ m.word (x.base + 8) = BitVec.ofNat 64 (x.head + 1) ∧
      m.word (x.base + 0x40 + 64 * x.size + 16 * (x.head % x.size)) = BitVec.ofNat 8 st ++ 0#24 ++ w[0].extractLsb' 0 32 ∧
      m.word (x.base + 0x40 + 64 * x.size + 16 * (x.head % x.size) + 8) = v) ∧
  (
  (∀ s r i opc w, (i, opc) ∈ [(Instr.cmdLaunch, 1), (.cmdRetire, 2), (.cmdCancel, 3), (.cmdJcancel, 4), (.cmdPsave, 5), (.cmdPresume, 6),
      (.cmdEvq, 7), (.cmdSummary, 8)] → r = s.ev.n → s.command r opc = some w → cmdBad opc w = true →
    exec i s = .next (s.completeCmd r 2 0)) ∧
  (∀ s r w e id u, r = s.ev.n → s.command r 1 = some w → cmdBad 1 w = false → e = #v[w[1], w[2], w[3], w[4], w[5], w[6], 0, w[7]] →
    launchOk w[1] w[2] w[7] = true → s.hostOpen (launchAgent (dieOf (w[2].extractLsb' 0 13).toNat)) = true →
    s.createLaunch (dieOf (w[2].extractLsb' 0 13).toNat) e (w[0].extractLsb' 44 12).toNat [] true none { core := hostUnit, uid := r }
      = .answer 0 id u →
    exec .cmdLaunch s = .next (u.completeCmd r 0 (BitVec.ofNat 64 id))) ∧
  (∀ s r w l, r = s.ev.n → s.command r 2 = some w → cmdBad 2 w = false → s.launchRec w[1].toNat = some l →
    s.hostOpen (launchAgent (idDie w[1].toNat)) = true →
    exec .cmdRetire s = .next (if l.state = 5 ∧ l.depth = 0 then (s.freeRecord w[1].toNat).completeCmd r 0 0 else s.completeCmd r 2 0)) ∧
  (∀ s r w id st, r = s.ev.n → s.command r 3 = some w → cmdBad 3 w = false → id = w[1].toNat →
    st = s.idStatus id (w[0].extractLsb' 44 12).toNat →
    (idOk id = false ∨ idKind id = 2 → exec .cmdCancel s = .next (s.completeCmd r 2 0)) ∧
    (idOk id = true → idKind id ≠ 2 → idPkg id = s.pkgid.toNat → s.hostOpen (launchAgent (idDie id)) = true →
      exec .cmdCancel s = .next ((if st = 0 then s.cancelTree id else s).completeCmd r st 0)) ∧
    (idOk id = true → idKind id ≠ 2 → idPkg id ≠ s.pkgid.toNat → (s.cmdRing r).busy = false →
      exec .cmdCancel s = .next (s.hostAsk r id (w[0].extractLsb' 44 12).toNat)) ∧
    ∀ told, idOk id = true → idKind id ≠ 2 → idPkg id ≠ s.pkgid.toNat → (s.cmdRing r).busy = true → (s.cmdRing r).told = some told →
      exec .cmdCancel s = .next (s.completeCmd r told 0)) ∧
  (∀ s r w, r = s.ev.n → s.command r 4 = some w → cmdBad 4 w = false → (∀ d, d < 4 → s.hostOpen (launchAgent d) = true) →
    exec .cmdJcancel s = .next ((s.cancelJob hostUnit (w[0].extractLsb' 44 12).toNat).completeCmd r 0 0)) ∧
  (∀ s r w i opc d, (i = .cmdPsave ∧ opc = 5 ∨ i = .cmdPresume ∧ opc = 6) → r = s.ev.n → s.command r opc = some w → cmdBad opc w = false →
    d = w[1].extractLsb' 12 52 ++ w[0].extractLsb' 44 12 →
    ((s.cmdRing r).busy = true → (∀ e ∈ s.cores, ∀ j ∈ e.2.jobs, j.who ≠ { core := hostUnit, uid := r }) →
      exec i s = .next (s.completeCmd r 0 0)) ∧
    ((s.cmdRing r).busy = false → saveBad d w[2] = true → exec i s = .next (s.completeCmd r 2 0)) ∧
    ∀ u, (s.cmdRing r).busy = false → saveBad d w[2] = false → w[2].toNat + saveSize * saveCount d ≤ hbmSize →
      (∀ e ∈ saveRange d w[2], s.hostOpen (launchAgent (dieOf e.1)) = true) →
      (if opc = 5 then s.beginSave d w[2] none { core := hostUnit, uid := r } else s.beginResume d w[2] none { core := hostUnit, uid := r })
        = some u → exec i s = .next (u.setRingDesc r { u.cmdRing r with busy := true })) ∧
  (∀ s r w ctx q, r = s.ev.n → s.command r 7 = some w → cmdBad 7 w = false → ctx = (w[0].extractLsb' 44 12).toNat →
    (w[2].getLsbD 48 = false → kget s.evqs ctx = some q →
      exec .cmdEvq s = .next ({ s with evqs := kset s.evqs ctx { q with en := false } }.completeCmd r 0 0)) ∧
    (w[2].getLsbD 48 = true → (w[1].extractLsb' 0 12 ≠ 0 ∨ 3 ≤ (w[1].extractLsb' 60 4).toNat) →
      exec .cmdEvq s = .next (s.completeCmd r 2 0)) ∧
    ∀ k u, w[2].getLsbD 48 = true → w[1].extractLsb' 0 12 = 0 → (w[1].extractLsb' 60 4 = 1 ∨ w[1].extractLsb' 60 4 = 2) → 10 ≤ k → k ≤ 26 →
      (w[2].extractLsb' 0 32).toNat = 2 ^ k → q.en = true → q.ap = (w[1].extractLsb' 60 4).toNat →
      q.base = (w[1].extractLsb' 0 60).toNat → q.vector = (w[2].extractLsb' 32 16).toNat → q.size = 2 ^ k → q.wrptr = 0 → q.rd = 0 →
      q.loss = 0 → q.poll = none → q.irqAt = ((kget s.evqs ctx).map (·.irqAt)).getD 0 →
      u = (s.writePhys q.ap (q.base + 8) (leBytes 0 8)).writePhys q.ap (q.base + 0x18) (leBytes 0 8) →
      exec .cmdEvq s = .next ({ u with evqs := kset u.evqs ctx q }.completeCmd r 0 0)) ∧
  (∀ s r w, r = s.ev.n → s.command r 8 = some w → cmdBad 8 w = false →
    (w[1].extractLsb' 60 4 = 1 ∨ w[1].extractLsb' 60 4 = 2) → 0x73000 ≤ w[2].toNat →
    ∃ u, u = s.writePhys (w[1].extractLsb' 60 4).toNat (w[1].extractLsb' 0 60).toNat s.summaryBytes ∧
      exec .cmdSummary s = .next ({ u with summaries := u.summaries + 1 }.completeCmd r 0 0x73000)) ∧
  (∀ (s : State), (∀ ws ∈ s.unanswered, ws.length = 4) → s.summaryBytes.length = 0x73000) ∧
  ∀ s r w, r = s.ev.n → (s.cmdRing r).cur = some w →
    (w[0].extractLsb' 56 8 = 9 → cmdBad 9 w = false → exec .cmdNop s = .next (s.completeCmd r 0 0)) ∧
    (w[0].extractLsb' 56 8 = 0 ∨ 9 < (w[0].extractLsb' 56 8).toNat → exec .cmdNop s = .next (s.completeCmd r 2 0))) ∧
  (
  (∀ s c ctx ws rest q u, s.events.find? (fun e => s.hostOpen e.1) = some (c, ctx, ws) → rest = s.events.erase (c, ctx, ws) →
    kget s.evqs ctx = some q → q.en = true → q.poll = none → q.ap = 1 →
    u = s.hostMem.nat (q.base + 0x10) 8 → u ≤ q.wrptr → q.wrptr - u < q.size →
    ∃ t x, exec .eventRecordWrite s = .next t ∧ t.events = rest ∧ kget t.evqs ctx = some x ∧ x.wrptr = q.wrptr + 1 ∧ x.loss = q.loss ∧
      t.hostMem = (s.hostMem.put (q.base + 0x1000 + 32 * (q.wrptr % q.size)) (wordBytes ws)).put (q.base + 8)
        (leBytes (q.wrptr + 1) 8) ∧
      t.outbox = (if u = q.wrptr ∧ q.irqAt ≤ s.now then s.outbox ++ [.msix q.vector] else s.outbox)) ∧
  (∀ s c ctx ws rest q u, s.events.find? (fun e => s.hostOpen e.1) = some (c, ctx, ws) → rest = s.events.erase (c, ctx, ws) →
    kget s.evqs ctx = some q → q.en = true → q.poll = none → q.ap = 1 →
    u = s.hostMem.nat (q.base + 0x10) 8 → (q.wrptr < u ∨ q.size ≤ q.wrptr - u) →
    ∃ t x, exec .eventRecordWrite s = .next t ∧ t.events = rest ∧ kget t.evqs ctx = some x ∧ x.wrptr = q.wrptr ∧
      x.loss = min (q.loss + 1) (2 ^ 32 - 1) ∧ x.poll = some (s.now + 1024) ∧
      t.hostMem = s.hostMem.put (q.base + 0x18) (leBytes (min (q.loss + 1) (2 ^ 32 - 1)) 8)) ∧
  (∀ s c ctx ws rest, s.events.find? (fun e => s.hostOpen e.1) = some (c, ctx, ws) → rest = s.events.erase (c, ctx, ws) →
    (kget s.evqs ctx = none ∨ ∃ q, kget s.evqs ctx = some q ∧ q.en = false) →
    exec .eventRecordWrite s = .next { s with events := rest, lostEvents := s.lostEvents + 1 }) ∧
  (∀ s, (∀ e ∈ s.events, s.hostOpen e.1 = false) → exec .eventRecordWrite s = .next s) ∧
  ∀ s ctx q u t, ctx = s.ev.n → kget s.evqs ctx = some q → q.poll = some t → t ≤ s.now → q.ap = 1 →
    u = s.hostMem.nat (q.base + 0x10) 8 →
    exec .evqRdptrPoll s = .next { s with evqs := kset s.evqs ctx { q with
      rd := u, poll := if q.wrptr < u ∨ q.size ≤ q.wrptr - u then some (s.now + 1024) else none } })

/-- R451 to R454: LSEND refuses a header that its rule refuses; a broadcast leaves for the 1,023 other positions of the die and ends
with OK; a DATA flit leaves with the sender's position and waits for the answer, which is the status. LRECV takes the head of
the raw queue and waits without one. R451, R452: a DISCOVER draws one REPORT of the router's position, fuse and die links;
REPORT and DATA flits enter a raw queue with fewer than 16; IMAGE writes the boot region and START starts a record of a mapped
core that works. -/
def Obligations.RawAgents : Prop :=
  (
  (∀ s c k p g b a d h, p.priv = true → p.isDraft = false → Executes s c k p [ux b, uv a, ux d] (p.guardBit g 0) → h = p.xr b →
    ((h.extractLsb' 42 18 ≠ 0 ∨ h.extractLsb' 60 4 = 0 ∨ h.extractLsb' 60 4 = 2 ∨ 5 < (h.extractLsb' 60 4).toNat ∨
        ((h.extractLsb' 60 4 = 1 ∨ h.extractLsb' 60 4 = 4) ∧ h.extractLsb' 0 32 ≠ 0) ∨
        (h.extractLsb' 60 4 ≠ 5 ∧ ((s.core c).boot = false ∨ s.routerAt c ≠ 0 ∨ h.extractLsb' 32 10 ≠ 0)) ∨
        (h.extractLsb' 60 4 = 3 ∧ (h.extractLsb' 0 5 ≠ 0 ∨ 0x4000 ≤ (h.extractLsb' 0 32).toNat)) ∨
        (h.extractLsb' 60 4 = 5 ∧ (h.extractLsb' 32 10).toNat = s.routerAt c)) →
      exec (.lsend g b a d) s = .next (s.retireTo c k (p.setX d 2) (.lsend g b a d) (p.pc + 4))) ∧
    (h.extractLsb' 32 28 = 0 → (((h.extractLsb' 60 4 = 1 ∨ h.extractLsb' 60 4 = 4) ∧ h.extractLsb' 0 32 = 0) ∨
        (h.extractLsb' 60 4 = 3 ∧ h.extractLsb' 0 5 = 0 ∧ (h.extractLsb' 0 32).toNat < 0x4000)) →
      (s.core c).boot = true → s.routerAt c = 0 → c < 4096 →
      ∃ t r, exec (.lsend g b a d) s = .next t ∧ t.proc c k = some r ∧ r.pc = p.pc + 4 ∧ r.retired = p.retired + 1 ∧ p.Keeps r [.x d] ∧
        (d ≠ 0 → r.xr d = 0) ∧ t.net = s.net ++ (List.range 1023).map fun j =>
          { src := c, dst := 1024 * agentDie c + (j + 1), vc := 0, since := s.now,
            body := .raw h (p.vr a) { core := c, uid := p.uid } }) ∧
    (h.extractLsb' 42 18 = 0 → h.extractLsb' 60 4 = 5 → (h.extractLsb' 32 10).toNat ≠ s.routerAt c → s.routerAt c < 1024 →
      ∃ t r, exec (.lsend g b a d) s = .next t ∧ t.proc c k = some r ∧ r.pc = p.pc ∧
        r.wait = some { instr := .lsend g b a d, kind := .lsendAck } ∧ t.net = s.net ++
          [{ src := c, dst := 1024 * agentDie c + (h.extractLsb' 32 10).toNat, vc := 0, since := s.now,
             body := .raw (5#4 ++ 0#18 ++ BitVec.ofNat 10 (s.routerAt c) ++ h.extractLsb' 0 32) (p.vr a) { core := c, uid := p.uid } }])) ∧
  (∀ s n pk who st k p g b a d, s.packet n = some pk → s.ev.n = n → pk.body = .rawAns who st → p.uid = who.uid →
    Waits s who.core k p (.lsend g b a d) .lsendAck →
    exec .rawData s = .next (((s.drop n).retireTo who.core k (p.setX d (BitVec.ofNat 64 st)) (.lsend g b a d) (p.pc + 4)).rejoin
      who.core k)) ∧
  ∀ s c k p g b d, p.priv = true → Executes s c k p [uv b, ux d] (p.guardBit g 0) →
    ((s.core c).rawq = [] → exec (.lrecv g b d) s = .next (s.block c k (.lrecv g b d) .lrecv)) ∧
    ∀ h v rest, (s.core c).rawq = (h, v) :: rest →
      exec (.lrecv g b d) s = .next ((s.modCore c fun co => { co with rawq := rest }).retireTo c k ((p.setX d h).setV b v)
        (.lrecv g b d) (p.pc + 4))) ∧
  (
  (∀ s n pk h v who, s.packet n = some pk → s.ev.n = n → pk.body = .raw h v who → h.extractLsb' 60 4 = 1 →
    ∃ t x, exec .rawDiscover s = .next t ∧ t.net = s.net.eraseIdx n ++
      [{ src := pk.dst, dst := 1024 * agentDie pk.dst, vc := 0, since := s.now,
         body := .raw (2#4 ++ 0#18 ++ BitVec.ofNat 10 (pk.dst % 1024) ++ 0#30 ++ BitVec.ofBool (s.dieLinks pk.dst) ++
           BitVec.ofBool (isFused pk.dst)) x who }]) ∧
  (∀ s n pk h v who, s.packet n = some pk → s.ev.n = n → pk.body = .raw h v who → (s.core pk.dst).rawq.length < 16 →
    (h.extractLsb' 60 4 = 2 →
      exec .rawReport s = .next ((s.drop n).modCore pk.dst fun co => { co with rawq := co.rawq ++ [(h, v)] })) ∧
    (h.extractLsb' 60 4 = 5 → ∃ t, exec .rawData s = .next t ∧
      (t.core pk.dst).rawq = (if isFused pk.dst then (s.core pk.dst).rawq else (s.core pk.dst).rawq ++ [(h, v)]) ∧
      t.net = s.net.eraseIdx n ++ [{ src := pk.dst, dst := pk.src, vc := 2, since := s.now,
                                     body := .rawAns who (if isFused pk.dst then 1 else 0) }])) ∧
  ∀ s n pk h v who, s.packet n = some pk → s.ev.n = n → pk.body = .raw h v who → pk.dst % 1024 ≠ 0 →
    (h.extractLsb' 60 4 = 3 → exec .rawImage s = .next (if isFused pk.dst then s.drop n else (s.drop n).modCore pk.dst fun co => { co with
      bootMem := co.bootMem.put (h.extractLsb' 0 14).toNat (leBytes v.toNat 32) })) ∧
    (h.extractLsb' 60 4 = 4 → s.mapped pk.dst = true →
      if isFused pk.dst then exec .rawStart s = .next (s.drop n)
      else if 128 ≤ (s.core pk.dst).queue.length then exec .rawStart s = .next s
      else ∃ t q, exec .rawStart s = .next t ∧ (t.core pk.dst).queue = (s.core pk.dst).queue ++ [q] ∧ q.hdr = 0 ∧ q.ctx = 0 ∧
        q.launch = none ∧ q.index7 = 0 ∧ (∀ i (h : i < 4), q.args[i] = v.extractLsb' (64 * i) 64) ∧
        q.header = some (headerOf ((s.core pk.dst).bootMem.bytes 0 64))) ∧
    (h.extractLsb' 60 4 = 4 → s.mapped pk.dst = false → exec .rawStart s = .next (s.drop n)))

/-- R442, R447 to R450, R457 to R459, R462: the power-on steps in their order and at their times, and what each leaves; the boot
program of a die starts with its arguments, its map entries and its image; boot mode ends on every core; heat and attestation. -/
def Obligations.PowerAndBoot : Prop :=
  (∀ (image sig : List Byte), sig.length = 2420 →
    verified (image ++ sig) = if Config.verifies (Config.digest image) sig then some image else none) ∧
  (∀ bs : List Byte, bs.length < 2420 → verified bs = none) ∧
  (∀ s, s.power = 0 → exec .powerInputValid s = .next (match verified s.ev.bytes with
    | some image => { s with power := 2, powerAt := s.now, digests := s.digests ++ [Config.digest image] }
    | none => s)) ∧
  (∀ s d, 2 ≤ s.power → s.power ≤ 11 → s.powerAt + powerDue s.power ≤ s.now → d = (s.power - 4) / 2 →
    (s.ev.flag = false → ∃ y, exec .powerStep s = .next { s with
      power := s.power + 1, pkgid := if s.power = 3 then Config.pkgid else s.pkgid, outbox := s.outbox ++ [.record [BitVec.ofNat 64 s.power, y]] }) ∧
    (s.ev.flag = true → s.power = 2 → exec .powerStep s = .next { s with power := 3, clock := 0, clockAt := s.now }) ∧
    (s.ev.flag = true → s.power = 3 → exec .powerStep s = .next { s with power := 4, pkgid := Config.pkgid }) ∧
    (s.ev.flag = true → 4 ≤ s.power → s.power % 2 = 0 → ∃ t, exec .powerStep s = .next t ∧ t.power = s.power + 1 ∧
      (t.die d).powered = true ∧ (t.die d).clock = s.clock ∧ (t.die d).map = [] ∧
      (∀ m, m < 10 → ((t.bridge (4 + d)).module m).up = true) ∧ ∀ c ∈ dieAgents d, t.core c = { Core.reset with resetAt := s.now }) ∧
    (s.ev.flag = true → 4 ≤ s.power → s.power % 2 = 1 → (s.die d).powered = true →
      exec .powerStep s = .next { s with power := s.power + 1, hbmStacks := s.hbmStacks ++ [2 * d, 2 * d + 1] })) ∧
  (powerDue 2 = 12500000 ∧ powerDue 3 = 15000000 ∧ ∀ d, d < 4 → powerDue (4 + 2 * d) = 1250000 * (20 + 5 * d) ∧
    powerDue (5 + 2 * d) = 1250000 * (22 + 5 * d)) ∧
  (∀ s d h boot image, s.ev.n = d → d < 4 → (s.die d).powered = true → (s.die d).reported = false → 2 * d ∈ s.hbmStacks →
    2 * d + 1 ∈ s.hbmStacks → boot = s.ev.bytes.take (s.ev.bytes.length - 2420) → image = s.ev.image.take (s.ev.image.length - 2420) →
    boot.length ≤ 0x4000 → image.length ≤ 0x4000 → h = headerOf (((s.core (1024 * d)).bootMem.put 0 boot).bytes 0 64) →
    headerBad (privHeader h) = none → (s.core (1024 * d)).emptySlots ≠ [] →
    ∃ t, exec .bootProgramStart s = .next t ∧ if verified s.ev.bytes = none ∨ verified s.ev.image = none then t = s else
      ∃ k p, t.proc (1024 * d) k = some p ∧ p.priv = true ∧ p.ctx = 0 ∧ p.launch = none ∧
      p.xr 1 = BitVec.ofNat 64 d ∧ p.xr 6 = 0 ∧ p.xr 7 = 0 ∧ p.wbase = 0 ∧ (t.core (1024 * d)).bootMem.bytes 0 boot.length = boot ∧
      (t.core (1024 * d)).spad.bytes 0 image.length = image ∧ (t.die d).reported = true ∧
      t.digests = s.digests ++ [Config.digest boot, Config.digest image] ∧
      ∀ j, j < 66 → kget (t.die d).map (992 + j) =
        some (0x8000 ||| (Config.attach (placeVcore d (992 + j))).zeroExtend 16)) ∧
  (∀ s, (∀ d, d < 4 → (s.die d).reported = true) →
    ∃ t, exec .leaveBootMode s = .next t ∧ t.ctxbase = s.ev.w.toNat ∧ (∀ d, d < 4 → (t.die d).trbase = ((s.ev.words[d]?).getD 0).toNat) ∧
      (∀ c, c < 4096 → (t.core c).boot = false) ∧ (t.routeOf s.pkgid.toNat).w0.extractLsb' 62 2 = 1) ∧
  (∀ s d, s.ev.n = d → d < 4 → (s.die d).hot = false →
    ∃ t y, exec .thermalHigh s = .next t ∧ (t.die d).hot = true ∧ t.outbox = s.outbox ++ [.record [BitVec.ofNat 64 d, y]]) ∧
  (∀ s d, s.ev.n = d → exec .thermalNormal s = .next (s.modDie d fun x => { x with hot := false })) ∧
  (∀ s, ∃ t, exec .thermalShutdown s = .next t ∧ t.power = 0 ∧ t.cores = [] ∧ t.hbm = [] ∧ t.hostMem = s.hostMem ∧ t.cxlMem = s.cxlMem ∧
    t.outbox = s.outbox ++ [.powerOff]) ∧
  ∀ s, ∃ t y, exec .attestationRequest s = .next t ∧ t.outbox = s.outbox ++ [.attest s.digests y]

/-- R4, R265, R386, R397, R400, R402, R407, R420, R422, R428, R436, R445, R449, R463: a write of a management register writes its
read-write fields, and the writes that act (DBGCTL, DBGACC, MCTL, BCTL, a capture) have their action; a read shows the fields
that are not write-only. The numbering of the registers is the model's (log entry 64). -/
def Obligations.RegisterWrites : Prop :=
  (∀ s n u w c, s.ev.n = n → s.ev.m = u → s.ev.w = w → s.ev.k = 0 → s.ev.flag = false → n < 7 →
    (s.agent (u / 4) = none → exec .registerWrite s = .next s) ∧ (s.agent (u / 4) = some c →
    (n = 0 → exec .registerWrite s = .next (s.modCore c fun co => { co with peermask := w.extractLsb' 0 16 &&& 0xFC })) ∧
    (n = 1 → exec .registerWrite s = .next (s.modCore c fun co => { co with lwcycles := w.extractLsb' 0 32 })) ∧
    (n = 2 → exec .registerWrite s = .next (s.modCore c fun co => { co with
      trcctl := w.extractLsb' 51 13 ++ 0#44 ++ w.extractLsb' 0 7 })) ∧
    (n = 3 → w.getLsbD 0 = true → w.getLsbD 12 = false → (s.core c).halted = false →
      ∃ t, exec .registerWrite s = .next t ∧ (t.core c).halted = true ∧ (t.core c).dbgctl.extractLsb' 4 8 = w.extractLsb' 4 8 ∧
        (t.core c).dbgctl.getLsbD 2 = w.getLsbD 2 ∧
        (t.core c).dbgctl.getLsbD 13 = ((s.core c).dbgctl.getLsbD 13 && !w.getLsbD 13)) ∧
    (n = 3 → w.getLsbD 12 = true → (s.core c).halted = false →
      ∃ t, exec .registerWrite s = .next t ∧ (t.core c).dbgctl.getLsbD 13 = true ∧ (t.core c).halted = w.getLsbD 0) ∧
    (n = 3 → w.getLsbD 0 = false → ∃ t, exec .registerWrite s = .next t ∧ (t.core c).halted = false) ∧
    (n = 4 → exec .registerWrite s = .next (s.modCore c fun co => { co with bpc := co.bpc.setIfInBounds (u % 4) w })) ∧
    (n = 5 → exec .registerWrite s = .next (s.modCore c fun co => { co with dbgdata := w })) ∧
    (n = 6 → exec .registerWrite s = .next (if w.getLsbD 63 then s.accPut c w else s.accGet c w)))) ∧
  (∀ s l, s.ev.k = 0 → s.ev.flag = true → s.ev.n < 7 → l = (s.cores.map (·.1)).filter (fun c => decide (c < 4360 ∧ agentDie c = s.ev.m / 4)) →
    exec .registerWrite s = .next (l.foldl (fun s' c => s'.writeCore s.ev.n (s.ev.m % 4) s.ev.w c) s)) ∧
  (∀ s n u w, s.ev.n = n → s.ev.m = u → s.ev.w = w → s.ev.k = 0 →
    (n = 7 → u < 4096 → w.getLsbD 0 = true → exec .registerWrite s = .next (s.modCore u fun co => { co with boot := true })) ∧
    (n = 7 → u < 4096 → w.getLsbD 0 = false → ∃ t, exec .registerWrite s = .next t ∧ (t.core u).boot = false) ∧
    (n = 8 → u < 4096 → ∃ t, exec .registerWrite s = .next t ∧
      (u % 4 = 0 → (t.routeOf (u / 4)).w0 = w.extractLsb' 62 2 ++ 0#20 ++ w.extractLsb' 0 42) ∧
      (u % 4 = 1 → (t.routeOf (u / 4)).w1 = (w.extractLsb' 0 16).zeroExtend 64) ∧ (u % 4 = 2 → (t.routeOf (u / 4)).w2 = w) ∧
      (u % 4 = 3 → (t.routeOf (u / 4)).w3 = w)) ∧
    (n = 9 → u < 2048 → ∃ t r, exec .registerWrite s = .next t ∧ kget t.reductions (u / 4) = some r ∧
      (u % 4 = 0 → r.w0 = w.extractLsb' 20 44 ++ 0#4 ++ w.extractLsb' 0 16) ∧ (u % 4 = 1 → r.w1 = 0#12 ++ w.extractLsb' 0 52) ∧
      (u % 4 = 2 → w.getLsbD 0 = true → r.w2 = 0)) ∧
    (n = 10 → exec .registerWrite s = .next { s with ctxbase := w.toNat }) ∧
    (n = 11 → exec .registerWrite s = .next (s.modDie u fun x => { x with trbase := w.toNat })) ∧
    (∀ b, n = 12 → b < 8 → u = 0x100 * b + 8 → w.extractLsb' 0 4 = 1 →
      ∃ t, exec .registerWrite s = .next t ∧
        t.bridge b = (if (s.bridge b).state = 0 then { s.bridge b with state := 1 } else { s.bridge b with err := true })) ∧
    (∀ b, n = 12 → b < 8 → u = 0x100 * b → exec .registerWrite s = .next (s.modBridge b fun x =>
      if w.getLsbD 40 then { x with err := false } else x)) ∧
    (∀ c a, n = 13 → c < 4096 → a < 0x30000 → u = 2 ^ 18 * c + a → (s.core c).boot = true →
      exec .registerWrite s = .next (s.modCore c fun co => { co with spad := co.spad.write a (w.extractLsb' 0 8) })) ∧
    (∀ c a, n = 14 → c < 4096 → a < 0x4000 → u = 2 ^ 18 * c + a → (s.core c).boot = true →
      exec .registerWrite s = .next (s.modCore c fun co => { co with bootMem := co.bootMem.write a (w.extractLsb' 0 8) })) ∧
    (n = 15 → u < 64 → u % 4 = 0 → ∃ t, exec .registerWrite s = .next t ∧ (t.cmdRing (u / 4)).w0 = (if (s.cmdRing (u / 4)).en
      then (s.cmdRing (u / 4)).w0 else w.extractLsb' 60 4 ++ 0#8 ++ w.extractLsb' 0 52)) ∧
    (n = 19 → s.ev.flag = true → 1024 ≤ (w.extractLsb' 32 32).toNat → (w.extractLsb' 32 32).toNat ≤ 16777215 →
      exec .registerWrite s = .next (s.floodCapture u (.capture true (w.extractLsb' 0 24).toNat (w.extractLsb' 32 32).toNat s.ev.w2.toNat))) ∧
    (n = 19 → s.ev.flag = false → exec .registerWrite s = .next (s.floodCapture u (.capture false 0 0 0)))) ∧
  ∀ s n u, s.ev.n = n → s.ev.m = u → s.ev.k = 1 → ∃ v, exec .registerWrite s = .next { s with outbox := s.outbox ++ [.regRead n u v] } ∧
    (∀ c, s.agent (u / 4) = some c → (n = 0 → v = (s.core c).peermask.zeroExtend 64) ∧ (n = 1 → v = (s.core c).lwcycles.zeroExtend 64) ∧
      (n = 2 → v = (s.core c).trcctl) ∧ (n = 3 → v = ((s.core c).dbgctl &&& 0x2FF7).zeroExtend 64) ∧
      (∀ i : Fin 4, n = 4 → u % 4 = i → v = (s.core c).bpc[i]) ∧ (n = 5 → v = (s.core c).dbgdata) ∧ (n = 6 → v = 0)) ∧
    (n < 7 → s.agent (u / 4) = none → v = 0) ∧
    (n = 7 → v = 0#61 ++ BitVec.ofBool (isFused u) ++ BitVec.ofBool (s.dieLinks u) ++ BitVec.ofBool (s.core u).boot) ∧
    (n = 8 → u % 4 = 0 → v = (s.routeOf (u / 4)).w0) ∧ (n = 9 → u % 4 = 3 → v = 0) ∧ (n = 10 → v = BitVec.ofNat 64 s.ctxbase) ∧
    (n = 15 → u % 4 = 2 → v = BitVec.ofNat 64 (s.cmdRing (u / 4)).head) ∧
    (n = 17 → v = ((kget (s.die (u / 2048)).map (u % 2048)).getD 0).zeroExtend 64) ∧ (n = 18 → u % 2 = 0 → v = (s.lend (u / 2)).w0)
end

