-- ==== Sys2Proof/Laws/Mem.lean ====
section
/-! SUPPORT. Sys2Proof/Laws/Mem.lean: reading maps and memories after a write, and the canonical form, which every memory
operation keeps. -/

namespace Sys2Proof.Machine

/-! ### Maps by number -/

theorem kget_kset_same {α : Type} (m : KMap α) (i : Nat) (v : α) : kget (kset m i v) i = some v := by
  induction m with
  | nil => simp [kset, kget]
  | cons e m ih =>
    obtain ⟨j, w⟩ := e
    simp only [kset]
    split
    · simp [kget]
    · split
      · simp [kget]
      · simp_all [kget]

theorem kget_kset_other {α : Type} (m : KMap α) (i j : Nat) (v : α) (h : j ≠ i) : kget (kset m i v) j = kget m j := by
  induction m with
  | nil => simp [kset, kget, h.symm]
  | cons e m ih =>
    obtain ⟨l, w⟩ := e
    simp only [kset]
    split
    · simp [kget, h.symm]
    · split
      · next hl =>
        have hl : l = i := by simpa using hl
        subst hl
        simp [kget, Ne.symm h]
      · simp [kget, ih]

theorem kget_kset {α : Type} (m : KMap α) (i j : Nat) (v : α) :
    kget (kset m i v) j = if j = i then some v else kget m j := by
  split
  · next h => rw [h, kget_kset_same]
  · next h => exact kget_kset_other m i j v h

theorem kget_kdel {α : Type} (m : KMap α) (i j : Nat) : kget (kdel m i) j = if j = i then none else kget m j := by
  induction m with
  | nil => simp [kdel, kget]
  | cons e m ih =>
    obtain ⟨l, w⟩ := e
    simp only [kdel, List.filter_cons] at ih ⊢
    by_cases hl : l = i
    · subst hl
      simp only [bne_self_eq_false, Bool.false_eq_true, if_false, ih]
      by_cases hj : j = l
      · simp [hj]
      · simp [hj, kget, Ne.symm hj]
    · simp only [bne_iff_ne, ne_eq, hl, not_false_eq_true, if_true, kget, ih]
      by_cases hj : j = l
      · simp [hj, hl]
      · by_cases hi : j = i <;> simp [hi, Ne.symm hj, hl]

/-! ### The canonical form as two plain facts -/

theorem Mem.wf_iff (m : Mem) :
    m.wf = true ↔ m.Pairwise (fun x y => x.1 < y.1) ∧ ∀ e ∈ m, e.2 ≠ 0 := by
  induction m with
  | nil => simp [Mem.wf]
  | cons e m ih =>
    obtain ⟨a, b⟩ := e
    cases m with
    | nil => simp [Mem.wf]
    | cons e' m =>
      obtain ⟨a', b'⟩ := e'
      simp only [Mem.wf, Bool.and_eq_true, bne_iff_ne, decide_eq_true_eq, ih, List.pairwise_cons, List.forall_mem_cons]
      constructor
      · rintro ⟨⟨hb, hlt⟩, ⟨h1, h2⟩, h3⟩
        exact ⟨⟨⟨hlt, fun x hx => Nat.lt_trans hlt (h1 x hx)⟩, h1, h2⟩, hb, h3⟩
      · rintro ⟨⟨⟨hlt, -⟩, h1, h2⟩, hb, h3⟩
        exact ⟨⟨hb, hlt⟩, ⟨h1, h2⟩, h3⟩

theorem mem_kset {α : Type} (m : KMap α) (i : Nat) (v : α) (e : Nat × α) (h : e ∈ kset m i v) :
    e = (i, v) ∨ e ∈ m := by
  induction m with
  | nil => simpa [kset] using h
  | cons e' m ih =>
    obtain ⟨j, w⟩ := e'
    simp only [kset] at h
    split at h
    · simpa using h
    · split at h
      · rcases List.mem_cons.1 h with h | h
        · exact .inl h
        · exact .inr (List.mem_cons_of_mem _ h)
      · rcases List.mem_cons.1 h with h | h
        · exact .inr (h ▸ List.mem_cons_self)
        · rcases ih h with h | h
          · exact .inl h
          · exact .inr (List.mem_cons_of_mem _ h)

theorem kset_rising {α : Type} (m : KMap α) (i : Nat) (v : α) (h : m.Pairwise fun x y => x.1 < y.1) :
    (kset m i v).Pairwise fun x y => x.1 < y.1 := by
  induction m with
  | nil => simp [kset]
  | cons e m ih =>
    obtain ⟨j, w⟩ := e
    rw [List.pairwise_cons] at h
    simp only [kset]
    split
    · next hlt =>
      refine List.pairwise_cons.2 ⟨?_, List.pairwise_cons.2 h⟩
      intro x hx
      rcases List.mem_cons.1 hx with hx | hx
      · subst hx; exact hlt
      · exact Nat.lt_trans hlt (h.1 x hx)
    · split
      · next hji =>
        have : j = i := by simpa using hji
        subst this
        exact List.pairwise_cons.2 h
      · next hge hne =>
        have hne : j ≠ i := by simpa using hne
        refine List.pairwise_cons.2 ⟨?_, ih h.2⟩
        intro x hx
        rcases mem_kset m i v x hx with hx | hx
        · subst hx; show j < i; omega
        · exact h.1 x hx

theorem kdel_rising {α : Type} (m : KMap α) (i : Nat) (h : m.Pairwise fun x y => x.1 < y.1) :
    (kdel m i).Pairwise fun x y => x.1 < y.1 := h.filter _

/-! ### Memory operations -/

@[simp] theorem Mem.wf_nil : Mem.wf [] = true := rfl

/-- Writing a byte keeps the canonical form. -/
@[simp] theorem Mem.write_wf (m : Mem) (a : Nat) (b : Byte) (h : m.wf = true) : (m.write a b).wf = true := by
  rw [Mem.wf_iff] at h ⊢
  unfold Mem.write
  split
  · exact ⟨kdel_rising m a h.1, fun e he => h.2 e ((List.mem_filter.1 he).1)⟩
  · next hb =>
    refine ⟨kset_rising m a b h.1, fun e he => ?_⟩
    rcases mem_kset m a b e he with he | he
    · subst he; simpa using hb
    · exact h.2 e he

@[simp] theorem Mem.put_wf (l : List Byte) (m : Mem) (a : Nat) (h : m.wf = true) : (m.put a l).wf = true := by
  induction l generalizing m a with
  | nil => exact h
  | cons b l ih => exact ih _ _ (Mem.write_wf m a b h)

@[simp] theorem Mem.putMasked_wf (l : List Byte) (m : Mem) (a mask : Nat) (h : m.wf = true) :
    (m.putMasked a mask l).wf = true := by
  induction l generalizing m a mask with
  | nil => exact h
  | cons b l ih =>
    unfold Mem.putMasked
    split
    · exact ih _ _ _ (Mem.write_wf m a b h)
    · exact ih _ _ _ h

@[simp] theorem Mem.putNat_wf (m : Mem) (a n w : Nat) (h : m.wf = true) : (m.putNat a n w).wf = true :=
  Mem.put_wf _ _ _ h

/-- Dropping bytes keeps the canonical form. -/
theorem Mem.filter_wf (m : Mem) (f : Host.Cell → Bool) (h : m.wf = true) : Mem.wf (m.filter f) = true := by
  rw [Mem.wf_iff] at h ⊢
  exact ⟨h.1.filter _, fun e he => h.2 e ((List.mem_filter.1 he).1)⟩

/-- What a byte reads as after a byte was written. -/
theorem Mem.read_write (m : Mem) (a x : Nat) (b : Byte) : (m.write a b).read x = if x = a then b else m.read x := by
  unfold Mem.write Mem.read
  split
  · next hb =>
    rw [kget_kdel]
    have : b = 0 := by simpa using hb
    split <;> simp_all
  · rw [kget_kset]
    split <;> simp

@[simp] theorem Mem.read_write_same (m : Mem) (a : Nat) (b : Byte) : (m.write a b).read a = b := by
  simp [Mem.read_write]

theorem Mem.read_write_other (m : Mem) (a x : Nat) (b : Byte) (h : x ≠ a) : (m.write a b).read x = m.read x := by
  simp [Mem.read_write, h]

/-- A write of consecutive bytes leaves every byte outside them. -/
theorem Mem.read_put_outside (l : List Byte) (m : Mem) (a x : Nat) (h : x < a ∨ a + l.length ≤ x) :
    (m.put a l).read x = m.read x := by
  induction l generalizing m a with
  | nil => rfl
  | cons b l ih =>
    simp only [List.length_cons] at h
    rw [Mem.put, ih _ _ (by omega), Mem.read_write_other _ _ _ _ (by omega)]

/-- A write of consecutive bytes is read back. -/
theorem Mem.read_put_inside (l : List Byte) (m : Mem) (a i : Nat) (h : i < l.length) : (m.put a l).read (a + i) = l[i] := by
  induction l generalizing m a i with
  | nil => simp at h
  | cons b l ih =>
    rw [Mem.put]
    cases i with
    | zero => rw [Mem.read_put_outside _ _ _ _ (by omega)]; simp
    | succ i =>
      have := ih (m.write a b) (a + 1) i (by simpa using h)
      rw [show a + (i + 1) = a + 1 + i by omega, this]
      rfl

theorem Mem.bytes_length (m : Mem) (a n : Nat) : (m.bytes a n).length = n := by
  induction n generalizing a with
  | zero => rfl
  | succ n ih => simp [Mem.bytes, ih]

/-- The bytes just written are the bytes then read. -/
theorem Mem.bytes_put (l : List Byte) (m : Mem) (a : Nat) : (m.put a l).bytes a l.length = l := by
  induction l generalizing m a with
  | nil => rfl
  | cons b l ih =>
    rw [List.length_cons, Mem.bytes, Mem.put, ih, Mem.read_put_outside _ _ _ _ (by omega), Mem.read_write_same]

/-- Bytes that a write does not touch read as before. -/
theorem Mem.bytes_put_outside (l : List Byte) (m : Mem) (a x n : Nat) (h : x + n ≤ a ∨ a + l.length ≤ x) :
    (m.put a l).bytes x n = m.bytes x n := by
  induction n generalizing x with
  | zero => rfl
  | succ n ih => rw [Mem.bytes, Mem.bytes, ih _ (by omega), Mem.read_put_outside _ _ _ _ (by omega)]

/-- Memories in canonical form that read alike are equal. -/
theorem Mem.ext (m n : Mem) (hm : m.wf = true) (hn : n.wf = true) (h : ∀ a, m.read a = n.read a) : m = n := by
  induction m generalizing n with
  | nil =>
    cases n with
    | nil => rfl
    | cons e n =>
      have h0 := (Mem.wf_iff _).1 hn
      have := h e.1
      simp [Mem.read, kget] at this
      exact absurd this.symm (h0.2 e List.mem_cons_self)
  | cons e m ih =>
    cases n with
    | nil =>
      have h0 := (Mem.wf_iff _).1 hm
      have := h e.1
      simp [Mem.read, kget] at this
      exact absurd this (h0.2 e List.mem_cons_self)
    | cons f n =>
      have h0 := (Mem.wf_iff _).1 hm
      have h1 := (Mem.wf_iff _).1 hn
      rw [List.pairwise_cons] at h0 h1
      have none_below : ∀ (l : Mem) (a : Nat), (∀ x ∈ l, a < x.1) → kget l a = none := by
        intro l a hl
        induction l with
        | nil => rfl
        | cons x l ihl =>
          have hx := hl x List.mem_cons_self
          rw [kget, if_neg (by simp; omega), ihl fun y hy => hl y (List.mem_cons_of_mem _ hy)]
      have hfst : e.1 = f.1 := by
        rcases Nat.lt_trichotomy e.1 f.1 with hl | hl | hl
        · have := h e.1
          rw [Mem.read, Mem.read, none_below (f :: n) e.1 (fun x hx => by
            rcases List.mem_cons.1 hx with hx | hx
            · exact hx ▸ hl
            · exact Nat.lt_trans hl (h1.1.1 x hx))] at this
          simp [kget] at this
          exact absurd this (h0.2 e List.mem_cons_self)
        · exact hl
        · have := h f.1
          rw [Mem.read, Mem.read, none_below (e :: m) f.1 (fun x hx => by
            rcases List.mem_cons.1 hx with hx | hx
            · exact hx ▸ hl
            · exact Nat.lt_trans hl (h0.1.1 x hx))] at this
          simp [kget] at this
          exact absurd this.symm (h1.2 f List.mem_cons_self)
      have hsnd : e.2 = f.2 := by
        have := h e.1
        simpa [Mem.read, kget, hfst] using this
      have htail : m = n := by
        refine ih n ((Mem.wf_iff _).2 ⟨h0.1.2, fun x hx => h0.2 x (List.mem_cons_of_mem _ hx)⟩)
          ((Mem.wf_iff _).2 ⟨h1.1.2, fun x hx => h1.2 x (List.mem_cons_of_mem _ hx)⟩) fun a => ?_
        by_cases ha : a = e.1
        · rw [Mem.read, Mem.read, ha, none_below m e.1 h0.1.1, none_below n e.1 (hfst ▸ h1.1.1)]
        · have := h a
          simpa [Mem.read, kget, Ne.symm ha, Ne.symm (hfst ▸ ha : a ≠ f.1)] using this
      rw [htail, Prod.ext hfst hsnd]

end Sys2Proof.Machine
end

