-- ==== Sys2Proof/Laws/State.lean ====
section
/-! SUPPORT. Sys2Proof/Laws/State.lean: what each field of a record is after each of the named updates, by `rfl`. -/

namespace Sys2Proof.Machine

set_option Elab.async false

/-! ### A core written -/

@[simp] theorem State.setCore_now (s : State) (c : Nat) (co : Core) : (s.setCore c co).now = s.now := rfl
@[simp] theorem State.setCore_tick (s : State) (c : Nat) (co : Core) : (s.setCore c co).tick = s.tick := rfl
@[simp] theorem State.setCore_nextUid (s : State) (c : Nat) (co : Core) : (s.setCore c co).nextUid = s.nextUid := rfl
@[simp] theorem State.setCore_cur (s : State) (c : Nat) (co : Core) : (s.setCore c co).cur = s.cur := rfl
@[simp] theorem State.setCore_ev (s : State) (c : Nat) (co : Core) : (s.setCore c co).ev = s.ev := rfl
@[simp] theorem State.setCore_inbox (s : State) (c : Nat) (co : Core) : (s.setCore c co).inbox = s.inbox := rfl
@[simp] theorem State.setCore_outbox (s : State) (c : Nat) (co : Core) : (s.setCore c co).outbox = s.outbox := rfl
@[simp] theorem State.setCore_homes (s : State) (c : Nat) (co : Core) : (s.setCore c co).homes = s.homes := rfl
@[simp] theorem State.setCore_l2 (s : State) (c : Nat) (co : Core) : (s.setCore c co).l2 = s.l2 := rfl
@[simp] theorem State.setCore_walkers (s : State) (c : Nat) (co : Core) : (s.setCore c co).walkers = s.walkers := rfl
@[simp] theorem State.setCore_dies (s : State) (c : Nat) (co : Core) : (s.setCore c co).dies = s.dies := rfl
@[simp] theorem State.setCore_clock (s : State) (c : Nat) (co : Core) : (s.setCore c co).clock = s.clock := rfl
@[simp] theorem State.setCore_clockAt (s : State) (c : Nat) (co : Core) : (s.setCore c co).clockAt = s.clockAt := rfl
@[simp] theorem State.setCore_ioClocks (s : State) (c : Nat) (co : Core) : (s.setCore c co).ioClocks = s.ioClocks := rfl
@[simp] theorem State.setCore_hbm (s : State) (c : Nat) (co : Core) : (s.setCore c co).hbm = s.hbm := rfl
@[simp] theorem State.setCore_hostMem (s : State) (c : Nat) (co : Core) : (s.setCore c co).hostMem = s.hostMem := rfl
@[simp] theorem State.setCore_cxlMem (s : State) (c : Nat) (co : Core) : (s.setCore c co).cxlMem = s.cxlMem := rfl
@[simp] theorem State.setCore_net (s : State) (c : Nat) (co : Core) : (s.setCore c co).net = s.net := rfl
@[simp] theorem State.setCore_events (s : State) (c : Nat) (co : Core) : (s.setCore c co).events = s.events := rfl
@[simp] theorem State.setCore_evqs (s : State) (c : Nat) (co : Core) : (s.setCore c co).evqs = s.evqs := rfl
@[simp] theorem State.setCore_lostEvents (s : State) (c : Nat) (co : Core) : (s.setCore c co).lostEvents = s.lostEvents := rfl
@[simp] theorem State.setCore_rings (s : State) (c : Nat) (co : Core) : (s.setCore c co).rings = s.rings := rfl
@[simp] theorem State.setCore_monitors (s : State) (c : Nat) (co : Core) : (s.setCore c co).monitors = s.monitors := rfl
@[simp] theorem State.setCore_hostWrites (s : State) (c : Nat) (co : Core) : (s.setCore c co).hostWrites = s.hostWrites := rfl
@[simp] theorem State.setCore_bridges (s : State) (c : Nat) (co : Core) : (s.setCore c co).bridges = s.bridges := rfl
@[simp] theorem State.setCore_links (s : State) (c : Nat) (co : Core) : (s.setCore c co).links = s.links := rfl
@[simp] theorem State.setCore_flows (s : State) (c : Nat) (co : Core) : (s.setCore c co).flows = s.flows := rfl
@[simp] theorem State.setCore_outflows (s : State) (c : Nat) (co : Core) : (s.setCore c co).outflows = s.outflows := rfl
@[simp] theorem State.setCore_routes (s : State) (c : Nat) (co : Core) : (s.setCore c co).routes = s.routes := rfl
@[simp] theorem State.setCore_lends (s : State) (c : Nat) (co : Core) : (s.setCore c co).lends = s.lends := rfl
@[simp] theorem State.setCore_reductions (s : State) (c : Nat) (co : Core) : (s.setCore c co).reductions = s.reductions := rfl
@[simp] theorem State.setCore_pkgid (s : State) (c : Nat) (co : Core) : (s.setCore c co).pkgid = s.pkgid := rfl
@[simp] theorem State.setCore_ctxbase (s : State) (c : Nat) (co : Core) : (s.setCore c co).ctxbase = s.ctxbase := rfl
@[simp] theorem State.setCore_summaries (s : State) (c : Nat) (co : Core) : (s.setCore c co).summaries = s.summaries := rfl
@[simp] theorem State.setCore_jobs (s : State) (c : Nat) (co : Core) : (s.setCore c co).jobs = s.jobs := rfl
@[simp] theorem State.setCore_farCancels (s : State) (c : Nat) (co : Core) : (s.setCore c co).farCancels = s.farCancels := rfl
@[simp] theorem State.setCore_power (s : State) (c : Nat) (co : Core) : (s.setCore c co).power = s.power := rfl
@[simp] theorem State.setCore_powerAt (s : State) (c : Nat) (co : Core) : (s.setCore c co).powerAt = s.powerAt := rfl
@[simp] theorem State.setCore_hbmStacks (s : State) (c : Nat) (co : Core) : (s.setCore c co).hbmStacks = s.hbmStacks := rfl
@[simp] theorem State.setCore_digests (s : State) (c : Nat) (co : Core) : (s.setCore c co).digests = s.digests := rfl

@[simp] theorem State.setCore_cores (s : State) (c : Nat) (co : Core) : (s.setCore c co).cores = kset s.cores c co := rfl

/-! ### A die written -/

@[simp] theorem State.modDie_now (s : State) (d : Nat) (f : Die → Die) : (s.modDie d f).now = s.now := rfl
@[simp] theorem State.modDie_tick (s : State) (d : Nat) (f : Die → Die) : (s.modDie d f).tick = s.tick := rfl
@[simp] theorem State.modDie_nextUid (s : State) (d : Nat) (f : Die → Die) : (s.modDie d f).nextUid = s.nextUid := rfl
@[simp] theorem State.modDie_cur (s : State) (d : Nat) (f : Die → Die) : (s.modDie d f).cur = s.cur := rfl
@[simp] theorem State.modDie_ev (s : State) (d : Nat) (f : Die → Die) : (s.modDie d f).ev = s.ev := rfl
@[simp] theorem State.modDie_inbox (s : State) (d : Nat) (f : Die → Die) : (s.modDie d f).inbox = s.inbox := rfl
@[simp] theorem State.modDie_outbox (s : State) (d : Nat) (f : Die → Die) : (s.modDie d f).outbox = s.outbox := rfl
@[simp] theorem State.modDie_cores (s : State) (d : Nat) (f : Die → Die) : (s.modDie d f).cores = s.cores := rfl
@[simp] theorem State.modDie_homes (s : State) (d : Nat) (f : Die → Die) : (s.modDie d f).homes = s.homes := rfl
@[simp] theorem State.modDie_l2 (s : State) (d : Nat) (f : Die → Die) : (s.modDie d f).l2 = s.l2 := rfl
@[simp] theorem State.modDie_walkers (s : State) (d : Nat) (f : Die → Die) : (s.modDie d f).walkers = s.walkers := rfl
@[simp] theorem State.modDie_clock (s : State) (d : Nat) (f : Die → Die) : (s.modDie d f).clock = s.clock := rfl
@[simp] theorem State.modDie_clockAt (s : State) (d : Nat) (f : Die → Die) : (s.modDie d f).clockAt = s.clockAt := rfl
@[simp] theorem State.modDie_ioClocks (s : State) (d : Nat) (f : Die → Die) : (s.modDie d f).ioClocks = s.ioClocks := rfl
@[simp] theorem State.modDie_hbm (s : State) (d : Nat) (f : Die → Die) : (s.modDie d f).hbm = s.hbm := rfl
@[simp] theorem State.modDie_hostMem (s : State) (d : Nat) (f : Die → Die) : (s.modDie d f).hostMem = s.hostMem := rfl
@[simp] theorem State.modDie_cxlMem (s : State) (d : Nat) (f : Die → Die) : (s.modDie d f).cxlMem = s.cxlMem := rfl
@[simp] theorem State.modDie_net (s : State) (d : Nat) (f : Die → Die) : (s.modDie d f).net = s.net := rfl
@[simp] theorem State.modDie_events (s : State) (d : Nat) (f : Die → Die) : (s.modDie d f).events = s.events := rfl
@[simp] theorem State.modDie_evqs (s : State) (d : Nat) (f : Die → Die) : (s.modDie d f).evqs = s.evqs := rfl
@[simp] theorem State.modDie_lostEvents (s : State) (d : Nat) (f : Die → Die) : (s.modDie d f).lostEvents = s.lostEvents := rfl
@[simp] theorem State.modDie_rings (s : State) (d : Nat) (f : Die → Die) : (s.modDie d f).rings = s.rings := rfl
@[simp] theorem State.modDie_monitors (s : State) (d : Nat) (f : Die → Die) : (s.modDie d f).monitors = s.monitors := rfl
@[simp] theorem State.modDie_hostWrites (s : State) (d : Nat) (f : Die → Die) : (s.modDie d f).hostWrites = s.hostWrites := rfl
@[simp] theorem State.modDie_bridges (s : State) (d : Nat) (f : Die → Die) : (s.modDie d f).bridges = s.bridges := rfl
@[simp] theorem State.modDie_links (s : State) (d : Nat) (f : Die → Die) : (s.modDie d f).links = s.links := rfl
@[simp] theorem State.modDie_flows (s : State) (d : Nat) (f : Die → Die) : (s.modDie d f).flows = s.flows := rfl
@[simp] theorem State.modDie_outflows (s : State) (d : Nat) (f : Die → Die) : (s.modDie d f).outflows = s.outflows := rfl
@[simp] theorem State.modDie_routes (s : State) (d : Nat) (f : Die → Die) : (s.modDie d f).routes = s.routes := rfl
@[simp] theorem State.modDie_lends (s : State) (d : Nat) (f : Die → Die) : (s.modDie d f).lends = s.lends := rfl
@[simp] theorem State.modDie_reductions (s : State) (d : Nat) (f : Die → Die) : (s.modDie d f).reductions = s.reductions := rfl
@[simp] theorem State.modDie_pkgid (s : State) (d : Nat) (f : Die → Die) : (s.modDie d f).pkgid = s.pkgid := rfl
@[simp] theorem State.modDie_ctxbase (s : State) (d : Nat) (f : Die → Die) : (s.modDie d f).ctxbase = s.ctxbase := rfl
@[simp] theorem State.modDie_summaries (s : State) (d : Nat) (f : Die → Die) : (s.modDie d f).summaries = s.summaries := rfl
@[simp] theorem State.modDie_jobs (s : State) (d : Nat) (f : Die → Die) : (s.modDie d f).jobs = s.jobs := rfl
@[simp] theorem State.modDie_farCancels (s : State) (d : Nat) (f : Die → Die) : (s.modDie d f).farCancels = s.farCancels := rfl
@[simp] theorem State.modDie_power (s : State) (d : Nat) (f : Die → Die) : (s.modDie d f).power = s.power := rfl
@[simp] theorem State.modDie_powerAt (s : State) (d : Nat) (f : Die → Die) : (s.modDie d f).powerAt = s.powerAt := rfl
@[simp] theorem State.modDie_hbmStacks (s : State) (d : Nat) (f : Die → Die) : (s.modDie d f).hbmStacks = s.hbmStacks := rfl
@[simp] theorem State.modDie_digests (s : State) (d : Nat) (f : Die → Die) : (s.modDie d f).digests = s.digests := rfl

/-! ### A record posted -/

@[simp] theorem State.post_now (s : State) (c ctx : Nat) (ws : List Word) : (s.post c ctx ws).now = s.now := rfl
@[simp] theorem State.post_tick (s : State) (c ctx : Nat) (ws : List Word) : (s.post c ctx ws).tick = s.tick := rfl
@[simp] theorem State.post_nextUid (s : State) (c ctx : Nat) (ws : List Word) : (s.post c ctx ws).nextUid = s.nextUid := rfl
@[simp] theorem State.post_cur (s : State) (c ctx : Nat) (ws : List Word) : (s.post c ctx ws).cur = s.cur := rfl
@[simp] theorem State.post_ev (s : State) (c ctx : Nat) (ws : List Word) : (s.post c ctx ws).ev = s.ev := rfl
@[simp] theorem State.post_inbox (s : State) (c ctx : Nat) (ws : List Word) : (s.post c ctx ws).inbox = s.inbox := rfl
@[simp] theorem State.post_outbox (s : State) (c ctx : Nat) (ws : List Word) : (s.post c ctx ws).outbox = s.outbox := rfl
@[simp] theorem State.post_cores (s : State) (c ctx : Nat) (ws : List Word) : (s.post c ctx ws).cores = s.cores := rfl
@[simp] theorem State.post_homes (s : State) (c ctx : Nat) (ws : List Word) : (s.post c ctx ws).homes = s.homes := rfl
@[simp] theorem State.post_l2 (s : State) (c ctx : Nat) (ws : List Word) : (s.post c ctx ws).l2 = s.l2 := rfl
@[simp] theorem State.post_walkers (s : State) (c ctx : Nat) (ws : List Word) : (s.post c ctx ws).walkers = s.walkers := rfl
@[simp] theorem State.post_dies (s : State) (c ctx : Nat) (ws : List Word) : (s.post c ctx ws).dies = s.dies := rfl
@[simp] theorem State.post_clock (s : State) (c ctx : Nat) (ws : List Word) : (s.post c ctx ws).clock = s.clock := rfl
@[simp] theorem State.post_clockAt (s : State) (c ctx : Nat) (ws : List Word) : (s.post c ctx ws).clockAt = s.clockAt := rfl
@[simp] theorem State.post_ioClocks (s : State) (c ctx : Nat) (ws : List Word) : (s.post c ctx ws).ioClocks = s.ioClocks := rfl
@[simp] theorem State.post_hbm (s : State) (c ctx : Nat) (ws : List Word) : (s.post c ctx ws).hbm = s.hbm := rfl
@[simp] theorem State.post_hostMem (s : State) (c ctx : Nat) (ws : List Word) : (s.post c ctx ws).hostMem = s.hostMem := rfl
@[simp] theorem State.post_cxlMem (s : State) (c ctx : Nat) (ws : List Word) : (s.post c ctx ws).cxlMem = s.cxlMem := rfl
@[simp] theorem State.post_net (s : State) (c ctx : Nat) (ws : List Word) : (s.post c ctx ws).net = s.net := rfl
@[simp] theorem State.post_evqs (s : State) (c ctx : Nat) (ws : List Word) : (s.post c ctx ws).evqs = s.evqs := rfl
@[simp] theorem State.post_lostEvents (s : State) (c ctx : Nat) (ws : List Word) : (s.post c ctx ws).lostEvents = s.lostEvents := rfl
@[simp] theorem State.post_rings (s : State) (c ctx : Nat) (ws : List Word) : (s.post c ctx ws).rings = s.rings := rfl
@[simp] theorem State.post_monitors (s : State) (c ctx : Nat) (ws : List Word) : (s.post c ctx ws).monitors = s.monitors := rfl
@[simp] theorem State.post_hostWrites (s : State) (c ctx : Nat) (ws : List Word) : (s.post c ctx ws).hostWrites = s.hostWrites := rfl
@[simp] theorem State.post_bridges (s : State) (c ctx : Nat) (ws : List Word) : (s.post c ctx ws).bridges = s.bridges := rfl
@[simp] theorem State.post_links (s : State) (c ctx : Nat) (ws : List Word) : (s.post c ctx ws).links = s.links := rfl
@[simp] theorem State.post_flows (s : State) (c ctx : Nat) (ws : List Word) : (s.post c ctx ws).flows = s.flows := rfl
@[simp] theorem State.post_outflows (s : State) (c ctx : Nat) (ws : List Word) : (s.post c ctx ws).outflows = s.outflows := rfl
@[simp] theorem State.post_routes (s : State) (c ctx : Nat) (ws : List Word) : (s.post c ctx ws).routes = s.routes := rfl
@[simp] theorem State.post_lends (s : State) (c ctx : Nat) (ws : List Word) : (s.post c ctx ws).lends = s.lends := rfl
@[simp] theorem State.post_reductions (s : State) (c ctx : Nat) (ws : List Word) : (s.post c ctx ws).reductions = s.reductions := rfl
@[simp] theorem State.post_pkgid (s : State) (c ctx : Nat) (ws : List Word) : (s.post c ctx ws).pkgid = s.pkgid := rfl
@[simp] theorem State.post_ctxbase (s : State) (c ctx : Nat) (ws : List Word) : (s.post c ctx ws).ctxbase = s.ctxbase := rfl
@[simp] theorem State.post_summaries (s : State) (c ctx : Nat) (ws : List Word) : (s.post c ctx ws).summaries = s.summaries := rfl
@[simp] theorem State.post_jobs (s : State) (c ctx : Nat) (ws : List Word) : (s.post c ctx ws).jobs = s.jobs := rfl
@[simp] theorem State.post_farCancels (s : State) (c ctx : Nat) (ws : List Word) : (s.post c ctx ws).farCancels = s.farCancels := rfl
@[simp] theorem State.post_power (s : State) (c ctx : Nat) (ws : List Word) : (s.post c ctx ws).power = s.power := rfl
@[simp] theorem State.post_powerAt (s : State) (c ctx : Nat) (ws : List Word) : (s.post c ctx ws).powerAt = s.powerAt := rfl
@[simp] theorem State.post_hbmStacks (s : State) (c ctx : Nat) (ws : List Word) : (s.post c ctx ws).hbmStacks = s.hbmStacks := rfl
@[simp] theorem State.post_digests (s : State) (c ctx : Nat) (ws : List Word) : (s.post c ctx ws).digests = s.digests := rfl

@[simp] theorem State.post_events (s : State) (c ctx : Nat) (ws : List Word) : (s.post c ctx ws).events = s.events ++ [(c, ctx, ws)] := rfl

/-! ### Something sent out -/

@[simp] theorem State.out_now (s : State) (o : Output) : (s.out o).now = s.now := rfl
@[simp] theorem State.out_tick (s : State) (o : Output) : (s.out o).tick = s.tick := rfl
@[simp] theorem State.out_nextUid (s : State) (o : Output) : (s.out o).nextUid = s.nextUid := rfl
@[simp] theorem State.out_cur (s : State) (o : Output) : (s.out o).cur = s.cur := rfl
@[simp] theorem State.out_ev (s : State) (o : Output) : (s.out o).ev = s.ev := rfl
@[simp] theorem State.out_inbox (s : State) (o : Output) : (s.out o).inbox = s.inbox := rfl
@[simp] theorem State.out_cores (s : State) (o : Output) : (s.out o).cores = s.cores := rfl
@[simp] theorem State.out_homes (s : State) (o : Output) : (s.out o).homes = s.homes := rfl
@[simp] theorem State.out_l2 (s : State) (o : Output) : (s.out o).l2 = s.l2 := rfl
@[simp] theorem State.out_walkers (s : State) (o : Output) : (s.out o).walkers = s.walkers := rfl
@[simp] theorem State.out_dies (s : State) (o : Output) : (s.out o).dies = s.dies := rfl
@[simp] theorem State.out_clock (s : State) (o : Output) : (s.out o).clock = s.clock := rfl
@[simp] theorem State.out_clockAt (s : State) (o : Output) : (s.out o).clockAt = s.clockAt := rfl
@[simp] theorem State.out_ioClocks (s : State) (o : Output) : (s.out o).ioClocks = s.ioClocks := rfl
@[simp] theorem State.out_hbm (s : State) (o : Output) : (s.out o).hbm = s.hbm := rfl
@[simp] theorem State.out_hostMem (s : State) (o : Output) : (s.out o).hostMem = s.hostMem := rfl
@[simp] theorem State.out_cxlMem (s : State) (o : Output) : (s.out o).cxlMem = s.cxlMem := rfl
@[simp] theorem State.out_net (s : State) (o : Output) : (s.out o).net = s.net := rfl
@[simp] theorem State.out_events (s : State) (o : Output) : (s.out o).events = s.events := rfl
@[simp] theorem State.out_evqs (s : State) (o : Output) : (s.out o).evqs = s.evqs := rfl
@[simp] theorem State.out_lostEvents (s : State) (o : Output) : (s.out o).lostEvents = s.lostEvents := rfl
@[simp] theorem State.out_rings (s : State) (o : Output) : (s.out o).rings = s.rings := rfl
@[simp] theorem State.out_monitors (s : State) (o : Output) : (s.out o).monitors = s.monitors := rfl
@[simp] theorem State.out_hostWrites (s : State) (o : Output) : (s.out o).hostWrites = s.hostWrites := rfl
@[simp] theorem State.out_bridges (s : State) (o : Output) : (s.out o).bridges = s.bridges := rfl
@[simp] theorem State.out_links (s : State) (o : Output) : (s.out o).links = s.links := rfl
@[simp] theorem State.out_flows (s : State) (o : Output) : (s.out o).flows = s.flows := rfl
@[simp] theorem State.out_outflows (s : State) (o : Output) : (s.out o).outflows = s.outflows := rfl
@[simp] theorem State.out_routes (s : State) (o : Output) : (s.out o).routes = s.routes := rfl
@[simp] theorem State.out_lends (s : State) (o : Output) : (s.out o).lends = s.lends := rfl
@[simp] theorem State.out_reductions (s : State) (o : Output) : (s.out o).reductions = s.reductions := rfl
@[simp] theorem State.out_pkgid (s : State) (o : Output) : (s.out o).pkgid = s.pkgid := rfl
@[simp] theorem State.out_ctxbase (s : State) (o : Output) : (s.out o).ctxbase = s.ctxbase := rfl
@[simp] theorem State.out_summaries (s : State) (o : Output) : (s.out o).summaries = s.summaries := rfl
@[simp] theorem State.out_jobs (s : State) (o : Output) : (s.out o).jobs = s.jobs := rfl
@[simp] theorem State.out_farCancels (s : State) (o : Output) : (s.out o).farCancels = s.farCancels := rfl
@[simp] theorem State.out_power (s : State) (o : Output) : (s.out o).power = s.power := rfl
@[simp] theorem State.out_powerAt (s : State) (o : Output) : (s.out o).powerAt = s.powerAt := rfl
@[simp] theorem State.out_hbmStacks (s : State) (o : Output) : (s.out o).hbmStacks = s.hbmStacks := rfl
@[simp] theorem State.out_digests (s : State) (o : Output) : (s.out o).digests = s.digests := rfl

@[simp] theorem State.out_outbox (s : State) (o : Output) : (s.out o).outbox = s.outbox ++ [o] := rfl

/-! ### A packet taken -/

@[simp] theorem State.drop_now (s : State) (n : Nat) : (s.drop n).now = s.now := rfl
@[simp] theorem State.drop_tick (s : State) (n : Nat) : (s.drop n).tick = s.tick := rfl
@[simp] theorem State.drop_nextUid (s : State) (n : Nat) : (s.drop n).nextUid = s.nextUid := rfl
@[simp] theorem State.drop_cur (s : State) (n : Nat) : (s.drop n).cur = s.cur := rfl
@[simp] theorem State.drop_ev (s : State) (n : Nat) : (s.drop n).ev = s.ev := rfl
@[simp] theorem State.drop_inbox (s : State) (n : Nat) : (s.drop n).inbox = s.inbox := rfl
@[simp] theorem State.drop_outbox (s : State) (n : Nat) : (s.drop n).outbox = s.outbox := rfl
@[simp] theorem State.drop_cores (s : State) (n : Nat) : (s.drop n).cores = s.cores := rfl
@[simp] theorem State.drop_homes (s : State) (n : Nat) : (s.drop n).homes = s.homes := rfl
@[simp] theorem State.drop_l2 (s : State) (n : Nat) : (s.drop n).l2 = s.l2 := rfl
@[simp] theorem State.drop_walkers (s : State) (n : Nat) : (s.drop n).walkers = s.walkers := rfl
@[simp] theorem State.drop_dies (s : State) (n : Nat) : (s.drop n).dies = s.dies := rfl
@[simp] theorem State.drop_clock (s : State) (n : Nat) : (s.drop n).clock = s.clock := rfl
@[simp] theorem State.drop_clockAt (s : State) (n : Nat) : (s.drop n).clockAt = s.clockAt := rfl
@[simp] theorem State.drop_ioClocks (s : State) (n : Nat) : (s.drop n).ioClocks = s.ioClocks := rfl
@[simp] theorem State.drop_hbm (s : State) (n : Nat) : (s.drop n).hbm = s.hbm := rfl
@[simp] theorem State.drop_hostMem (s : State) (n : Nat) : (s.drop n).hostMem = s.hostMem := rfl
@[simp] theorem State.drop_cxlMem (s : State) (n : Nat) : (s.drop n).cxlMem = s.cxlMem := rfl
@[simp] theorem State.drop_events (s : State) (n : Nat) : (s.drop n).events = s.events := rfl
@[simp] theorem State.drop_evqs (s : State) (n : Nat) : (s.drop n).evqs = s.evqs := rfl
@[simp] theorem State.drop_lostEvents (s : State) (n : Nat) : (s.drop n).lostEvents = s.lostEvents := rfl
@[simp] theorem State.drop_rings (s : State) (n : Nat) : (s.drop n).rings = s.rings := rfl
@[simp] theorem State.drop_monitors (s : State) (n : Nat) : (s.drop n).monitors = s.monitors := rfl
@[simp] theorem State.drop_hostWrites (s : State) (n : Nat) : (s.drop n).hostWrites = s.hostWrites := rfl
@[simp] theorem State.drop_bridges (s : State) (n : Nat) : (s.drop n).bridges = s.bridges := rfl
@[simp] theorem State.drop_links (s : State) (n : Nat) : (s.drop n).links = s.links := rfl
@[simp] theorem State.drop_flows (s : State) (n : Nat) : (s.drop n).flows = s.flows := rfl
@[simp] theorem State.drop_outflows (s : State) (n : Nat) : (s.drop n).outflows = s.outflows := rfl
@[simp] theorem State.drop_routes (s : State) (n : Nat) : (s.drop n).routes = s.routes := rfl
@[simp] theorem State.drop_lends (s : State) (n : Nat) : (s.drop n).lends = s.lends := rfl
@[simp] theorem State.drop_reductions (s : State) (n : Nat) : (s.drop n).reductions = s.reductions := rfl
@[simp] theorem State.drop_pkgid (s : State) (n : Nat) : (s.drop n).pkgid = s.pkgid := rfl
@[simp] theorem State.drop_ctxbase (s : State) (n : Nat) : (s.drop n).ctxbase = s.ctxbase := rfl
@[simp] theorem State.drop_summaries (s : State) (n : Nat) : (s.drop n).summaries = s.summaries := rfl
@[simp] theorem State.drop_jobs (s : State) (n : Nat) : (s.drop n).jobs = s.jobs := rfl
@[simp] theorem State.drop_farCancels (s : State) (n : Nat) : (s.drop n).farCancels = s.farCancels := rfl
@[simp] theorem State.drop_power (s : State) (n : Nat) : (s.drop n).power = s.power := rfl
@[simp] theorem State.drop_powerAt (s : State) (n : Nat) : (s.drop n).powerAt = s.powerAt := rfl
@[simp] theorem State.drop_hbmStacks (s : State) (n : Nat) : (s.drop n).hbmStacks = s.hbmStacks := rfl
@[simp] theorem State.drop_digests (s : State) (n : Nat) : (s.drop n).digests = s.digests := rfl

@[simp] theorem State.drop_net (s : State) (n : Nat) : (s.drop n).net = s.net.eraseIdx n := rfl

/-! ### A slot written -/

@[simp] theorem Core.setSlot_last (co : Core) (k : Nat) (sl : Slot) : (co.setSlot k sl).last = co.last := rfl
@[simp] theorem Core.setSlot_lastTick (co : Core) (k : Nat) (sl : Slot) : (co.setSlot k sl).lastTick = co.lastTick := rfl
@[simp] theorem Core.setSlot_issued (co : Core) (k : Nat) (sl : Slot) : (co.setSlot k sl).issued = co.issued := rfl
@[simp] theorem Core.setSlot_genCtr (co : Core) (k : Nat) (sl : Slot) : (co.setSlot k sl).genCtr = co.genCtr := rfl
@[simp] theorem Core.setSlot_spad (co : Core) (k : Nat) (sl : Slot) : (co.setSlot k sl).spad = co.spad := rfl
@[simp] theorem Core.setSlot_full (co : Core) (k : Nat) (sl : Slot) : (co.setSlot k sl).full = co.full := rfl
@[simp] theorem Core.setSlot_queue (co : Core) (k : Nat) (sl : Slot) : (co.setSlot k sl).queue = co.queue := rfl
@[simp] theorem Core.setSlot_rerun (co : Core) (k : Nat) (sl : Slot) : (co.setSlot k sl).rerun = co.rerun := rfl
@[simp] theorem Core.setSlot_reserved (co : Core) (k : Nat) (sl : Slot) : (co.setSlot k sl).reserved = co.reserved := rfl
@[simp] theorem Core.setSlot_parked (co : Core) (k : Nat) (sl : Slot) : (co.setSlot k sl).parked = co.parked := rfl
@[simp] theorem Core.setSlot_rings (co : Core) (k : Nat) (sl : Slot) : (co.setSlot k sl).rings = co.rings := rfl
@[simp] theorem Core.setSlot_waits (co : Core) (k : Nat) (sl : Slot) : (co.setSlot k sl).waits = co.waits := rfl
@[simp] theorem Core.setSlot_waitFree (co : Core) (k : Nat) (sl : Slot) : (co.setSlot k sl).waitFree = co.waitFree := rfl
@[simp] theorem Core.setSlot_ports (co : Core) (k : Nat) (sl : Slot) : (co.setSlot k sl).ports = co.ports := rfl
@[simp] theorem Core.setSlot_y (co : Core) (k : Nat) (sl : Slot) : (co.setSlot k sl).y = co.y := rfl
@[simp] theorem Core.setSlot_yOwner (co : Core) (k : Nat) (sl : Slot) : (co.setSlot k sl).yOwner = co.yOwner := rfl
@[simp] theorem Core.setSlot_yOld (co : Core) (k : Nat) (sl : Slot) : (co.setSlot k sl).yOld = co.yOld := rfl
@[simp] theorem Core.setSlot_resetAt (co : Core) (k : Nat) (sl : Slot) : (co.setSlot k sl).resetAt = co.resetAt := rfl
@[simp] theorem Core.setSlot_parkwait (co : Core) (k : Nat) (sl : Slot) : (co.setSlot k sl).parkwait = co.parkwait := rfl
@[simp] theorem Core.setSlot_wdcycles (co : Core) (k : Nat) (sl : Slot) : (co.setSlot k sl).wdcycles = co.wdcycles := rfl
@[simp] theorem Core.setSlot_dlwindow (co : Core) (k : Nat) (sl : Slot) : (co.setSlot k sl).dlwindow = co.dlwindow := rfl
@[simp] theorem Core.setSlot_wtovf (co : Core) (k : Nat) (sl : Slot) : (co.setSlot k sl).wtovf = co.wtovf := rfl
@[simp] theorem Core.setSlot_limitOld (co : Core) (k : Nat) (sl : Slot) : (co.setSlot k sl).limitOld = co.limitOld := rfl
@[simp] theorem Core.setSlot_limitAt (co : Core) (k : Nat) (sl : Slot) : (co.setSlot k sl).limitAt = co.limitAt := rfl
@[simp] theorem Core.setSlot_divider (co : Core) (k : Nat) (sl : Slot) : (co.setSlot k sl).divider = co.divider := rfl
@[simp] theorem Core.setSlot_divq (co : Core) (k : Nat) (sl : Slot) : (co.setSlot k sl).divq = co.divq := rfl
@[simp] theorem Core.setSlot_vdiv (co : Core) (k : Nat) (sl : Slot) : (co.setSlot k sl).vdiv = co.vdiv := rfl
@[simp] theorem Core.setSlot_vdivq (co : Core) (k : Nat) (sl : Slot) : (co.setSlot k sl).vdivq = co.vdivq := rfl
@[simp] theorem Core.setSlot_sorter (co : Core) (k : Nat) (sl : Slot) : (co.setSlot k sl).sorter = co.sorter := rfl
@[simp] theorem Core.setSlot_sortq (co : Core) (k : Nat) (sl : Slot) : (co.setSlot k sl).sortq = co.sortq := rfl
@[simp] theorem Core.setSlot_tileq (co : Core) (k : Nat) (sl : Slot) : (co.setSlot k sl).tileq = co.tileq := rfl
@[simp] theorem Core.setSlot_tilew (co : Core) (k : Nat) (sl : Slot) : (co.setSlot k sl).tilew = co.tilew := rfl
@[simp] theorem Core.setSlot_tileEnd (co : Core) (k : Nat) (sl : Slot) : (co.setSlot k sl).tileEnd = co.tileEnd := rfl
@[simp] theorem Core.setSlot_tileWake (co : Core) (k : Nat) (sl : Slot) : (co.setSlot k sl).tileWake = co.tileWake := rfl
@[simp] theorem Core.setSlot_copies (co : Core) (k : Nat) (sl : Slot) : (co.setSlot k sl).copies = co.copies := rfl
@[simp] theorem Core.setSlot_taken (co : Core) (k : Nat) (sl : Slot) : (co.setSlot k sl).taken = co.taken := rfl
@[simp] theorem Core.setSlot_foreign (co : Core) (k : Nat) (sl : Slot) : (co.setSlot k sl).foreign = co.foreign := rfl
@[simp] theorem Core.setSlot_copyTurn (co : Core) (k : Nat) (sl : Slot) : (co.setSlot k sl).copyTurn = co.copyTurn := rfl
@[simp] theorem Core.setSlot_copyAt (co : Core) (k : Nat) (sl : Slot) : (co.setSlot k sl).copyAt = co.copyAt := rfl
@[simp] theorem Core.setSlot_nextJob (co : Core) (k : Nat) (sl : Slot) : (co.setSlot k sl).nextJob = co.nextJob := rfl
@[simp] theorem Core.setSlot_ctr (co : Core) (k : Nat) (sl : Slot) : (co.setSlot k sl).ctr = co.ctr := rfl
@[simp] theorem Core.setSlot_ctrOwner (co : Core) (k : Nat) (sl : Slot) : (co.setSlot k sl).ctrOwner = co.ctrOwner := rfl
@[simp] theorem Core.setSlot_tb (co : Core) (k : Nat) (sl : Slot) : (co.setSlot k sl).tb = co.tb := rfl
@[simp] theorem Core.setSlot_memops (co : Core) (k : Nat) (sl : Slot) : (co.setSlot k sl).memops = co.memops := rfl
@[simp] theorem Core.setSlot_icache (co : Core) (k : Nat) (sl : Slot) : (co.setSlot k sl).icache = co.icache := rfl
@[simp] theorem Core.setSlot_itlb (co : Core) (k : Nat) (sl : Slot) : (co.setSlot k sl).itlb = co.itlb := rfl
@[simp] theorem Core.setSlot_dtlb (co : Core) (k : Nat) (sl : Slot) : (co.setSlot k sl).dtlb = co.dtlb := rfl
@[simp] theorem Core.setSlot_once (co : Core) (k : Nat) (sl : Slot) : (co.setSlot k sl).once = co.once := rfl
@[simp] theorem Core.setSlot_farReads (co : Core) (k : Nat) (sl : Slot) : (co.setSlot k sl).farReads = co.farReads := rfl
@[simp] theorem Core.setSlot_peermask (co : Core) (k : Nat) (sl : Slot) : (co.setSlot k sl).peermask = co.peermask := rfl
@[simp] theorem Core.setSlot_faults (co : Core) (k : Nat) (sl : Slot) : (co.setSlot k sl).faults = co.faults := rfl
@[simp] theorem Core.setSlot_cookies (co : Core) (k : Nat) (sl : Slot) : (co.setSlot k sl).cookies = co.cookies := rfl
@[simp] theorem Core.setSlot_saved (co : Core) (k : Nat) (sl : Slot) : (co.setSlot k sl).saved = co.saved := rfl
@[simp] theorem Core.setSlot_jobs (co : Core) (k : Nat) (sl : Slot) : (co.setSlot k sl).jobs = co.jobs := rfl
@[simp] theorem Core.setSlot_dbgctl (co : Core) (k : Nat) (sl : Slot) : (co.setSlot k sl).dbgctl = co.dbgctl := rfl
@[simp] theorem Core.setSlot_bpc (co : Core) (k : Nat) (sl : Slot) : (co.setSlot k sl).bpc = co.bpc := rfl
@[simp] theorem Core.setSlot_dbgdata (co : Core) (k : Nat) (sl : Slot) : (co.setSlot k sl).dbgdata = co.dbgdata := rfl
@[simp] theorem Core.setSlot_stepping (co : Core) (k : Nat) (sl : Slot) : (co.setSlot k sl).stepping = co.stepping := rfl
@[simp] theorem Core.setSlot_trcctl (co : Core) (k : Nat) (sl : Slot) : (co.setSlot k sl).trcctl = co.trcctl := rfl
@[simp] theorem Core.setSlot_trace (co : Core) (k : Nat) (sl : Slot) : (co.setSlot k sl).trace = co.trace := rfl
@[simp] theorem Core.setSlot_lossT (co : Core) (k : Nat) (sl : Slot) : (co.setSlot k sl).lossT = co.lossT := rfl
@[simp] theorem Core.setSlot_lossD (co : Core) (k : Nat) (sl : Slot) : (co.setSlot k sl).lossD = co.lossD := rfl
@[simp] theorem Core.setSlot_boot (co : Core) (k : Nat) (sl : Slot) : (co.setSlot k sl).boot = co.boot := rfl
@[simp] theorem Core.setSlot_bootMem (co : Core) (k : Nat) (sl : Slot) : (co.setSlot k sl).bootMem = co.bootMem := rfl
@[simp] theorem Core.setSlot_rawq (co : Core) (k : Nat) (sl : Slot) : (co.setSlot k sl).rawq = co.rawq := rfl
@[simp] theorem Core.setSlot_lwcycles (co : Core) (k : Nat) (sl : Slot) : (co.setSlot k sl).lwcycles = co.lwcycles := rfl
@[simp] theorem Core.setSlot_combine (co : Core) (k : Nat) (sl : Slot) : (co.setSlot k sl).combine = co.combine := rfl
@[simp] theorem Core.setSlot_capture (co : Core) (k : Nat) (sl : Slot) : (co.setSlot k sl).capture = co.capture := rfl
@[simp] theorem Core.setSlot_flits (co : Core) (k : Nat) (sl : Slot) : (co.setSlot k sl).flits = co.flits := rfl
@[simp] theorem Core.setSlot_stalls (co : Core) (k : Nat) (sl : Slot) : (co.setSlot k sl).stalls = co.stalls := rfl
@[simp] theorem Core.setSlot_eccCount (co : Core) (k : Nat) (sl : Slot) : (co.setSlot k sl).eccCount = co.eccCount := rfl
@[simp] theorem Core.setSlot_lapses (co : Core) (k : Nat) (sl : Slot) : (co.setSlot k sl).lapses = co.lapses := rfl
@[simp] theorem Core.setSlot_walks (co : Core) (k : Nat) (sl : Slot) : (co.setSlot k sl).walks = co.walks := rfl
@[simp] theorem Core.setSlot_replays (co : Core) (k : Nat) (sl : Slot) : (co.setSlot k sl).replays = co.replays := rfl
@[simp] theorem Core.setSlot_bubbles (co : Core) (k : Nat) (sl : Slot) : (co.setSlot k sl).bubbles = co.bubbles := rfl
@[simp] theorem Core.setSlot_tileBusy (co : Core) (k : Nat) (sl : Slot) : (co.setSlot k sl).tileBusy = co.tileBusy := rfl
@[simp] theorem Core.setSlot_wdCount (co : Core) (k : Nat) (sl : Slot) : (co.setSlot k sl).wdCount = co.wdCount := rfl
@[simp] theorem Core.setSlot_wdFired (co : Core) (k : Nat) (sl : Slot) : (co.setSlot k sl).wdFired = co.wdFired := rfl
@[simp] theorem Core.setSlot_probes (co : Core) (k : Nat) (sl : Slot) : (co.setSlot k sl).probes = co.probes := rfl
@[simp] theorem Core.setSlot_reported (co : Core) (k : Nat) (sl : Slot) : (co.setSlot k sl).reported = co.reported := rfl

/-! ### A granule filled -/

@[simp] theorem Core.setFull_slots (co : Core) (g : Nat) : (co.setFull g).slots = co.slots := rfl
@[simp] theorem Core.setFull_last (co : Core) (g : Nat) : (co.setFull g).last = co.last := rfl
@[simp] theorem Core.setFull_lastTick (co : Core) (g : Nat) : (co.setFull g).lastTick = co.lastTick := rfl
@[simp] theorem Core.setFull_issued (co : Core) (g : Nat) : (co.setFull g).issued = co.issued := rfl
@[simp] theorem Core.setFull_genCtr (co : Core) (g : Nat) : (co.setFull g).genCtr = co.genCtr := rfl
@[simp] theorem Core.setFull_spad (co : Core) (g : Nat) : (co.setFull g).spad = co.spad := rfl
@[simp] theorem Core.setFull_queue (co : Core) (g : Nat) : (co.setFull g).queue = co.queue := rfl
@[simp] theorem Core.setFull_rerun (co : Core) (g : Nat) : (co.setFull g).rerun = co.rerun := rfl
@[simp] theorem Core.setFull_reserved (co : Core) (g : Nat) : (co.setFull g).reserved = co.reserved := rfl
@[simp] theorem Core.setFull_parked (co : Core) (g : Nat) : (co.setFull g).parked = co.parked := rfl
@[simp] theorem Core.setFull_rings (co : Core) (g : Nat) : (co.setFull g).rings = co.rings := rfl
@[simp] theorem Core.setFull_waits (co : Core) (g : Nat) : (co.setFull g).waits = co.waits := rfl
@[simp] theorem Core.setFull_waitFree (co : Core) (g : Nat) : (co.setFull g).waitFree = co.waitFree := rfl
@[simp] theorem Core.setFull_ports (co : Core) (g : Nat) : (co.setFull g).ports = co.ports := rfl
@[simp] theorem Core.setFull_y (co : Core) (g : Nat) : (co.setFull g).y = co.y := rfl
@[simp] theorem Core.setFull_yOwner (co : Core) (g : Nat) : (co.setFull g).yOwner = co.yOwner := rfl
@[simp] theorem Core.setFull_yOld (co : Core) (g : Nat) : (co.setFull g).yOld = co.yOld := rfl
@[simp] theorem Core.setFull_resetAt (co : Core) (g : Nat) : (co.setFull g).resetAt = co.resetAt := rfl
@[simp] theorem Core.setFull_parkwait (co : Core) (g : Nat) : (co.setFull g).parkwait = co.parkwait := rfl
@[simp] theorem Core.setFull_wdcycles (co : Core) (g : Nat) : (co.setFull g).wdcycles = co.wdcycles := rfl
@[simp] theorem Core.setFull_dlwindow (co : Core) (g : Nat) : (co.setFull g).dlwindow = co.dlwindow := rfl
@[simp] theorem Core.setFull_wtovf (co : Core) (g : Nat) : (co.setFull g).wtovf = co.wtovf := rfl
@[simp] theorem Core.setFull_limitOld (co : Core) (g : Nat) : (co.setFull g).limitOld = co.limitOld := rfl
@[simp] theorem Core.setFull_limitAt (co : Core) (g : Nat) : (co.setFull g).limitAt = co.limitAt := rfl
@[simp] theorem Core.setFull_divider (co : Core) (g : Nat) : (co.setFull g).divider = co.divider := rfl
@[simp] theorem Core.setFull_divq (co : Core) (g : Nat) : (co.setFull g).divq = co.divq := rfl
@[simp] theorem Core.setFull_vdiv (co : Core) (g : Nat) : (co.setFull g).vdiv = co.vdiv := rfl
@[simp] theorem Core.setFull_vdivq (co : Core) (g : Nat) : (co.setFull g).vdivq = co.vdivq := rfl
@[simp] theorem Core.setFull_sorter (co : Core) (g : Nat) : (co.setFull g).sorter = co.sorter := rfl
@[simp] theorem Core.setFull_sortq (co : Core) (g : Nat) : (co.setFull g).sortq = co.sortq := rfl
@[simp] theorem Core.setFull_tileq (co : Core) (g : Nat) : (co.setFull g).tileq = co.tileq := rfl
@[simp] theorem Core.setFull_tilew (co : Core) (g : Nat) : (co.setFull g).tilew = co.tilew := rfl
@[simp] theorem Core.setFull_tileEnd (co : Core) (g : Nat) : (co.setFull g).tileEnd = co.tileEnd := rfl
@[simp] theorem Core.setFull_tileWake (co : Core) (g : Nat) : (co.setFull g).tileWake = co.tileWake := rfl
@[simp] theorem Core.setFull_copies (co : Core) (g : Nat) : (co.setFull g).copies = co.copies := rfl
@[simp] theorem Core.setFull_taken (co : Core) (g : Nat) : (co.setFull g).taken = co.taken := rfl
@[simp] theorem Core.setFull_foreign (co : Core) (g : Nat) : (co.setFull g).foreign = co.foreign := rfl
@[simp] theorem Core.setFull_copyTurn (co : Core) (g : Nat) : (co.setFull g).copyTurn = co.copyTurn := rfl
@[simp] theorem Core.setFull_copyAt (co : Core) (g : Nat) : (co.setFull g).copyAt = co.copyAt := rfl
@[simp] theorem Core.setFull_nextJob (co : Core) (g : Nat) : (co.setFull g).nextJob = co.nextJob := rfl
@[simp] theorem Core.setFull_ctr (co : Core) (g : Nat) : (co.setFull g).ctr = co.ctr := rfl
@[simp] theorem Core.setFull_ctrOwner (co : Core) (g : Nat) : (co.setFull g).ctrOwner = co.ctrOwner := rfl
@[simp] theorem Core.setFull_tb (co : Core) (g : Nat) : (co.setFull g).tb = co.tb := rfl
@[simp] theorem Core.setFull_memops (co : Core) (g : Nat) : (co.setFull g).memops = co.memops := rfl
@[simp] theorem Core.setFull_icache (co : Core) (g : Nat) : (co.setFull g).icache = co.icache := rfl
@[simp] theorem Core.setFull_itlb (co : Core) (g : Nat) : (co.setFull g).itlb = co.itlb := rfl
@[simp] theorem Core.setFull_dtlb (co : Core) (g : Nat) : (co.setFull g).dtlb = co.dtlb := rfl
@[simp] theorem Core.setFull_once (co : Core) (g : Nat) : (co.setFull g).once = co.once := rfl
@[simp] theorem Core.setFull_farReads (co : Core) (g : Nat) : (co.setFull g).farReads = co.farReads := rfl
@[simp] theorem Core.setFull_peermask (co : Core) (g : Nat) : (co.setFull g).peermask = co.peermask := rfl
@[simp] theorem Core.setFull_faults (co : Core) (g : Nat) : (co.setFull g).faults = co.faults := rfl
@[simp] theorem Core.setFull_cookies (co : Core) (g : Nat) : (co.setFull g).cookies = co.cookies := rfl
@[simp] theorem Core.setFull_saved (co : Core) (g : Nat) : (co.setFull g).saved = co.saved := rfl
@[simp] theorem Core.setFull_jobs (co : Core) (g : Nat) : (co.setFull g).jobs = co.jobs := rfl
@[simp] theorem Core.setFull_dbgctl (co : Core) (g : Nat) : (co.setFull g).dbgctl = co.dbgctl := rfl
@[simp] theorem Core.setFull_bpc (co : Core) (g : Nat) : (co.setFull g).bpc = co.bpc := rfl
@[simp] theorem Core.setFull_dbgdata (co : Core) (g : Nat) : (co.setFull g).dbgdata = co.dbgdata := rfl
@[simp] theorem Core.setFull_stepping (co : Core) (g : Nat) : (co.setFull g).stepping = co.stepping := rfl
@[simp] theorem Core.setFull_trcctl (co : Core) (g : Nat) : (co.setFull g).trcctl = co.trcctl := rfl
@[simp] theorem Core.setFull_trace (co : Core) (g : Nat) : (co.setFull g).trace = co.trace := rfl
@[simp] theorem Core.setFull_lossT (co : Core) (g : Nat) : (co.setFull g).lossT = co.lossT := rfl
@[simp] theorem Core.setFull_lossD (co : Core) (g : Nat) : (co.setFull g).lossD = co.lossD := rfl
@[simp] theorem Core.setFull_boot (co : Core) (g : Nat) : (co.setFull g).boot = co.boot := rfl
@[simp] theorem Core.setFull_bootMem (co : Core) (g : Nat) : (co.setFull g).bootMem = co.bootMem := rfl
@[simp] theorem Core.setFull_rawq (co : Core) (g : Nat) : (co.setFull g).rawq = co.rawq := rfl
@[simp] theorem Core.setFull_lwcycles (co : Core) (g : Nat) : (co.setFull g).lwcycles = co.lwcycles := rfl
@[simp] theorem Core.setFull_combine (co : Core) (g : Nat) : (co.setFull g).combine = co.combine := rfl
@[simp] theorem Core.setFull_capture (co : Core) (g : Nat) : (co.setFull g).capture = co.capture := rfl
@[simp] theorem Core.setFull_flits (co : Core) (g : Nat) : (co.setFull g).flits = co.flits := rfl
@[simp] theorem Core.setFull_stalls (co : Core) (g : Nat) : (co.setFull g).stalls = co.stalls := rfl
@[simp] theorem Core.setFull_eccCount (co : Core) (g : Nat) : (co.setFull g).eccCount = co.eccCount := rfl
@[simp] theorem Core.setFull_lapses (co : Core) (g : Nat) : (co.setFull g).lapses = co.lapses := rfl
@[simp] theorem Core.setFull_walks (co : Core) (g : Nat) : (co.setFull g).walks = co.walks := rfl
@[simp] theorem Core.setFull_replays (co : Core) (g : Nat) : (co.setFull g).replays = co.replays := rfl
@[simp] theorem Core.setFull_bubbles (co : Core) (g : Nat) : (co.setFull g).bubbles = co.bubbles := rfl
@[simp] theorem Core.setFull_tileBusy (co : Core) (g : Nat) : (co.setFull g).tileBusy = co.tileBusy := rfl
@[simp] theorem Core.setFull_wdCount (co : Core) (g : Nat) : (co.setFull g).wdCount = co.wdCount := rfl
@[simp] theorem Core.setFull_wdFired (co : Core) (g : Nat) : (co.setFull g).wdFired = co.wdFired := rfl
@[simp] theorem Core.setFull_probes (co : Core) (g : Nat) : (co.setFull g).probes = co.probes := rfl
@[simp] theorem Core.setFull_reported (co : Core) (g : Nat) : (co.setFull g).reported = co.reported := rfl

/-! ### Wait-table entries released -/

@[simp] theorem Core.dropWaitsOf_slots (co : Core) (uid : Nat) : (co.dropWaitsOf uid).slots = co.slots := rfl
@[simp] theorem Core.dropWaitsOf_last (co : Core) (uid : Nat) : (co.dropWaitsOf uid).last = co.last := rfl
@[simp] theorem Core.dropWaitsOf_lastTick (co : Core) (uid : Nat) : (co.dropWaitsOf uid).lastTick = co.lastTick := rfl
@[simp] theorem Core.dropWaitsOf_issued (co : Core) (uid : Nat) : (co.dropWaitsOf uid).issued = co.issued := rfl
@[simp] theorem Core.dropWaitsOf_genCtr (co : Core) (uid : Nat) : (co.dropWaitsOf uid).genCtr = co.genCtr := rfl
@[simp] theorem Core.dropWaitsOf_spad (co : Core) (uid : Nat) : (co.dropWaitsOf uid).spad = co.spad := rfl
@[simp] theorem Core.dropWaitsOf_full (co : Core) (uid : Nat) : (co.dropWaitsOf uid).full = co.full := rfl
@[simp] theorem Core.dropWaitsOf_queue (co : Core) (uid : Nat) : (co.dropWaitsOf uid).queue = co.queue := rfl
@[simp] theorem Core.dropWaitsOf_rerun (co : Core) (uid : Nat) : (co.dropWaitsOf uid).rerun = co.rerun := rfl
@[simp] theorem Core.dropWaitsOf_reserved (co : Core) (uid : Nat) : (co.dropWaitsOf uid).reserved = co.reserved := rfl
@[simp] theorem Core.dropWaitsOf_parked (co : Core) (uid : Nat) : (co.dropWaitsOf uid).parked = co.parked := rfl
@[simp] theorem Core.dropWaitsOf_rings (co : Core) (uid : Nat) : (co.dropWaitsOf uid).rings = co.rings := rfl
@[simp] theorem Core.dropWaitsOf_ports (co : Core) (uid : Nat) : (co.dropWaitsOf uid).ports = co.ports := rfl
@[simp] theorem Core.dropWaitsOf_y (co : Core) (uid : Nat) : (co.dropWaitsOf uid).y = co.y := rfl
@[simp] theorem Core.dropWaitsOf_yOwner (co : Core) (uid : Nat) : (co.dropWaitsOf uid).yOwner = co.yOwner := rfl
@[simp] theorem Core.dropWaitsOf_yOld (co : Core) (uid : Nat) : (co.dropWaitsOf uid).yOld = co.yOld := rfl
@[simp] theorem Core.dropWaitsOf_resetAt (co : Core) (uid : Nat) : (co.dropWaitsOf uid).resetAt = co.resetAt := rfl
@[simp] theorem Core.dropWaitsOf_parkwait (co : Core) (uid : Nat) : (co.dropWaitsOf uid).parkwait = co.parkwait := rfl
@[simp] theorem Core.dropWaitsOf_wdcycles (co : Core) (uid : Nat) : (co.dropWaitsOf uid).wdcycles = co.wdcycles := rfl
@[simp] theorem Core.dropWaitsOf_dlwindow (co : Core) (uid : Nat) : (co.dropWaitsOf uid).dlwindow = co.dlwindow := rfl
@[simp] theorem Core.dropWaitsOf_wtovf (co : Core) (uid : Nat) : (co.dropWaitsOf uid).wtovf = co.wtovf := rfl
@[simp] theorem Core.dropWaitsOf_limitOld (co : Core) (uid : Nat) : (co.dropWaitsOf uid).limitOld = co.limitOld := rfl
@[simp] theorem Core.dropWaitsOf_limitAt (co : Core) (uid : Nat) : (co.dropWaitsOf uid).limitAt = co.limitAt := rfl
@[simp] theorem Core.dropWaitsOf_divider (co : Core) (uid : Nat) : (co.dropWaitsOf uid).divider = co.divider := rfl
@[simp] theorem Core.dropWaitsOf_divq (co : Core) (uid : Nat) : (co.dropWaitsOf uid).divq = co.divq := rfl
@[simp] theorem Core.dropWaitsOf_vdiv (co : Core) (uid : Nat) : (co.dropWaitsOf uid).vdiv = co.vdiv := rfl
@[simp] theorem Core.dropWaitsOf_vdivq (co : Core) (uid : Nat) : (co.dropWaitsOf uid).vdivq = co.vdivq := rfl
@[simp] theorem Core.dropWaitsOf_sorter (co : Core) (uid : Nat) : (co.dropWaitsOf uid).sorter = co.sorter := rfl
@[simp] theorem Core.dropWaitsOf_sortq (co : Core) (uid : Nat) : (co.dropWaitsOf uid).sortq = co.sortq := rfl
@[simp] theorem Core.dropWaitsOf_tileq (co : Core) (uid : Nat) : (co.dropWaitsOf uid).tileq = co.tileq := rfl
@[simp] theorem Core.dropWaitsOf_tilew (co : Core) (uid : Nat) : (co.dropWaitsOf uid).tilew = co.tilew := rfl
@[simp] theorem Core.dropWaitsOf_tileEnd (co : Core) (uid : Nat) : (co.dropWaitsOf uid).tileEnd = co.tileEnd := rfl
@[simp] theorem Core.dropWaitsOf_tileWake (co : Core) (uid : Nat) : (co.dropWaitsOf uid).tileWake = co.tileWake := rfl
@[simp] theorem Core.dropWaitsOf_copies (co : Core) (uid : Nat) : (co.dropWaitsOf uid).copies = co.copies := rfl
@[simp] theorem Core.dropWaitsOf_taken (co : Core) (uid : Nat) : (co.dropWaitsOf uid).taken = co.taken := rfl
@[simp] theorem Core.dropWaitsOf_foreign (co : Core) (uid : Nat) : (co.dropWaitsOf uid).foreign = co.foreign := rfl
@[simp] theorem Core.dropWaitsOf_copyTurn (co : Core) (uid : Nat) : (co.dropWaitsOf uid).copyTurn = co.copyTurn := rfl
@[simp] theorem Core.dropWaitsOf_copyAt (co : Core) (uid : Nat) : (co.dropWaitsOf uid).copyAt = co.copyAt := rfl
@[simp] theorem Core.dropWaitsOf_nextJob (co : Core) (uid : Nat) : (co.dropWaitsOf uid).nextJob = co.nextJob := rfl
@[simp] theorem Core.dropWaitsOf_ctr (co : Core) (uid : Nat) : (co.dropWaitsOf uid).ctr = co.ctr := rfl
@[simp] theorem Core.dropWaitsOf_ctrOwner (co : Core) (uid : Nat) : (co.dropWaitsOf uid).ctrOwner = co.ctrOwner := rfl
@[simp] theorem Core.dropWaitsOf_tb (co : Core) (uid : Nat) : (co.dropWaitsOf uid).tb = co.tb := rfl
@[simp] theorem Core.dropWaitsOf_memops (co : Core) (uid : Nat) : (co.dropWaitsOf uid).memops = co.memops := rfl
@[simp] theorem Core.dropWaitsOf_icache (co : Core) (uid : Nat) : (co.dropWaitsOf uid).icache = co.icache := rfl
@[simp] theorem Core.dropWaitsOf_itlb (co : Core) (uid : Nat) : (co.dropWaitsOf uid).itlb = co.itlb := rfl
@[simp] theorem Core.dropWaitsOf_dtlb (co : Core) (uid : Nat) : (co.dropWaitsOf uid).dtlb = co.dtlb := rfl
@[simp] theorem Core.dropWaitsOf_once (co : Core) (uid : Nat) : (co.dropWaitsOf uid).once = co.once := rfl
@[simp] theorem Core.dropWaitsOf_farReads (co : Core) (uid : Nat) : (co.dropWaitsOf uid).farReads = co.farReads := rfl
@[simp] theorem Core.dropWaitsOf_peermask (co : Core) (uid : Nat) : (co.dropWaitsOf uid).peermask = co.peermask := rfl
@[simp] theorem Core.dropWaitsOf_faults (co : Core) (uid : Nat) : (co.dropWaitsOf uid).faults = co.faults := rfl
@[simp] theorem Core.dropWaitsOf_cookies (co : Core) (uid : Nat) : (co.dropWaitsOf uid).cookies = co.cookies := rfl
@[simp] theorem Core.dropWaitsOf_saved (co : Core) (uid : Nat) : (co.dropWaitsOf uid).saved = co.saved := rfl
@[simp] theorem Core.dropWaitsOf_jobs (co : Core) (uid : Nat) : (co.dropWaitsOf uid).jobs = co.jobs := rfl
@[simp] theorem Core.dropWaitsOf_dbgctl (co : Core) (uid : Nat) : (co.dropWaitsOf uid).dbgctl = co.dbgctl := rfl
@[simp] theorem Core.dropWaitsOf_bpc (co : Core) (uid : Nat) : (co.dropWaitsOf uid).bpc = co.bpc := rfl
@[simp] theorem Core.dropWaitsOf_dbgdata (co : Core) (uid : Nat) : (co.dropWaitsOf uid).dbgdata = co.dbgdata := rfl
@[simp] theorem Core.dropWaitsOf_stepping (co : Core) (uid : Nat) : (co.dropWaitsOf uid).stepping = co.stepping := rfl
@[simp] theorem Core.dropWaitsOf_trcctl (co : Core) (uid : Nat) : (co.dropWaitsOf uid).trcctl = co.trcctl := rfl
@[simp] theorem Core.dropWaitsOf_trace (co : Core) (uid : Nat) : (co.dropWaitsOf uid).trace = co.trace := rfl
@[simp] theorem Core.dropWaitsOf_lossT (co : Core) (uid : Nat) : (co.dropWaitsOf uid).lossT = co.lossT := rfl
@[simp] theorem Core.dropWaitsOf_lossD (co : Core) (uid : Nat) : (co.dropWaitsOf uid).lossD = co.lossD := rfl
@[simp] theorem Core.dropWaitsOf_boot (co : Core) (uid : Nat) : (co.dropWaitsOf uid).boot = co.boot := rfl
@[simp] theorem Core.dropWaitsOf_bootMem (co : Core) (uid : Nat) : (co.dropWaitsOf uid).bootMem = co.bootMem := rfl
@[simp] theorem Core.dropWaitsOf_rawq (co : Core) (uid : Nat) : (co.dropWaitsOf uid).rawq = co.rawq := rfl
@[simp] theorem Core.dropWaitsOf_lwcycles (co : Core) (uid : Nat) : (co.dropWaitsOf uid).lwcycles = co.lwcycles := rfl
@[simp] theorem Core.dropWaitsOf_combine (co : Core) (uid : Nat) : (co.dropWaitsOf uid).combine = co.combine := rfl
@[simp] theorem Core.dropWaitsOf_capture (co : Core) (uid : Nat) : (co.dropWaitsOf uid).capture = co.capture := rfl
@[simp] theorem Core.dropWaitsOf_flits (co : Core) (uid : Nat) : (co.dropWaitsOf uid).flits = co.flits := rfl
@[simp] theorem Core.dropWaitsOf_stalls (co : Core) (uid : Nat) : (co.dropWaitsOf uid).stalls = co.stalls := rfl
@[simp] theorem Core.dropWaitsOf_eccCount (co : Core) (uid : Nat) : (co.dropWaitsOf uid).eccCount = co.eccCount := rfl
@[simp] theorem Core.dropWaitsOf_lapses (co : Core) (uid : Nat) : (co.dropWaitsOf uid).lapses = co.lapses := rfl
@[simp] theorem Core.dropWaitsOf_walks (co : Core) (uid : Nat) : (co.dropWaitsOf uid).walks = co.walks := rfl
@[simp] theorem Core.dropWaitsOf_replays (co : Core) (uid : Nat) : (co.dropWaitsOf uid).replays = co.replays := rfl
@[simp] theorem Core.dropWaitsOf_bubbles (co : Core) (uid : Nat) : (co.dropWaitsOf uid).bubbles = co.bubbles := rfl
@[simp] theorem Core.dropWaitsOf_tileBusy (co : Core) (uid : Nat) : (co.dropWaitsOf uid).tileBusy = co.tileBusy := rfl
@[simp] theorem Core.dropWaitsOf_wdCount (co : Core) (uid : Nat) : (co.dropWaitsOf uid).wdCount = co.wdCount := rfl
@[simp] theorem Core.dropWaitsOf_wdFired (co : Core) (uid : Nat) : (co.dropWaitsOf uid).wdFired = co.wdFired := rfl
@[simp] theorem Core.dropWaitsOf_probes (co : Core) (uid : Nat) : (co.dropWaitsOf uid).probes = co.probes := rfl
@[simp] theorem Core.dropWaitsOf_reported (co : Core) (uid : Nat) : (co.dropWaitsOf uid).reported = co.reported := rfl

@[simp] theorem Core.dropWaitsOf_waits (co : Core) (uid : Nat) : (co.dropWaitsOf uid).waits = co.waits.filter fun w => w.uid != uid := rfl

/-! ### A granule emptied -/

@[simp] theorem Core.setEmpty_slots (co : Core) (g : Nat) : (co.setEmpty g).slots = co.slots := rfl
@[simp] theorem Core.setEmpty_last (co : Core) (g : Nat) : (co.setEmpty g).last = co.last := rfl
@[simp] theorem Core.setEmpty_lastTick (co : Core) (g : Nat) : (co.setEmpty g).lastTick = co.lastTick := rfl
@[simp] theorem Core.setEmpty_issued (co : Core) (g : Nat) : (co.setEmpty g).issued = co.issued := rfl
@[simp] theorem Core.setEmpty_genCtr (co : Core) (g : Nat) : (co.setEmpty g).genCtr = co.genCtr := rfl
@[simp] theorem Core.setEmpty_spad (co : Core) (g : Nat) : (co.setEmpty g).spad = co.spad := rfl
@[simp] theorem Core.setEmpty_queue (co : Core) (g : Nat) : (co.setEmpty g).queue = co.queue := rfl
@[simp] theorem Core.setEmpty_rerun (co : Core) (g : Nat) : (co.setEmpty g).rerun = co.rerun := rfl
@[simp] theorem Core.setEmpty_reserved (co : Core) (g : Nat) : (co.setEmpty g).reserved = co.reserved := rfl
@[simp] theorem Core.setEmpty_parked (co : Core) (g : Nat) : (co.setEmpty g).parked = co.parked := rfl
@[simp] theorem Core.setEmpty_rings (co : Core) (g : Nat) : (co.setEmpty g).rings = co.rings := rfl
@[simp] theorem Core.setEmpty_waits (co : Core) (g : Nat) : (co.setEmpty g).waits = co.waits := rfl
@[simp] theorem Core.setEmpty_waitFree (co : Core) (g : Nat) : (co.setEmpty g).waitFree = co.waitFree := rfl
@[simp] theorem Core.setEmpty_ports (co : Core) (g : Nat) : (co.setEmpty g).ports = co.ports := rfl
@[simp] theorem Core.setEmpty_y (co : Core) (g : Nat) : (co.setEmpty g).y = co.y := rfl
@[simp] theorem Core.setEmpty_yOwner (co : Core) (g : Nat) : (co.setEmpty g).yOwner = co.yOwner := rfl
@[simp] theorem Core.setEmpty_yOld (co : Core) (g : Nat) : (co.setEmpty g).yOld = co.yOld := rfl
@[simp] theorem Core.setEmpty_resetAt (co : Core) (g : Nat) : (co.setEmpty g).resetAt = co.resetAt := rfl
@[simp] theorem Core.setEmpty_parkwait (co : Core) (g : Nat) : (co.setEmpty g).parkwait = co.parkwait := rfl
@[simp] theorem Core.setEmpty_wdcycles (co : Core) (g : Nat) : (co.setEmpty g).wdcycles = co.wdcycles := rfl
@[simp] theorem Core.setEmpty_dlwindow (co : Core) (g : Nat) : (co.setEmpty g).dlwindow = co.dlwindow := rfl
@[simp] theorem Core.setEmpty_wtovf (co : Core) (g : Nat) : (co.setEmpty g).wtovf = co.wtovf := rfl
@[simp] theorem Core.setEmpty_limitOld (co : Core) (g : Nat) : (co.setEmpty g).limitOld = co.limitOld := rfl
@[simp] theorem Core.setEmpty_limitAt (co : Core) (g : Nat) : (co.setEmpty g).limitAt = co.limitAt := rfl
@[simp] theorem Core.setEmpty_divider (co : Core) (g : Nat) : (co.setEmpty g).divider = co.divider := rfl
@[simp] theorem Core.setEmpty_divq (co : Core) (g : Nat) : (co.setEmpty g).divq = co.divq := rfl
@[simp] theorem Core.setEmpty_vdiv (co : Core) (g : Nat) : (co.setEmpty g).vdiv = co.vdiv := rfl
@[simp] theorem Core.setEmpty_vdivq (co : Core) (g : Nat) : (co.setEmpty g).vdivq = co.vdivq := rfl
@[simp] theorem Core.setEmpty_sorter (co : Core) (g : Nat) : (co.setEmpty g).sorter = co.sorter := rfl
@[simp] theorem Core.setEmpty_sortq (co : Core) (g : Nat) : (co.setEmpty g).sortq = co.sortq := rfl
@[simp] theorem Core.setEmpty_tileq (co : Core) (g : Nat) : (co.setEmpty g).tileq = co.tileq := rfl
@[simp] theorem Core.setEmpty_tilew (co : Core) (g : Nat) : (co.setEmpty g).tilew = co.tilew := rfl
@[simp] theorem Core.setEmpty_tileEnd (co : Core) (g : Nat) : (co.setEmpty g).tileEnd = co.tileEnd := rfl
@[simp] theorem Core.setEmpty_tileWake (co : Core) (g : Nat) : (co.setEmpty g).tileWake = co.tileWake := rfl
@[simp] theorem Core.setEmpty_copies (co : Core) (g : Nat) : (co.setEmpty g).copies = co.copies := rfl
@[simp] theorem Core.setEmpty_taken (co : Core) (g : Nat) : (co.setEmpty g).taken = co.taken := rfl
@[simp] theorem Core.setEmpty_foreign (co : Core) (g : Nat) : (co.setEmpty g).foreign = co.foreign := rfl
@[simp] theorem Core.setEmpty_copyTurn (co : Core) (g : Nat) : (co.setEmpty g).copyTurn = co.copyTurn := rfl
@[simp] theorem Core.setEmpty_copyAt (co : Core) (g : Nat) : (co.setEmpty g).copyAt = co.copyAt := rfl
@[simp] theorem Core.setEmpty_nextJob (co : Core) (g : Nat) : (co.setEmpty g).nextJob = co.nextJob := rfl
@[simp] theorem Core.setEmpty_ctr (co : Core) (g : Nat) : (co.setEmpty g).ctr = co.ctr := rfl
@[simp] theorem Core.setEmpty_ctrOwner (co : Core) (g : Nat) : (co.setEmpty g).ctrOwner = co.ctrOwner := rfl
@[simp] theorem Core.setEmpty_tb (co : Core) (g : Nat) : (co.setEmpty g).tb = co.tb := rfl
@[simp] theorem Core.setEmpty_memops (co : Core) (g : Nat) : (co.setEmpty g).memops = co.memops := rfl
@[simp] theorem Core.setEmpty_icache (co : Core) (g : Nat) : (co.setEmpty g).icache = co.icache := rfl
@[simp] theorem Core.setEmpty_itlb (co : Core) (g : Nat) : (co.setEmpty g).itlb = co.itlb := rfl
@[simp] theorem Core.setEmpty_dtlb (co : Core) (g : Nat) : (co.setEmpty g).dtlb = co.dtlb := rfl
@[simp] theorem Core.setEmpty_once (co : Core) (g : Nat) : (co.setEmpty g).once = co.once := rfl
@[simp] theorem Core.setEmpty_farReads (co : Core) (g : Nat) : (co.setEmpty g).farReads = co.farReads := rfl
@[simp] theorem Core.setEmpty_peermask (co : Core) (g : Nat) : (co.setEmpty g).peermask = co.peermask := rfl
@[simp] theorem Core.setEmpty_faults (co : Core) (g : Nat) : (co.setEmpty g).faults = co.faults := rfl
@[simp] theorem Core.setEmpty_cookies (co : Core) (g : Nat) : (co.setEmpty g).cookies = co.cookies := rfl
@[simp] theorem Core.setEmpty_saved (co : Core) (g : Nat) : (co.setEmpty g).saved = co.saved := rfl
@[simp] theorem Core.setEmpty_jobs (co : Core) (g : Nat) : (co.setEmpty g).jobs = co.jobs := rfl
@[simp] theorem Core.setEmpty_dbgctl (co : Core) (g : Nat) : (co.setEmpty g).dbgctl = co.dbgctl := rfl
@[simp] theorem Core.setEmpty_bpc (co : Core) (g : Nat) : (co.setEmpty g).bpc = co.bpc := rfl
@[simp] theorem Core.setEmpty_dbgdata (co : Core) (g : Nat) : (co.setEmpty g).dbgdata = co.dbgdata := rfl
@[simp] theorem Core.setEmpty_stepping (co : Core) (g : Nat) : (co.setEmpty g).stepping = co.stepping := rfl
@[simp] theorem Core.setEmpty_trcctl (co : Core) (g : Nat) : (co.setEmpty g).trcctl = co.trcctl := rfl
@[simp] theorem Core.setEmpty_trace (co : Core) (g : Nat) : (co.setEmpty g).trace = co.trace := rfl
@[simp] theorem Core.setEmpty_lossT (co : Core) (g : Nat) : (co.setEmpty g).lossT = co.lossT := rfl
@[simp] theorem Core.setEmpty_lossD (co : Core) (g : Nat) : (co.setEmpty g).lossD = co.lossD := rfl
@[simp] theorem Core.setEmpty_boot (co : Core) (g : Nat) : (co.setEmpty g).boot = co.boot := rfl
@[simp] theorem Core.setEmpty_bootMem (co : Core) (g : Nat) : (co.setEmpty g).bootMem = co.bootMem := rfl
@[simp] theorem Core.setEmpty_rawq (co : Core) (g : Nat) : (co.setEmpty g).rawq = co.rawq := rfl
@[simp] theorem Core.setEmpty_lwcycles (co : Core) (g : Nat) : (co.setEmpty g).lwcycles = co.lwcycles := rfl
@[simp] theorem Core.setEmpty_combine (co : Core) (g : Nat) : (co.setEmpty g).combine = co.combine := rfl
@[simp] theorem Core.setEmpty_capture (co : Core) (g : Nat) : (co.setEmpty g).capture = co.capture := rfl
@[simp] theorem Core.setEmpty_flits (co : Core) (g : Nat) : (co.setEmpty g).flits = co.flits := rfl
@[simp] theorem Core.setEmpty_stalls (co : Core) (g : Nat) : (co.setEmpty g).stalls = co.stalls := rfl
@[simp] theorem Core.setEmpty_eccCount (co : Core) (g : Nat) : (co.setEmpty g).eccCount = co.eccCount := rfl
@[simp] theorem Core.setEmpty_lapses (co : Core) (g : Nat) : (co.setEmpty g).lapses = co.lapses := rfl
@[simp] theorem Core.setEmpty_walks (co : Core) (g : Nat) : (co.setEmpty g).walks = co.walks := rfl
@[simp] theorem Core.setEmpty_replays (co : Core) (g : Nat) : (co.setEmpty g).replays = co.replays := rfl
@[simp] theorem Core.setEmpty_bubbles (co : Core) (g : Nat) : (co.setEmpty g).bubbles = co.bubbles := rfl
@[simp] theorem Core.setEmpty_tileBusy (co : Core) (g : Nat) : (co.setEmpty g).tileBusy = co.tileBusy := rfl
@[simp] theorem Core.setEmpty_wdCount (co : Core) (g : Nat) : (co.setEmpty g).wdCount = co.wdCount := rfl
@[simp] theorem Core.setEmpty_wdFired (co : Core) (g : Nat) : (co.setEmpty g).wdFired = co.wdFired := rfl
@[simp] theorem Core.setEmpty_probes (co : Core) (g : Nat) : (co.setEmpty g).probes = co.probes := rfl
@[simp] theorem Core.setEmpty_reported (co : Core) (g : Nat) : (co.setEmpty g).reported = co.reported := rfl

/-! ### A vector register written -/

@[simp] theorem Proc.setV_x (p : Proc) (r : BitVec 5) (w : VReg) : (p.setV r w).x = p.x := rfl
@[simp] theorem Proc.setV_p (p : Proc) (r : BitVec 5) (w : VReg) : (p.setV r w).p = p.p := rfl
@[simp] theorem Proc.setV_e (p : Proc) (r : BitVec 5) (w : VReg) : (p.setV r w).e = p.e := rfl
@[simp] theorem Proc.setV_z (p : Proc) (r : BitVec 5) (w : VReg) : (p.setV r w).z = p.z := rfl
@[simp] theorem Proc.setV_pc (p : Proc) (r : BitVec 5) (w : VReg) : (p.setV r w).pc = p.pc := rfl
@[simp] theorem Proc.setV_fstat (p : Proc) (r : BitVec 5) (w : VReg) : (p.setV r w).fstat = p.fstat := rfl
@[simp] theorem Proc.setV_rseed (p : Proc) (r : BitVec 5) (w : VReg) : (p.setV r w).rseed = p.rseed := rfl
@[simp] theorem Proc.setV_tpc (p : Proc) (r : BitVec 5) (w : VReg) : (p.setV r w).tpc = p.tpc := rfl
@[simp] theorem Proc.setV_tcause (p : Proc) (r : BitVec 5) (w : VReg) : (p.setV r w).tcause = p.tcause := rfl
@[simp] theorem Proc.setV_tval (p : Proc) (r : BitVec 5) (w : VReg) : (p.setV r w).tval = p.tval := rfl
@[simp] theorem Proc.setV_inh (p : Proc) (r : BitVec 5) (w : VReg) : (p.setV r w).inh = p.inh := rfl
@[simp] theorem Proc.setV_retired (p : Proc) (r : BitVec 5) (w : VReg) : (p.setV r w).retired = p.retired := rfl
@[simp] theorem Proc.setV_uid (p : Proc) (r : BitVec 5) (w : VReg) : (p.setV r w).uid = p.uid := rfl
@[simp] theorem Proc.setV_gen (p : Proc) (r : BitVec 5) (w : VReg) : (p.setV r w).gen = p.gen := rfl
@[simp] theorem Proc.setV_vcore (p : Proc) (r : BitVec 5) (w : VReg) : (p.setV r w).vcore = p.vcore := rfl
@[simp] theorem Proc.setV_prio (p : Proc) (r : BitVec 5) (w : VReg) : (p.setV r w).prio = p.prio := rfl
@[simp] theorem Proc.setV_cmt (p : Proc) (r : BitVec 5) (w : VReg) : (p.setV r w).cmt = p.cmt := rfl
@[simp] theorem Proc.setV_record (p : Proc) (r : BitVec 5) (w : VReg) : (p.setV r w).record = p.record := rfl
@[simp] theorem Proc.setV_header (p : Proc) (r : BitVec 5) (w : VReg) : (p.setV r w).header = p.header := rfl
@[simp] theorem Proc.setV_hdrAddr (p : Proc) (r : BitVec 5) (w : VReg) : (p.setV r w).hdrAddr = p.hdrAddr := rfl
@[simp] theorem Proc.setV_index (p : Proc) (r : BitVec 5) (w : VReg) : (p.setV r w).index = p.index := rfl
@[simp] theorem Proc.setV_wbase (p : Proc) (r : BitVec 5) (w : VReg) : (p.setV r w).wbase = p.wbase := rfl
@[simp] theorem Proc.setV_wsize (p : Proc) (r : BitVec 5) (w : VReg) : (p.setV r w).wsize = p.wsize := rfl
@[simp] theorem Proc.setV_share (p : Proc) (r : BitVec 5) (w : VReg) : (p.setV r w).share = p.share := rfl
@[simp] theorem Proc.setV_ports (p : Proc) (r : BitVec 5) (w : VReg) : (p.setV r w).ports = p.ports := rfl
@[simp] theorem Proc.setV_rings (p : Proc) (r : BitVec 5) (w : VReg) : (p.setV r w).rings = p.rings := rfl
@[simp] theorem Proc.setV_wait (p : Proc) (r : BitVec 5) (w : VReg) : (p.setV r w).wait = p.wait := rfl
@[simp] theorem Proc.setV_answer (p : Proc) (r : BitVec 5) (w : VReg) : (p.setV r w).answer = p.answer := rfl
@[simp] theorem Proc.setV_altEnd (p : Proc) (r : BitVec 5) (w : VReg) : (p.setV r w).altEnd = p.altEnd := rfl
@[simp] theorem Proc.setV_altDead (p : Proc) (r : BitVec 5) (w : VReg) : (p.setV r w).altDead = p.altDead := rfl
@[simp] theorem Proc.setV_altDone (p : Proc) (r : BitVec 5) (w : VReg) : (p.setV r w).altDone = p.altDone := rfl
@[simp] theorem Proc.setV_altKnown (p : Proc) (r : BitVec 5) (w : VReg) : (p.setV r w).altKnown = p.altKnown := rfl
@[simp] theorem Proc.setV_tbPhase (p : Proc) (r : BitVec 5) (w : VReg) : (p.setV r w).tbPhase = p.tbPhase := rfl
@[simp] theorem Proc.setV_sack (p : Proc) (r : BitVec 5) (w : VReg) : (p.setV r w).sack = p.sack := rfl
@[simp] theorem Proc.setV_hostp (p : Proc) (r : BitVec 5) (w : VReg) : (p.setV r w).hostp = p.hostp := rfl
@[simp] theorem Proc.setV_replay (p : Proc) (r : BitVec 5) (w : VReg) : (p.setV r w).replay = p.replay := rfl
@[simp] theorem Proc.setV_drain (p : Proc) (r : BitVec 5) (w : VReg) : (p.setV r w).drain = p.drain := rfl
@[simp] theorem Proc.setV_hfail (p : Proc) (r : BitVec 5) (w : VReg) : (p.setV r w).hfail = p.hfail := rfl
@[simp] theorem Proc.setV_hstatus (p : Proc) (r : BitVec 5) (w : VReg) : (p.setV r w).hstatus = p.hstatus := rfl
@[simp] theorem Proc.setV_hop (p : Proc) (r : BitVec 5) (w : VReg) : (p.setV r w).hop = p.hop := rfl
@[simp] theorem Proc.setV_cfail (p : Proc) (r : BitVec 5) (w : VReg) : (p.setV r w).cfail = p.cfail := rfl
@[simp] theorem Proc.setV_cstatus (p : Proc) (r : BitVec 5) (w : VReg) : (p.setV r w).cstatus = p.cstatus := rfl
@[simp] theorem Proc.setV_draft (p : Proc) (r : BitVec 5) (w : VReg) : (p.setV r w).draft = p.draft := rfl
@[simp] theorem Proc.setV_firing (p : Proc) (r : BitVec 5) (w : VReg) : (p.setV r w).firing = p.firing := rfl
@[simp] theorem Proc.setV_capture (p : Proc) (r : BitVec 5) (w : VReg) : (p.setV r w).capture = p.capture := rfl
@[simp] theorem Proc.setV_bpSkip (p : Proc) (r : BitVec 5) (w : VReg) : (p.setV r w).bpSkip = p.bpSkip := rfl
@[simp] theorem Proc.setV_bpHit (p : Proc) (r : BitVec 5) (w : VReg) : (p.setV r w).bpHit = p.bpHit := rfl
@[simp] theorem Proc.setV_dying (p : Proc) (r : BitVec 5) (w : VReg) : (p.setV r w).dying = p.dying := rfl
@[simp] theorem Proc.setV_diePc (p : Proc) (r : BitVec 5) (w : VReg) : (p.setV r w).diePc = p.diePc := rfl
@[simp] theorem Proc.setV_dieVa (p : Proc) (r : BitVec 5) (w : VReg) : (p.setV r w).dieVa = p.dieVa := rfl
@[simp] theorem Proc.setV_saving (p : Proc) (r : BitVec 5) (w : VReg) : (p.setV r w).saving = p.saving := rfl

/-! ### An e-register written -/

@[simp] theorem Proc.setE_x (p : Proc) (r : BitVec 3) (w : Word) : (p.setE r w).x = p.x := rfl
@[simp] theorem Proc.setE_v (p : Proc) (r : BitVec 3) (w : Word) : (p.setE r w).v = p.v := rfl
@[simp] theorem Proc.setE_p (p : Proc) (r : BitVec 3) (w : Word) : (p.setE r w).p = p.p := rfl
@[simp] theorem Proc.setE_z (p : Proc) (r : BitVec 3) (w : Word) : (p.setE r w).z = p.z := rfl
@[simp] theorem Proc.setE_pc (p : Proc) (r : BitVec 3) (w : Word) : (p.setE r w).pc = p.pc := rfl
@[simp] theorem Proc.setE_fstat (p : Proc) (r : BitVec 3) (w : Word) : (p.setE r w).fstat = p.fstat := rfl
@[simp] theorem Proc.setE_rseed (p : Proc) (r : BitVec 3) (w : Word) : (p.setE r w).rseed = p.rseed := rfl
@[simp] theorem Proc.setE_tpc (p : Proc) (r : BitVec 3) (w : Word) : (p.setE r w).tpc = p.tpc := rfl
@[simp] theorem Proc.setE_tcause (p : Proc) (r : BitVec 3) (w : Word) : (p.setE r w).tcause = p.tcause := rfl
@[simp] theorem Proc.setE_tval (p : Proc) (r : BitVec 3) (w : Word) : (p.setE r w).tval = p.tval := rfl
@[simp] theorem Proc.setE_inh (p : Proc) (r : BitVec 3) (w : Word) : (p.setE r w).inh = p.inh := rfl
@[simp] theorem Proc.setE_retired (p : Proc) (r : BitVec 3) (w : Word) : (p.setE r w).retired = p.retired := rfl
@[simp] theorem Proc.setE_uid (p : Proc) (r : BitVec 3) (w : Word) : (p.setE r w).uid = p.uid := rfl
@[simp] theorem Proc.setE_gen (p : Proc) (r : BitVec 3) (w : Word) : (p.setE r w).gen = p.gen := rfl
@[simp] theorem Proc.setE_vcore (p : Proc) (r : BitVec 3) (w : Word) : (p.setE r w).vcore = p.vcore := rfl
@[simp] theorem Proc.setE_prio (p : Proc) (r : BitVec 3) (w : Word) : (p.setE r w).prio = p.prio := rfl
@[simp] theorem Proc.setE_cmt (p : Proc) (r : BitVec 3) (w : Word) : (p.setE r w).cmt = p.cmt := rfl
@[simp] theorem Proc.setE_record (p : Proc) (r : BitVec 3) (w : Word) : (p.setE r w).record = p.record := rfl
@[simp] theorem Proc.setE_header (p : Proc) (r : BitVec 3) (w : Word) : (p.setE r w).header = p.header := rfl
@[simp] theorem Proc.setE_hdrAddr (p : Proc) (r : BitVec 3) (w : Word) : (p.setE r w).hdrAddr = p.hdrAddr := rfl
@[simp] theorem Proc.setE_index (p : Proc) (r : BitVec 3) (w : Word) : (p.setE r w).index = p.index := rfl
@[simp] theorem Proc.setE_wbase (p : Proc) (r : BitVec 3) (w : Word) : (p.setE r w).wbase = p.wbase := rfl
@[simp] theorem Proc.setE_wsize (p : Proc) (r : BitVec 3) (w : Word) : (p.setE r w).wsize = p.wsize := rfl
@[simp] theorem Proc.setE_share (p : Proc) (r : BitVec 3) (w : Word) : (p.setE r w).share = p.share := rfl
@[simp] theorem Proc.setE_ports (p : Proc) (r : BitVec 3) (w : Word) : (p.setE r w).ports = p.ports := rfl
@[simp] theorem Proc.setE_rings (p : Proc) (r : BitVec 3) (w : Word) : (p.setE r w).rings = p.rings := rfl
@[simp] theorem Proc.setE_wait (p : Proc) (r : BitVec 3) (w : Word) : (p.setE r w).wait = p.wait := rfl
@[simp] theorem Proc.setE_answer (p : Proc) (r : BitVec 3) (w : Word) : (p.setE r w).answer = p.answer := rfl
@[simp] theorem Proc.setE_altEnd (p : Proc) (r : BitVec 3) (w : Word) : (p.setE r w).altEnd = p.altEnd := rfl
@[simp] theorem Proc.setE_altDead (p : Proc) (r : BitVec 3) (w : Word) : (p.setE r w).altDead = p.altDead := rfl
@[simp] theorem Proc.setE_altDone (p : Proc) (r : BitVec 3) (w : Word) : (p.setE r w).altDone = p.altDone := rfl
@[simp] theorem Proc.setE_altKnown (p : Proc) (r : BitVec 3) (w : Word) : (p.setE r w).altKnown = p.altKnown := rfl
@[simp] theorem Proc.setE_tbPhase (p : Proc) (r : BitVec 3) (w : Word) : (p.setE r w).tbPhase = p.tbPhase := rfl
@[simp] theorem Proc.setE_sack (p : Proc) (r : BitVec 3) (w : Word) : (p.setE r w).sack = p.sack := rfl
@[simp] theorem Proc.setE_hostp (p : Proc) (r : BitVec 3) (w : Word) : (p.setE r w).hostp = p.hostp := rfl
@[simp] theorem Proc.setE_replay (p : Proc) (r : BitVec 3) (w : Word) : (p.setE r w).replay = p.replay := rfl
@[simp] theorem Proc.setE_drain (p : Proc) (r : BitVec 3) (w : Word) : (p.setE r w).drain = p.drain := rfl
@[simp] theorem Proc.setE_hfail (p : Proc) (r : BitVec 3) (w : Word) : (p.setE r w).hfail = p.hfail := rfl
@[simp] theorem Proc.setE_hstatus (p : Proc) (r : BitVec 3) (w : Word) : (p.setE r w).hstatus = p.hstatus := rfl
@[simp] theorem Proc.setE_hop (p : Proc) (r : BitVec 3) (w : Word) : (p.setE r w).hop = p.hop := rfl
@[simp] theorem Proc.setE_cfail (p : Proc) (r : BitVec 3) (w : Word) : (p.setE r w).cfail = p.cfail := rfl
@[simp] theorem Proc.setE_cstatus (p : Proc) (r : BitVec 3) (w : Word) : (p.setE r w).cstatus = p.cstatus := rfl
@[simp] theorem Proc.setE_draft (p : Proc) (r : BitVec 3) (w : Word) : (p.setE r w).draft = p.draft := rfl
@[simp] theorem Proc.setE_firing (p : Proc) (r : BitVec 3) (w : Word) : (p.setE r w).firing = p.firing := rfl
@[simp] theorem Proc.setE_capture (p : Proc) (r : BitVec 3) (w : Word) : (p.setE r w).capture = p.capture := rfl
@[simp] theorem Proc.setE_bpSkip (p : Proc) (r : BitVec 3) (w : Word) : (p.setE r w).bpSkip = p.bpSkip := rfl
@[simp] theorem Proc.setE_bpHit (p : Proc) (r : BitVec 3) (w : Word) : (p.setE r w).bpHit = p.bpHit := rfl
@[simp] theorem Proc.setE_dying (p : Proc) (r : BitVec 3) (w : Word) : (p.setE r w).dying = p.dying := rfl
@[simp] theorem Proc.setE_diePc (p : Proc) (r : BitVec 3) (w : Word) : (p.setE r w).diePc = p.diePc := rfl
@[simp] theorem Proc.setE_dieVa (p : Proc) (r : BitVec 3) (w : Word) : (p.setE r w).dieVa = p.dieVa := rfl
@[simp] theorem Proc.setE_saving (p : Proc) (r : BitVec 3) (w : Word) : (p.setE r w).saving = p.saving := rfl

/-! ### A scalar register written -/

@[simp] theorem Proc.setX_v (p : Proc) (r : BitVec 5) (w : Word) : (p.setX r w).v = p.v := by unfold Proc.setX; split <;> rfl
@[simp] theorem Proc.setX_p (p : Proc) (r : BitVec 5) (w : Word) : (p.setX r w).p = p.p := by unfold Proc.setX; split <;> rfl
@[simp] theorem Proc.setX_e (p : Proc) (r : BitVec 5) (w : Word) : (p.setX r w).e = p.e := by unfold Proc.setX; split <;> rfl
@[simp] theorem Proc.setX_z (p : Proc) (r : BitVec 5) (w : Word) : (p.setX r w).z = p.z := by unfold Proc.setX; split <;> rfl
@[simp] theorem Proc.setX_pc (p : Proc) (r : BitVec 5) (w : Word) : (p.setX r w).pc = p.pc := by unfold Proc.setX; split <;> rfl
@[simp] theorem Proc.setX_fstat (p : Proc) (r : BitVec 5) (w : Word) : (p.setX r w).fstat = p.fstat := by unfold Proc.setX; split <;> rfl
@[simp] theorem Proc.setX_rseed (p : Proc) (r : BitVec 5) (w : Word) : (p.setX r w).rseed = p.rseed := by unfold Proc.setX; split <;> rfl
@[simp] theorem Proc.setX_tpc (p : Proc) (r : BitVec 5) (w : Word) : (p.setX r w).tpc = p.tpc := by unfold Proc.setX; split <;> rfl
@[simp] theorem Proc.setX_tcause (p : Proc) (r : BitVec 5) (w : Word) : (p.setX r w).tcause = p.tcause := by unfold Proc.setX; split <;> rfl
@[simp] theorem Proc.setX_tval (p : Proc) (r : BitVec 5) (w : Word) : (p.setX r w).tval = p.tval := by unfold Proc.setX; split <;> rfl
@[simp] theorem Proc.setX_inh (p : Proc) (r : BitVec 5) (w : Word) : (p.setX r w).inh = p.inh := by unfold Proc.setX; split <;> rfl
@[simp] theorem Proc.setX_retired (p : Proc) (r : BitVec 5) (w : Word) : (p.setX r w).retired = p.retired := by unfold Proc.setX; split <;> rfl
@[simp] theorem Proc.setX_uid (p : Proc) (r : BitVec 5) (w : Word) : (p.setX r w).uid = p.uid := by unfold Proc.setX; split <;> rfl
@[simp] theorem Proc.setX_gen (p : Proc) (r : BitVec 5) (w : Word) : (p.setX r w).gen = p.gen := by unfold Proc.setX; split <;> rfl
@[simp] theorem Proc.setX_vcore (p : Proc) (r : BitVec 5) (w : Word) : (p.setX r w).vcore = p.vcore := by unfold Proc.setX; split <;> rfl
@[simp] theorem Proc.setX_prio (p : Proc) (r : BitVec 5) (w : Word) : (p.setX r w).prio = p.prio := by unfold Proc.setX; split <;> rfl
@[simp] theorem Proc.setX_cmt (p : Proc) (r : BitVec 5) (w : Word) : (p.setX r w).cmt = p.cmt := by unfold Proc.setX; split <;> rfl
@[simp] theorem Proc.setX_record (p : Proc) (r : BitVec 5) (w : Word) : (p.setX r w).record = p.record := by unfold Proc.setX; split <;> rfl
@[simp] theorem Proc.setX_header (p : Proc) (r : BitVec 5) (w : Word) : (p.setX r w).header = p.header := by unfold Proc.setX; split <;> rfl
@[simp] theorem Proc.setX_hdrAddr (p : Proc) (r : BitVec 5) (w : Word) : (p.setX r w).hdrAddr = p.hdrAddr := by unfold Proc.setX; split <;> rfl
@[simp] theorem Proc.setX_index (p : Proc) (r : BitVec 5) (w : Word) : (p.setX r w).index = p.index := by unfold Proc.setX; split <;> rfl
@[simp] theorem Proc.setX_wbase (p : Proc) (r : BitVec 5) (w : Word) : (p.setX r w).wbase = p.wbase := by unfold Proc.setX; split <;> rfl
@[simp] theorem Proc.setX_wsize (p : Proc) (r : BitVec 5) (w : Word) : (p.setX r w).wsize = p.wsize := by unfold Proc.setX; split <;> rfl
@[simp] theorem Proc.setX_share (p : Proc) (r : BitVec 5) (w : Word) : (p.setX r w).share = p.share := by unfold Proc.setX; split <;> rfl
@[simp] theorem Proc.setX_ports (p : Proc) (r : BitVec 5) (w : Word) : (p.setX r w).ports = p.ports := by unfold Proc.setX; split <;> rfl
@[simp] theorem Proc.setX_rings (p : Proc) (r : BitVec 5) (w : Word) : (p.setX r w).rings = p.rings := by unfold Proc.setX; split <;> rfl
@[simp] theorem Proc.setX_wait (p : Proc) (r : BitVec 5) (w : Word) : (p.setX r w).wait = p.wait := by unfold Proc.setX; split <;> rfl
@[simp] theorem Proc.setX_answer (p : Proc) (r : BitVec 5) (w : Word) : (p.setX r w).answer = p.answer := by unfold Proc.setX; split <;> rfl
@[simp] theorem Proc.setX_altEnd (p : Proc) (r : BitVec 5) (w : Word) : (p.setX r w).altEnd = p.altEnd := by unfold Proc.setX; split <;> rfl
@[simp] theorem Proc.setX_altDead (p : Proc) (r : BitVec 5) (w : Word) : (p.setX r w).altDead = p.altDead := by unfold Proc.setX; split <;> rfl
@[simp] theorem Proc.setX_altDone (p : Proc) (r : BitVec 5) (w : Word) : (p.setX r w).altDone = p.altDone := by unfold Proc.setX; split <;> rfl
@[simp] theorem Proc.setX_altKnown (p : Proc) (r : BitVec 5) (w : Word) : (p.setX r w).altKnown = p.altKnown := by unfold Proc.setX; split <;> rfl
@[simp] theorem Proc.setX_tbPhase (p : Proc) (r : BitVec 5) (w : Word) : (p.setX r w).tbPhase = p.tbPhase := by unfold Proc.setX; split <;> rfl
@[simp] theorem Proc.setX_sack (p : Proc) (r : BitVec 5) (w : Word) : (p.setX r w).sack = p.sack := by unfold Proc.setX; split <;> rfl
@[simp] theorem Proc.setX_hostp (p : Proc) (r : BitVec 5) (w : Word) : (p.setX r w).hostp = p.hostp := by unfold Proc.setX; split <;> rfl
@[simp] theorem Proc.setX_replay (p : Proc) (r : BitVec 5) (w : Word) : (p.setX r w).replay = p.replay := by unfold Proc.setX; split <;> rfl
@[simp] theorem Proc.setX_drain (p : Proc) (r : BitVec 5) (w : Word) : (p.setX r w).drain = p.drain := by unfold Proc.setX; split <;> rfl
@[simp] theorem Proc.setX_hfail (p : Proc) (r : BitVec 5) (w : Word) : (p.setX r w).hfail = p.hfail := by unfold Proc.setX; split <;> rfl
@[simp] theorem Proc.setX_hstatus (p : Proc) (r : BitVec 5) (w : Word) : (p.setX r w).hstatus = p.hstatus := by unfold Proc.setX; split <;> rfl
@[simp] theorem Proc.setX_hop (p : Proc) (r : BitVec 5) (w : Word) : (p.setX r w).hop = p.hop := by unfold Proc.setX; split <;> rfl
@[simp] theorem Proc.setX_cfail (p : Proc) (r : BitVec 5) (w : Word) : (p.setX r w).cfail = p.cfail := by unfold Proc.setX; split <;> rfl
@[simp] theorem Proc.setX_cstatus (p : Proc) (r : BitVec 5) (w : Word) : (p.setX r w).cstatus = p.cstatus := by unfold Proc.setX; split <;> rfl
@[simp] theorem Proc.setX_draft (p : Proc) (r : BitVec 5) (w : Word) : (p.setX r w).draft = p.draft := by unfold Proc.setX; split <;> rfl
@[simp] theorem Proc.setX_firing (p : Proc) (r : BitVec 5) (w : Word) : (p.setX r w).firing = p.firing := by unfold Proc.setX; split <;> rfl
@[simp] theorem Proc.setX_capture (p : Proc) (r : BitVec 5) (w : Word) : (p.setX r w).capture = p.capture := by unfold Proc.setX; split <;> rfl
@[simp] theorem Proc.setX_bpSkip (p : Proc) (r : BitVec 5) (w : Word) : (p.setX r w).bpSkip = p.bpSkip := by unfold Proc.setX; split <;> rfl
@[simp] theorem Proc.setX_bpHit (p : Proc) (r : BitVec 5) (w : Word) : (p.setX r w).bpHit = p.bpHit := by unfold Proc.setX; split <;> rfl
@[simp] theorem Proc.setX_dying (p : Proc) (r : BitVec 5) (w : Word) : (p.setX r w).dying = p.dying := by unfold Proc.setX; split <;> rfl
@[simp] theorem Proc.setX_diePc (p : Proc) (r : BitVec 5) (w : Word) : (p.setX r w).diePc = p.diePc := by unfold Proc.setX; split <;> rfl
@[simp] theorem Proc.setX_dieVa (p : Proc) (r : BitVec 5) (w : Word) : (p.setX r w).dieVa = p.dieVa := by unfold Proc.setX; split <;> rfl
@[simp] theorem Proc.setX_saving (p : Proc) (r : BitVec 5) (w : Word) : (p.setX r w).saving = p.saving := by unfold Proc.setX; split <;> rfl

/-! ### A predicate written -/

@[simp] theorem Proc.setP_x (p : Proc) (r : BitVec 3) (w : Half) : (p.setP r w).x = p.x := by unfold Proc.setP; split <;> rfl
@[simp] theorem Proc.setP_v (p : Proc) (r : BitVec 3) (w : Half) : (p.setP r w).v = p.v := by unfold Proc.setP; split <;> rfl
@[simp] theorem Proc.setP_e (p : Proc) (r : BitVec 3) (w : Half) : (p.setP r w).e = p.e := by unfold Proc.setP; split <;> rfl
@[simp] theorem Proc.setP_z (p : Proc) (r : BitVec 3) (w : Half) : (p.setP r w).z = p.z := by unfold Proc.setP; split <;> rfl
@[simp] theorem Proc.setP_pc (p : Proc) (r : BitVec 3) (w : Half) : (p.setP r w).pc = p.pc := by unfold Proc.setP; split <;> rfl
@[simp] theorem Proc.setP_fstat (p : Proc) (r : BitVec 3) (w : Half) : (p.setP r w).fstat = p.fstat := by unfold Proc.setP; split <;> rfl
@[simp] theorem Proc.setP_rseed (p : Proc) (r : BitVec 3) (w : Half) : (p.setP r w).rseed = p.rseed := by unfold Proc.setP; split <;> rfl
@[simp] theorem Proc.setP_tpc (p : Proc) (r : BitVec 3) (w : Half) : (p.setP r w).tpc = p.tpc := by unfold Proc.setP; split <;> rfl
@[simp] theorem Proc.setP_tcause (p : Proc) (r : BitVec 3) (w : Half) : (p.setP r w).tcause = p.tcause := by unfold Proc.setP; split <;> rfl
@[simp] theorem Proc.setP_tval (p : Proc) (r : BitVec 3) (w : Half) : (p.setP r w).tval = p.tval := by unfold Proc.setP; split <;> rfl
@[simp] theorem Proc.setP_inh (p : Proc) (r : BitVec 3) (w : Half) : (p.setP r w).inh = p.inh := by unfold Proc.setP; split <;> rfl
@[simp] theorem Proc.setP_retired (p : Proc) (r : BitVec 3) (w : Half) : (p.setP r w).retired = p.retired := by unfold Proc.setP; split <;> rfl
@[simp] theorem Proc.setP_uid (p : Proc) (r : BitVec 3) (w : Half) : (p.setP r w).uid = p.uid := by unfold Proc.setP; split <;> rfl
@[simp] theorem Proc.setP_gen (p : Proc) (r : BitVec 3) (w : Half) : (p.setP r w).gen = p.gen := by unfold Proc.setP; split <;> rfl
@[simp] theorem Proc.setP_vcore (p : Proc) (r : BitVec 3) (w : Half) : (p.setP r w).vcore = p.vcore := by unfold Proc.setP; split <;> rfl
@[simp] theorem Proc.setP_prio (p : Proc) (r : BitVec 3) (w : Half) : (p.setP r w).prio = p.prio := by unfold Proc.setP; split <;> rfl
@[simp] theorem Proc.setP_cmt (p : Proc) (r : BitVec 3) (w : Half) : (p.setP r w).cmt = p.cmt := by unfold Proc.setP; split <;> rfl
@[simp] theorem Proc.setP_record (p : Proc) (r : BitVec 3) (w : Half) : (p.setP r w).record = p.record := by unfold Proc.setP; split <;> rfl
@[simp] theorem Proc.setP_header (p : Proc) (r : BitVec 3) (w : Half) : (p.setP r w).header = p.header := by unfold Proc.setP; split <;> rfl
@[simp] theorem Proc.setP_hdrAddr (p : Proc) (r : BitVec 3) (w : Half) : (p.setP r w).hdrAddr = p.hdrAddr := by unfold Proc.setP; split <;> rfl
@[simp] theorem Proc.setP_index (p : Proc) (r : BitVec 3) (w : Half) : (p.setP r w).index = p.index := by unfold Proc.setP; split <;> rfl
@[simp] theorem Proc.setP_wbase (p : Proc) (r : BitVec 3) (w : Half) : (p.setP r w).wbase = p.wbase := by unfold Proc.setP; split <;> rfl
@[simp] theorem Proc.setP_wsize (p : Proc) (r : BitVec 3) (w : Half) : (p.setP r w).wsize = p.wsize := by unfold Proc.setP; split <;> rfl
@[simp] theorem Proc.setP_share (p : Proc) (r : BitVec 3) (w : Half) : (p.setP r w).share = p.share := by unfold Proc.setP; split <;> rfl
@[simp] theorem Proc.setP_ports (p : Proc) (r : BitVec 3) (w : Half) : (p.setP r w).ports = p.ports := by unfold Proc.setP; split <;> rfl
@[simp] theorem Proc.setP_rings (p : Proc) (r : BitVec 3) (w : Half) : (p.setP r w).rings = p.rings := by unfold Proc.setP; split <;> rfl
@[simp] theorem Proc.setP_wait (p : Proc) (r : BitVec 3) (w : Half) : (p.setP r w).wait = p.wait := by unfold Proc.setP; split <;> rfl
@[simp] theorem Proc.setP_answer (p : Proc) (r : BitVec 3) (w : Half) : (p.setP r w).answer = p.answer := by unfold Proc.setP; split <;> rfl
@[simp] theorem Proc.setP_altEnd (p : Proc) (r : BitVec 3) (w : Half) : (p.setP r w).altEnd = p.altEnd := by unfold Proc.setP; split <;> rfl
@[simp] theorem Proc.setP_altDead (p : Proc) (r : BitVec 3) (w : Half) : (p.setP r w).altDead = p.altDead := by unfold Proc.setP; split <;> rfl
@[simp] theorem Proc.setP_altDone (p : Proc) (r : BitVec 3) (w : Half) : (p.setP r w).altDone = p.altDone := by unfold Proc.setP; split <;> rfl
@[simp] theorem Proc.setP_altKnown (p : Proc) (r : BitVec 3) (w : Half) : (p.setP r w).altKnown = p.altKnown := by unfold Proc.setP; split <;> rfl
@[simp] theorem Proc.setP_tbPhase (p : Proc) (r : BitVec 3) (w : Half) : (p.setP r w).tbPhase = p.tbPhase := by unfold Proc.setP; split <;> rfl
@[simp] theorem Proc.setP_sack (p : Proc) (r : BitVec 3) (w : Half) : (p.setP r w).sack = p.sack := by unfold Proc.setP; split <;> rfl
@[simp] theorem Proc.setP_hostp (p : Proc) (r : BitVec 3) (w : Half) : (p.setP r w).hostp = p.hostp := by unfold Proc.setP; split <;> rfl
@[simp] theorem Proc.setP_replay (p : Proc) (r : BitVec 3) (w : Half) : (p.setP r w).replay = p.replay := by unfold Proc.setP; split <;> rfl
@[simp] theorem Proc.setP_drain (p : Proc) (r : BitVec 3) (w : Half) : (p.setP r w).drain = p.drain := by unfold Proc.setP; split <;> rfl
@[simp] theorem Proc.setP_hfail (p : Proc) (r : BitVec 3) (w : Half) : (p.setP r w).hfail = p.hfail := by unfold Proc.setP; split <;> rfl
@[simp] theorem Proc.setP_hstatus (p : Proc) (r : BitVec 3) (w : Half) : (p.setP r w).hstatus = p.hstatus := by unfold Proc.setP; split <;> rfl
@[simp] theorem Proc.setP_hop (p : Proc) (r : BitVec 3) (w : Half) : (p.setP r w).hop = p.hop := by unfold Proc.setP; split <;> rfl
@[simp] theorem Proc.setP_cfail (p : Proc) (r : BitVec 3) (w : Half) : (p.setP r w).cfail = p.cfail := by unfold Proc.setP; split <;> rfl
@[simp] theorem Proc.setP_cstatus (p : Proc) (r : BitVec 3) (w : Half) : (p.setP r w).cstatus = p.cstatus := by unfold Proc.setP; split <;> rfl
@[simp] theorem Proc.setP_draft (p : Proc) (r : BitVec 3) (w : Half) : (p.setP r w).draft = p.draft := by unfold Proc.setP; split <;> rfl
@[simp] theorem Proc.setP_firing (p : Proc) (r : BitVec 3) (w : Half) : (p.setP r w).firing = p.firing := by unfold Proc.setP; split <;> rfl
@[simp] theorem Proc.setP_capture (p : Proc) (r : BitVec 3) (w : Half) : (p.setP r w).capture = p.capture := by unfold Proc.setP; split <;> rfl
@[simp] theorem Proc.setP_bpSkip (p : Proc) (r : BitVec 3) (w : Half) : (p.setP r w).bpSkip = p.bpSkip := by unfold Proc.setP; split <;> rfl
@[simp] theorem Proc.setP_bpHit (p : Proc) (r : BitVec 3) (w : Half) : (p.setP r w).bpHit = p.bpHit := by unfold Proc.setP; split <;> rfl
@[simp] theorem Proc.setP_dying (p : Proc) (r : BitVec 3) (w : Half) : (p.setP r w).dying = p.dying := by unfold Proc.setP; split <;> rfl
@[simp] theorem Proc.setP_diePc (p : Proc) (r : BitVec 3) (w : Half) : (p.setP r w).diePc = p.diePc := by unfold Proc.setP; split <;> rfl
@[simp] theorem Proc.setP_dieVa (p : Proc) (r : BitVec 3) (w : Half) : (p.setP r w).dieVa = p.dieVa := by unfold Proc.setP; split <;> rfl
@[simp] theorem Proc.setP_saving (p : Proc) (r : BitVec 3) (w : Half) : (p.setP r w).saving = p.saving := by unfold Proc.setP; split <;> rfl

/-! ### An event counted -/

@[simp] theorem Proc.count_x (p : Proc) (now ev n : Nat) : (p.count now ev n).x = p.x := by unfold Proc.count; split <;> (try split) <;> rfl
@[simp] theorem Proc.count_v (p : Proc) (now ev n : Nat) : (p.count now ev n).v = p.v := by unfold Proc.count; split <;> (try split) <;> rfl
@[simp] theorem Proc.count_p (p : Proc) (now ev n : Nat) : (p.count now ev n).p = p.p := by unfold Proc.count; split <;> (try split) <;> rfl
@[simp] theorem Proc.count_e (p : Proc) (now ev n : Nat) : (p.count now ev n).e = p.e := by unfold Proc.count; split <;> (try split) <;> rfl
@[simp] theorem Proc.count_z (p : Proc) (now ev n : Nat) : (p.count now ev n).z = p.z := by unfold Proc.count; split <;> (try split) <;> rfl
@[simp] theorem Proc.count_pc (p : Proc) (now ev n : Nat) : (p.count now ev n).pc = p.pc := by unfold Proc.count; split <;> (try split) <;> rfl
@[simp] theorem Proc.count_fstat (p : Proc) (now ev n : Nat) : (p.count now ev n).fstat = p.fstat := by unfold Proc.count; split <;> (try split) <;> rfl
@[simp] theorem Proc.count_rseed (p : Proc) (now ev n : Nat) : (p.count now ev n).rseed = p.rseed := by unfold Proc.count; split <;> (try split) <;> rfl
@[simp] theorem Proc.count_tpc (p : Proc) (now ev n : Nat) : (p.count now ev n).tpc = p.tpc := by unfold Proc.count; split <;> (try split) <;> rfl
@[simp] theorem Proc.count_tcause (p : Proc) (now ev n : Nat) : (p.count now ev n).tcause = p.tcause := by unfold Proc.count; split <;> (try split) <;> rfl
@[simp] theorem Proc.count_tval (p : Proc) (now ev n : Nat) : (p.count now ev n).tval = p.tval := by unfold Proc.count; split <;> (try split) <;> rfl
@[simp] theorem Proc.count_inh (p : Proc) (now ev n : Nat) : (p.count now ev n).inh = p.inh := by unfold Proc.count; split <;> (try split) <;> rfl
@[simp] theorem Proc.count_retired (p : Proc) (now ev n : Nat) : (p.count now ev n).retired = p.retired := by unfold Proc.count; split <;> (try split) <;> rfl
@[simp] theorem Proc.count_uid (p : Proc) (now ev n : Nat) : (p.count now ev n).uid = p.uid := by unfold Proc.count; split <;> (try split) <;> rfl
@[simp] theorem Proc.count_gen (p : Proc) (now ev n : Nat) : (p.count now ev n).gen = p.gen := by unfold Proc.count; split <;> (try split) <;> rfl
@[simp] theorem Proc.count_vcore (p : Proc) (now ev n : Nat) : (p.count now ev n).vcore = p.vcore := by unfold Proc.count; split <;> (try split) <;> rfl
@[simp] theorem Proc.count_prio (p : Proc) (now ev n : Nat) : (p.count now ev n).prio = p.prio := by unfold Proc.count; split <;> (try split) <;> rfl
@[simp] theorem Proc.count_cmt (p : Proc) (now ev n : Nat) : (p.count now ev n).cmt = p.cmt := by unfold Proc.count; split <;> (try split) <;> rfl
@[simp] theorem Proc.count_record (p : Proc) (now ev n : Nat) : (p.count now ev n).record = p.record := by unfold Proc.count; split <;> (try split) <;> rfl
@[simp] theorem Proc.count_header (p : Proc) (now ev n : Nat) : (p.count now ev n).header = p.header := by unfold Proc.count; split <;> (try split) <;> rfl
@[simp] theorem Proc.count_hdrAddr (p : Proc) (now ev n : Nat) : (p.count now ev n).hdrAddr = p.hdrAddr := by unfold Proc.count; split <;> (try split) <;> rfl
@[simp] theorem Proc.count_index (p : Proc) (now ev n : Nat) : (p.count now ev n).index = p.index := by unfold Proc.count; split <;> (try split) <;> rfl
@[simp] theorem Proc.count_wbase (p : Proc) (now ev n : Nat) : (p.count now ev n).wbase = p.wbase := by unfold Proc.count; split <;> (try split) <;> rfl
@[simp] theorem Proc.count_wsize (p : Proc) (now ev n : Nat) : (p.count now ev n).wsize = p.wsize := by unfold Proc.count; split <;> (try split) <;> rfl
@[simp] theorem Proc.count_share (p : Proc) (now ev n : Nat) : (p.count now ev n).share = p.share := by unfold Proc.count; split <;> (try split) <;> rfl
@[simp] theorem Proc.count_ports (p : Proc) (now ev n : Nat) : (p.count now ev n).ports = p.ports := by unfold Proc.count; split <;> (try split) <;> rfl
@[simp] theorem Proc.count_rings (p : Proc) (now ev n : Nat) : (p.count now ev n).rings = p.rings := by unfold Proc.count; split <;> (try split) <;> rfl
@[simp] theorem Proc.count_wait (p : Proc) (now ev n : Nat) : (p.count now ev n).wait = p.wait := by unfold Proc.count; split <;> (try split) <;> rfl
@[simp] theorem Proc.count_answer (p : Proc) (now ev n : Nat) : (p.count now ev n).answer = p.answer := by unfold Proc.count; split <;> (try split) <;> rfl
@[simp] theorem Proc.count_altEnd (p : Proc) (now ev n : Nat) : (p.count now ev n).altEnd = p.altEnd := by unfold Proc.count; split <;> (try split) <;> rfl
@[simp] theorem Proc.count_altDead (p : Proc) (now ev n : Nat) : (p.count now ev n).altDead = p.altDead := by unfold Proc.count; split <;> (try split) <;> rfl
@[simp] theorem Proc.count_altDone (p : Proc) (now ev n : Nat) : (p.count now ev n).altDone = p.altDone := by unfold Proc.count; split <;> (try split) <;> rfl
@[simp] theorem Proc.count_altKnown (p : Proc) (now ev n : Nat) : (p.count now ev n).altKnown = p.altKnown := by unfold Proc.count; split <;> (try split) <;> rfl
@[simp] theorem Proc.count_tbPhase (p : Proc) (now ev n : Nat) : (p.count now ev n).tbPhase = p.tbPhase := by unfold Proc.count; split <;> (try split) <;> rfl
@[simp] theorem Proc.count_sack (p : Proc) (now ev n : Nat) : (p.count now ev n).sack = p.sack := by unfold Proc.count; split <;> (try split) <;> rfl
@[simp] theorem Proc.count_hostp (p : Proc) (now ev n : Nat) : (p.count now ev n).hostp = p.hostp := by unfold Proc.count; split <;> (try split) <;> rfl
@[simp] theorem Proc.count_replay (p : Proc) (now ev n : Nat) : (p.count now ev n).replay = p.replay := by unfold Proc.count; split <;> (try split) <;> rfl
@[simp] theorem Proc.count_drain (p : Proc) (now ev n : Nat) : (p.count now ev n).drain = p.drain := by unfold Proc.count; split <;> (try split) <;> rfl
@[simp] theorem Proc.count_hfail (p : Proc) (now ev n : Nat) : (p.count now ev n).hfail = p.hfail := by unfold Proc.count; split <;> (try split) <;> rfl
@[simp] theorem Proc.count_hstatus (p : Proc) (now ev n : Nat) : (p.count now ev n).hstatus = p.hstatus := by unfold Proc.count; split <;> (try split) <;> rfl
@[simp] theorem Proc.count_hop (p : Proc) (now ev n : Nat) : (p.count now ev n).hop = p.hop := by unfold Proc.count; split <;> (try split) <;> rfl
@[simp] theorem Proc.count_cfail (p : Proc) (now ev n : Nat) : (p.count now ev n).cfail = p.cfail := by unfold Proc.count; split <;> (try split) <;> rfl
@[simp] theorem Proc.count_cstatus (p : Proc) (now ev n : Nat) : (p.count now ev n).cstatus = p.cstatus := by unfold Proc.count; split <;> (try split) <;> rfl
@[simp] theorem Proc.count_draft (p : Proc) (now ev n : Nat) : (p.count now ev n).draft = p.draft := by unfold Proc.count; split <;> (try split) <;> rfl
@[simp] theorem Proc.count_firing (p : Proc) (now ev n : Nat) : (p.count now ev n).firing = p.firing := by unfold Proc.count; split <;> (try split) <;> rfl
@[simp] theorem Proc.count_bpSkip (p : Proc) (now ev n : Nat) : (p.count now ev n).bpSkip = p.bpSkip := by unfold Proc.count; split <;> (try split) <;> rfl
@[simp] theorem Proc.count_bpHit (p : Proc) (now ev n : Nat) : (p.count now ev n).bpHit = p.bpHit := by unfold Proc.count; split <;> (try split) <;> rfl
@[simp] theorem Proc.count_dying (p : Proc) (now ev n : Nat) : (p.count now ev n).dying = p.dying := by unfold Proc.count; split <;> (try split) <;> rfl
@[simp] theorem Proc.count_diePc (p : Proc) (now ev n : Nat) : (p.count now ev n).diePc = p.diePc := by unfold Proc.count; split <;> (try split) <;> rfl
@[simp] theorem Proc.count_dieVa (p : Proc) (now ev n : Nat) : (p.count now ev n).dieVa = p.dieVa := by unfold Proc.count; split <;> (try split) <;> rfl
@[simp] theorem Proc.count_saving (p : Proc) (now ev n : Nat) : (p.count now ev n).saving = p.saving := by unfold Proc.count; split <;> (try split) <;> rfl

/-! ### A retirement counted -/

@[simp] theorem Proc.counted_x (p : Proc) (now : Nat) (i : Instr) : (p.counted now i).x = p.x := by unfold Proc.counted; split <;> split <;> simp
@[simp] theorem Proc.counted_v (p : Proc) (now : Nat) (i : Instr) : (p.counted now i).v = p.v := by unfold Proc.counted; split <;> split <;> simp
@[simp] theorem Proc.counted_p (p : Proc) (now : Nat) (i : Instr) : (p.counted now i).p = p.p := by unfold Proc.counted; split <;> split <;> simp
@[simp] theorem Proc.counted_e (p : Proc) (now : Nat) (i : Instr) : (p.counted now i).e = p.e := by unfold Proc.counted; split <;> split <;> simp
@[simp] theorem Proc.counted_z (p : Proc) (now : Nat) (i : Instr) : (p.counted now i).z = p.z := by unfold Proc.counted; split <;> split <;> simp
@[simp] theorem Proc.counted_pc (p : Proc) (now : Nat) (i : Instr) : (p.counted now i).pc = p.pc := by unfold Proc.counted; split <;> split <;> simp
@[simp] theorem Proc.counted_fstat (p : Proc) (now : Nat) (i : Instr) : (p.counted now i).fstat = p.fstat := by unfold Proc.counted; split <;> split <;> simp
@[simp] theorem Proc.counted_rseed (p : Proc) (now : Nat) (i : Instr) : (p.counted now i).rseed = p.rseed := by unfold Proc.counted; split <;> split <;> simp
@[simp] theorem Proc.counted_tpc (p : Proc) (now : Nat) (i : Instr) : (p.counted now i).tpc = p.tpc := by unfold Proc.counted; split <;> split <;> simp
@[simp] theorem Proc.counted_tcause (p : Proc) (now : Nat) (i : Instr) : (p.counted now i).tcause = p.tcause := by unfold Proc.counted; split <;> split <;> simp
@[simp] theorem Proc.counted_tval (p : Proc) (now : Nat) (i : Instr) : (p.counted now i).tval = p.tval := by unfold Proc.counted; split <;> split <;> simp
@[simp] theorem Proc.counted_inh (p : Proc) (now : Nat) (i : Instr) : (p.counted now i).inh = p.inh := by unfold Proc.counted; split <;> split <;> simp
@[simp] theorem Proc.counted_retired (p : Proc) (now : Nat) (i : Instr) : (p.counted now i).retired = p.retired := by unfold Proc.counted; split <;> split <;> simp
@[simp] theorem Proc.counted_uid (p : Proc) (now : Nat) (i : Instr) : (p.counted now i).uid = p.uid := by unfold Proc.counted; split <;> split <;> simp
@[simp] theorem Proc.counted_gen (p : Proc) (now : Nat) (i : Instr) : (p.counted now i).gen = p.gen := by unfold Proc.counted; split <;> split <;> simp
@[simp] theorem Proc.counted_vcore (p : Proc) (now : Nat) (i : Instr) : (p.counted now i).vcore = p.vcore := by unfold Proc.counted; split <;> split <;> simp
@[simp] theorem Proc.counted_prio (p : Proc) (now : Nat) (i : Instr) : (p.counted now i).prio = p.prio := by unfold Proc.counted; split <;> split <;> simp
@[simp] theorem Proc.counted_cmt (p : Proc) (now : Nat) (i : Instr) : (p.counted now i).cmt = p.cmt := by unfold Proc.counted; split <;> split <;> simp
@[simp] theorem Proc.counted_record (p : Proc) (now : Nat) (i : Instr) : (p.counted now i).record = p.record := by unfold Proc.counted; split <;> split <;> simp
@[simp] theorem Proc.counted_header (p : Proc) (now : Nat) (i : Instr) : (p.counted now i).header = p.header := by unfold Proc.counted; split <;> split <;> simp
@[simp] theorem Proc.counted_hdrAddr (p : Proc) (now : Nat) (i : Instr) : (p.counted now i).hdrAddr = p.hdrAddr := by unfold Proc.counted; split <;> split <;> simp
@[simp] theorem Proc.counted_index (p : Proc) (now : Nat) (i : Instr) : (p.counted now i).index = p.index := by unfold Proc.counted; split <;> split <;> simp
@[simp] theorem Proc.counted_wbase (p : Proc) (now : Nat) (i : Instr) : (p.counted now i).wbase = p.wbase := by unfold Proc.counted; split <;> split <;> simp
@[simp] theorem Proc.counted_wsize (p : Proc) (now : Nat) (i : Instr) : (p.counted now i).wsize = p.wsize := by unfold Proc.counted; split <;> split <;> simp
@[simp] theorem Proc.counted_share (p : Proc) (now : Nat) (i : Instr) : (p.counted now i).share = p.share := by unfold Proc.counted; split <;> split <;> simp
@[simp] theorem Proc.counted_ports (p : Proc) (now : Nat) (i : Instr) : (p.counted now i).ports = p.ports := by unfold Proc.counted; split <;> split <;> simp
@[simp] theorem Proc.counted_rings (p : Proc) (now : Nat) (i : Instr) : (p.counted now i).rings = p.rings := by unfold Proc.counted; split <;> split <;> simp
@[simp] theorem Proc.counted_wait (p : Proc) (now : Nat) (i : Instr) : (p.counted now i).wait = p.wait := by unfold Proc.counted; split <;> split <;> simp
@[simp] theorem Proc.counted_answer (p : Proc) (now : Nat) (i : Instr) : (p.counted now i).answer = p.answer := by unfold Proc.counted; split <;> split <;> simp
@[simp] theorem Proc.counted_altEnd (p : Proc) (now : Nat) (i : Instr) : (p.counted now i).altEnd = p.altEnd := by unfold Proc.counted; split <;> split <;> simp
@[simp] theorem Proc.counted_altDead (p : Proc) (now : Nat) (i : Instr) : (p.counted now i).altDead = p.altDead := by unfold Proc.counted; split <;> split <;> simp
@[simp] theorem Proc.counted_altDone (p : Proc) (now : Nat) (i : Instr) : (p.counted now i).altDone = p.altDone := by unfold Proc.counted; split <;> split <;> simp
@[simp] theorem Proc.counted_altKnown (p : Proc) (now : Nat) (i : Instr) : (p.counted now i).altKnown = p.altKnown := by unfold Proc.counted; split <;> split <;> simp
@[simp] theorem Proc.counted_tbPhase (p : Proc) (now : Nat) (i : Instr) : (p.counted now i).tbPhase = p.tbPhase := by unfold Proc.counted; split <;> split <;> simp
@[simp] theorem Proc.counted_sack (p : Proc) (now : Nat) (i : Instr) : (p.counted now i).sack = p.sack := by unfold Proc.counted; split <;> split <;> simp
@[simp] theorem Proc.counted_hostp (p : Proc) (now : Nat) (i : Instr) : (p.counted now i).hostp = p.hostp := by unfold Proc.counted; split <;> split <;> simp
@[simp] theorem Proc.counted_replay (p : Proc) (now : Nat) (i : Instr) : (p.counted now i).replay = p.replay := by unfold Proc.counted; split <;> split <;> simp
@[simp] theorem Proc.counted_drain (p : Proc) (now : Nat) (i : Instr) : (p.counted now i).drain = p.drain := by unfold Proc.counted; split <;> split <;> simp
@[simp] theorem Proc.counted_hfail (p : Proc) (now : Nat) (i : Instr) : (p.counted now i).hfail = p.hfail := by unfold Proc.counted; split <;> split <;> simp
@[simp] theorem Proc.counted_hstatus (p : Proc) (now : Nat) (i : Instr) : (p.counted now i).hstatus = p.hstatus := by unfold Proc.counted; split <;> split <;> simp
@[simp] theorem Proc.counted_hop (p : Proc) (now : Nat) (i : Instr) : (p.counted now i).hop = p.hop := by unfold Proc.counted; split <;> split <;> simp
@[simp] theorem Proc.counted_cfail (p : Proc) (now : Nat) (i : Instr) : (p.counted now i).cfail = p.cfail := by unfold Proc.counted; split <;> split <;> simp
@[simp] theorem Proc.counted_cstatus (p : Proc) (now : Nat) (i : Instr) : (p.counted now i).cstatus = p.cstatus := by unfold Proc.counted; split <;> split <;> simp
@[simp] theorem Proc.counted_draft (p : Proc) (now : Nat) (i : Instr) : (p.counted now i).draft = p.draft := by unfold Proc.counted; split <;> split <;> simp
@[simp] theorem Proc.counted_firing (p : Proc) (now : Nat) (i : Instr) : (p.counted now i).firing = p.firing := by unfold Proc.counted; split <;> split <;> simp
@[simp] theorem Proc.counted_bpSkip (p : Proc) (now : Nat) (i : Instr) : (p.counted now i).bpSkip = p.bpSkip := by unfold Proc.counted; split <;> split <;> simp
@[simp] theorem Proc.counted_bpHit (p : Proc) (now : Nat) (i : Instr) : (p.counted now i).bpHit = p.bpHit := by unfold Proc.counted; split <;> split <;> simp
@[simp] theorem Proc.counted_dying (p : Proc) (now : Nat) (i : Instr) : (p.counted now i).dying = p.dying := by unfold Proc.counted; split <;> split <;> simp
@[simp] theorem Proc.counted_diePc (p : Proc) (now : Nat) (i : Instr) : (p.counted now i).diePc = p.diePc := by unfold Proc.counted; split <;> split <;> simp
@[simp] theorem Proc.counted_dieVa (p : Proc) (now : Nat) (i : Instr) : (p.counted now i).dieVa = p.dieVa := by unfold Proc.counted; split <;> split <;> simp
@[simp] theorem Proc.counted_saving (p : Proc) (now : Nat) (i : Instr) : (p.counted now i).saving = p.saving := by unfold Proc.counted; split <;> split <;> simp

/-! ### A retirement -/

@[simp] theorem Proc.retire_x (p : Proc) (now : Nat) (i : Instr) (pc : Word) : (p.retire now i pc).x = p.x := by simp [Proc.retire]
@[simp] theorem Proc.retire_v (p : Proc) (now : Nat) (i : Instr) (pc : Word) : (p.retire now i pc).v = p.v := by simp [Proc.retire]
@[simp] theorem Proc.retire_p (p : Proc) (now : Nat) (i : Instr) (pc : Word) : (p.retire now i pc).p = p.p := by simp [Proc.retire]
@[simp] theorem Proc.retire_e (p : Proc) (now : Nat) (i : Instr) (pc : Word) : (p.retire now i pc).e = p.e := by simp [Proc.retire]
@[simp] theorem Proc.retire_z (p : Proc) (now : Nat) (i : Instr) (pc : Word) : (p.retire now i pc).z = p.z := by simp [Proc.retire]
@[simp] theorem Proc.retire_fstat (p : Proc) (now : Nat) (i : Instr) (pc : Word) : (p.retire now i pc).fstat = p.fstat := by simp [Proc.retire]
@[simp] theorem Proc.retire_rseed (p : Proc) (now : Nat) (i : Instr) (pc : Word) : (p.retire now i pc).rseed = p.rseed := by simp [Proc.retire]
@[simp] theorem Proc.retire_tpc (p : Proc) (now : Nat) (i : Instr) (pc : Word) : (p.retire now i pc).tpc = p.tpc := by simp [Proc.retire]
@[simp] theorem Proc.retire_tcause (p : Proc) (now : Nat) (i : Instr) (pc : Word) : (p.retire now i pc).tcause = p.tcause := by simp [Proc.retire]
@[simp] theorem Proc.retire_tval (p : Proc) (now : Nat) (i : Instr) (pc : Word) : (p.retire now i pc).tval = p.tval := by simp [Proc.retire]
@[simp] theorem Proc.retire_inh (p : Proc) (now : Nat) (i : Instr) (pc : Word) : (p.retire now i pc).inh = p.inh := by simp [Proc.retire]
@[simp] theorem Proc.retire_uid (p : Proc) (now : Nat) (i : Instr) (pc : Word) : (p.retire now i pc).uid = p.uid := by simp [Proc.retire]
@[simp] theorem Proc.retire_gen (p : Proc) (now : Nat) (i : Instr) (pc : Word) : (p.retire now i pc).gen = p.gen := by simp [Proc.retire]
@[simp] theorem Proc.retire_vcore (p : Proc) (now : Nat) (i : Instr) (pc : Word) : (p.retire now i pc).vcore = p.vcore := by simp [Proc.retire]
@[simp] theorem Proc.retire_prio (p : Proc) (now : Nat) (i : Instr) (pc : Word) : (p.retire now i pc).prio = p.prio := by simp [Proc.retire]
@[simp] theorem Proc.retire_cmt (p : Proc) (now : Nat) (i : Instr) (pc : Word) : (p.retire now i pc).cmt = p.cmt := by simp [Proc.retire]
@[simp] theorem Proc.retire_record (p : Proc) (now : Nat) (i : Instr) (pc : Word) : (p.retire now i pc).record = p.record := by simp [Proc.retire]
@[simp] theorem Proc.retire_header (p : Proc) (now : Nat) (i : Instr) (pc : Word) : (p.retire now i pc).header = p.header := by simp [Proc.retire]
@[simp] theorem Proc.retire_hdrAddr (p : Proc) (now : Nat) (i : Instr) (pc : Word) : (p.retire now i pc).hdrAddr = p.hdrAddr := by simp [Proc.retire]
@[simp] theorem Proc.retire_index (p : Proc) (now : Nat) (i : Instr) (pc : Word) : (p.retire now i pc).index = p.index := by simp [Proc.retire]
@[simp] theorem Proc.retire_wbase (p : Proc) (now : Nat) (i : Instr) (pc : Word) : (p.retire now i pc).wbase = p.wbase := by simp [Proc.retire]
@[simp] theorem Proc.retire_wsize (p : Proc) (now : Nat) (i : Instr) (pc : Word) : (p.retire now i pc).wsize = p.wsize := by simp [Proc.retire]
@[simp] theorem Proc.retire_share (p : Proc) (now : Nat) (i : Instr) (pc : Word) : (p.retire now i pc).share = p.share := by simp [Proc.retire]
@[simp] theorem Proc.retire_ports (p : Proc) (now : Nat) (i : Instr) (pc : Word) : (p.retire now i pc).ports = p.ports := by simp [Proc.retire]
@[simp] theorem Proc.retire_rings (p : Proc) (now : Nat) (i : Instr) (pc : Word) : (p.retire now i pc).rings = p.rings := by simp [Proc.retire]
@[simp] theorem Proc.retire_sack (p : Proc) (now : Nat) (i : Instr) (pc : Word) : (p.retire now i pc).sack = p.sack := by simp [Proc.retire]
@[simp] theorem Proc.retire_hostp (p : Proc) (now : Nat) (i : Instr) (pc : Word) : (p.retire now i pc).hostp = p.hostp := by simp [Proc.retire]
@[simp] theorem Proc.retire_replay (p : Proc) (now : Nat) (i : Instr) (pc : Word) : (p.retire now i pc).replay = p.replay := by simp [Proc.retire]
@[simp] theorem Proc.retire_drain (p : Proc) (now : Nat) (i : Instr) (pc : Word) : (p.retire now i pc).drain = p.drain := by simp [Proc.retire]
@[simp] theorem Proc.retire_hfail (p : Proc) (now : Nat) (i : Instr) (pc : Word) : (p.retire now i pc).hfail = p.hfail := by simp [Proc.retire]
@[simp] theorem Proc.retire_hstatus (p : Proc) (now : Nat) (i : Instr) (pc : Word) : (p.retire now i pc).hstatus = p.hstatus := by simp [Proc.retire]
@[simp] theorem Proc.retire_hop (p : Proc) (now : Nat) (i : Instr) (pc : Word) : (p.retire now i pc).hop = p.hop := by simp [Proc.retire]
@[simp] theorem Proc.retire_cfail (p : Proc) (now : Nat) (i : Instr) (pc : Word) : (p.retire now i pc).cfail = p.cfail := by simp [Proc.retire]
@[simp] theorem Proc.retire_cstatus (p : Proc) (now : Nat) (i : Instr) (pc : Word) : (p.retire now i pc).cstatus = p.cstatus := by simp [Proc.retire]
@[simp] theorem Proc.retire_draft (p : Proc) (now : Nat) (i : Instr) (pc : Word) : (p.retire now i pc).draft = p.draft := by simp [Proc.retire]
@[simp] theorem Proc.retire_firing (p : Proc) (now : Nat) (i : Instr) (pc : Word) : (p.retire now i pc).firing = p.firing := by simp [Proc.retire]
@[simp] theorem Proc.retire_bpHit (p : Proc) (now : Nat) (i : Instr) (pc : Word) : (p.retire now i pc).bpHit = p.bpHit := by simp [Proc.retire]
@[simp] theorem Proc.retire_dying (p : Proc) (now : Nat) (i : Instr) (pc : Word) : (p.retire now i pc).dying = p.dying := by simp [Proc.retire]
@[simp] theorem Proc.retire_diePc (p : Proc) (now : Nat) (i : Instr) (pc : Word) : (p.retire now i pc).diePc = p.diePc := by simp [Proc.retire]
@[simp] theorem Proc.retire_dieVa (p : Proc) (now : Nat) (i : Instr) (pc : Word) : (p.retire now i pc).dieVa = p.dieVa := by simp [Proc.retire]
@[simp] theorem Proc.retire_saving (p : Proc) (now : Nat) (i : Instr) (pc : Word) : (p.retire now i pc).saving = p.saving := by simp [Proc.retire]

@[simp] theorem Proc.retire_pc (p : Proc) (now : Nat) (i : Instr) (pc : Word) : (p.retire now i pc).pc = pc := rfl
@[simp] theorem Proc.retire_retired (p : Proc) (now : Nat) (i : Instr) (pc : Word) : (p.retire now i pc).retired = p.retired + 1 := rfl
@[simp] theorem Proc.retire_wait (p : Proc) (now : Nat) (i : Instr) (pc : Word) : (p.retire now i pc).wait = none := rfl

end Sys2Proof.Machine
end

