-- ==== Sys2Proof/Laws/Ops.lean ====
section
/-! SUPPORT. Sys2Proof/Laws/Ops.lean: the shared operations once each: registers, cores and slots read after a write, and what an
instruction of an executing slot does. -/

namespace Sys2Proof.Machine

/-! ### Registers (R10) -/

@[simp] theorem Proc.xr_zero (p : Proc) : p.xr 0 = 0 := rfl

@[simp] theorem Proc.xr_setX_same (p : Proc) (r : BitVec 5) (w : Word) (h : r ≠ 0) : (p.setX r w).xr r = w := by
  have h' : ¬(r == 0) = true := by simpa using h
  unfold Proc.xr Proc.setX
  rw [if_neg h', if_neg h']
  simp

theorem Proc.xr_setX_other (p : Proc) (r q : BitVec 5) (w : Word) (h : q ≠ r) : (p.setX r w).xr q = p.xr q := by
  have hne : r.toNat ≠ q.toNat := fun e => h (BitVec.eq_of_toNat_eq e.symm)
  unfold Proc.xr Proc.setX
  split
  · rfl
  · split <;> simp [hne]

@[simp] theorem Proc.vr_setV_same (p : Proc) (r : BitVec 5) (w : VReg) : (p.setV r w).vr r = w := by
  simp [Proc.vr, Proc.setV]

theorem Proc.vr_setV_other (p : Proc) (r q : BitVec 5) (w : VReg) (h : q ≠ r) : (p.setV r w).vr q = p.vr q := by
  have : r.toNat ≠ q.toNat := fun e => h (BitVec.eq_of_toNat_eq e.symm)
  simp [Proc.vr, Proc.setV, this]

@[simp] theorem Proc.pr_zero (p : Proc) : p.pr 0 = 0xFFFFFFFF := rfl

@[simp] theorem Proc.pr_setP_same (p : Proc) (r : BitVec 3) (w : Half) (h : r ≠ 0) : (p.setP r w).pr r = w := by
  have h' : ¬(r == 0) = true := by simpa using h
  unfold Proc.pr Proc.setP
  rw [if_neg h', if_neg h']
  simp

theorem Proc.pr_setP_other (p : Proc) (r q : BitVec 3) (w : Half) (h : q ≠ r) : (p.setP r w).pr q = p.pr q := by
  have hne : r.toNat ≠ q.toNat := fun e => h (BitVec.eq_of_toNat_eq e.symm)
  unfold Proc.pr Proc.setP
  split
  · rfl
  · split <;> simp [hne]

@[simp] theorem Proc.er_setE_same (p : Proc) (r : BitVec 3) (w : Word) : (p.setE r w).er r = w := by
  simp [Proc.er, Proc.setE]

theorem Proc.er_setE_other (p : Proc) (r q : BitVec 3) (w : Word) (h : q ≠ r) : (p.setE r w).er q = p.er q := by
  have : r.toNat ≠ q.toNat := fun e => h (BitVec.eq_of_toNat_eq e.symm)
  simp [Proc.er, Proc.setE, this]

@[simp] theorem Proc.xr_setV (p : Proc) (r : BitVec 5) (w : VReg) (q : BitVec 5) : (p.setV r w).xr q = p.xr q := rfl
@[simp] theorem Proc.xr_setE (p : Proc) (r : BitVec 3) (w : Word) (q : BitVec 5) : (p.setE r w).xr q = p.xr q := rfl
@[simp] theorem Proc.xr_setP (p : Proc) (r : BitVec 3) (w : Half) (q : BitVec 5) : (p.setP r w).xr q = p.xr q := by
  simp [Proc.xr]
@[simp] theorem Proc.vr_setX (p : Proc) (r : BitVec 5) (w : Word) (q : BitVec 5) : (p.setX r w).vr q = p.vr q := by simp [Proc.vr]
@[simp] theorem Proc.vr_setP (p : Proc) (r : BitVec 3) (w : Half) (q : BitVec 5) : (p.setP r w).vr q = p.vr q := by simp [Proc.vr]
@[simp] theorem Proc.vr_setE (p : Proc) (r : BitVec 3) (w : Word) (q : BitVec 5) : (p.setE r w).vr q = p.vr q := rfl
@[simp] theorem Proc.pr_setX (p : Proc) (r : BitVec 5) (w : Word) (q : BitVec 3) : (p.setX r w).pr q = p.pr q := by simp [Proc.pr]
@[simp] theorem Proc.pr_setV (p : Proc) (r : BitVec 5) (w : VReg) (q : BitVec 3) : (p.setV r w).pr q = p.pr q := rfl
@[simp] theorem Proc.pr_setE (p : Proc) (r : BitVec 3) (w : Word) (q : BitVec 3) : (p.setE r w).pr q = p.pr q := rfl
@[simp] theorem Proc.er_setX (p : Proc) (r : BitVec 5) (w : Word) (q : BitVec 3) : (p.setX r w).er q = p.er q := by simp [Proc.er]
@[simp] theorem Proc.er_setV (p : Proc) (r : BitVec 5) (w : VReg) (q : BitVec 3) : (p.setV r w).er q = p.er q := rfl
@[simp] theorem Proc.er_setP (p : Proc) (r : BitVec 3) (w : Half) (q : BitVec 3) : (p.setP r w).er q = p.er q := by simp [Proc.er]

@[simp] theorem Proc.xr_retire (p : Proc) (now : Nat) (i : Instr) (pc : Word) (r : BitVec 5) : (p.retire now i pc).xr r = p.xr r := by
  simp [Proc.xr]
@[simp] theorem Proc.vr_retire (p : Proc) (now : Nat) (i : Instr) (pc : Word) (r : BitVec 5) : (p.retire now i pc).vr r = p.vr r := by
  simp [Proc.vr]
@[simp] theorem Proc.pr_retire (p : Proc) (now : Nat) (i : Instr) (pc : Word) (r : BitVec 3) : (p.retire now i pc).pr r = p.pr r := by
  simp [Proc.pr]
@[simp] theorem Proc.er_retire (p : Proc) (now : Nat) (i : Instr) (pc : Word) (r : BitVec 3) : (p.retire now i pc).er r = p.er r := by
  simp [Proc.er]

/-! ### Cores, slots and processes -/

theorem kset_kset {α : Type} (m : KMap α) (i : Nat) (v w : α) : kset (kset m i v) i w = kset m i w := by
  induction m with
  | nil => simp [kset]
  | cons e m ih =>
    obtain ⟨j, u⟩ := e
    by_cases h1 : i < j
    · simp [kset, h1]
    · by_cases h2 : j = i
      · simp [kset, h2]
      · simp [kset, h1, h2, ih]

@[simp] theorem State.core_setCore_same (s : State) (c : Nat) (co : Core) : (s.setCore c co).core c = co := by
  simp [State.core, State.setCore, kget_kset]

theorem State.core_setCore_other (s : State) (c d : Nat) (co : Core) (h : d ≠ c) : (s.setCore c co).core d = s.core d := by
  simp [State.core, State.setCore, kget_kset, h]

@[simp] theorem State.setCore_setCore (s : State) (c : Nat) (co co' : Core) : (s.setCore c co).setCore c co' = s.setCore c co' := by
  simp [State.setCore, kset_kset]

theorem Core.slot_setSlot_same (co : Core) (k : Nat) (sl : Slot) (h : k < 16) : (co.setSlot k sl).slot k = sl := by
  simp [Core.slot, Core.setSlot, h]

theorem Core.slot_setSlot_other (co : Core) (k j : Nat) (sl : Slot) (h : j ≠ k) : (co.setSlot k sl).slot j = co.slot j := by
  unfold Core.slot Core.setSlot
  by_cases hj : j < 16
  · simp [hj, Ne.symm h]
  · simp [hj]

@[simp] theorem Core.setSlot_setSlot (co : Core) (k : Nat) (a b : Slot) : (co.setSlot k a).setSlot k b = co.setSlot k b := by
  unfold Core.setSlot
  congr 1
  ext i hi
  simp only [Vector.getElem_setIfInBounds]
  split <;> rfl

/-- A process is in one of the sixteen slots. -/
theorem State.proc_slot_lt {s : State} {c k : Nat} {p : Proc} (h : s.proc c k = some p) : k < 16 := by
  unfold State.proc State.slot Core.slot at h
  by_cases hk : k < 16
  · exact hk
  · rw [show (s.core c).slots[k]? = none by simp; omega] at h
    simp [Slot.reset] at h

theorem State.proc_setProc_same (s : State) (c k : Nat) (q : Proc) (h : k < 16) : (s.setProc c k q).proc c k = some q := by
  simp [State.proc, State.slot, State.setProc, State.setSlot, State.modCore, Core.slot_setSlot_same _ _ _ h]

@[simp] theorem State.setProc_setProc (s : State) (c k : Nat) (q r : Proc) (h : k < 16) :
    (s.setProc c k q).setProc c k r = s.setProc c k r := by
  simp [State.setProc, State.setSlot, State.modCore, State.slot, Core.slot_setSlot_same _ _ _ h]

theorem State.core_setProc_other (s : State) (c k d : Nat) (q : Proc) (h : d ≠ c) : (s.setProc c k q).core d = s.core d := by
  simp [State.setProc, State.setSlot, State.modCore, State.core_setCore_other _ _ _ _ h]

/-! ### How an instruction takes effect (R30, R40) -/

/-- An instruction that passes its checks under a true guard does what its body says. -/
theorem instr_run {s : State} {c k : Nat} {p : Proc} (h : Issuing s c k p) (i : Instr) (check : Nat → Proc → Check)
    (body : State → Nat → Nat → Proc → Act) (legal : (check c p).legal = true)
    (priv : (check c p).priv = true → p.priv = true) (uses : p.Holds (check c p).uses) (guard : (check c p).guard = true) :
    instr i s check body = .next ((body s c k p).apply s c k p i) := by
  have hp : ¬((check c p).priv && !p.priv) = true := by
    cases hc : (check c p).priv <;> simp_all
  unfold instr
  simp only [h.cur, h.proc, legal, Bool.not_true, Bool.false_eq_true, if_false, hp, guard, h.free]
  rw [show p.offending (check c p).uses = [] from uses]
  cases body s c k p <;> rfl

/-- A false guard only retires (R40). -/
theorem instr_idle {s : State} {c k : Nat} {p : Proc} (h : Issuing s c k p) (i : Instr) (check : Nat → Proc → Check)
    (body : State → Nat → Nat → Proc → Act) (legal : (check c p).legal = true)
    (priv : (check c p).priv = true → p.priv = true) (uses : p.Holds (check c p).uses) (guard : (check c p).guard = false) :
    instr i s check body = .next (s.retireAt c k i) := by
  have hp : ¬((check c p).priv && !p.priv) = true := by
    cases hc : (check c p).priv <;> simp_all
  unfold instr
  simp only [h.cur, h.proc, legal, Bool.not_true, Bool.false_eq_true, if_false, hp, guard, h.free]
  rw [show p.offending (check c p).uses = [] from uses]
  rfl

/-- A retirement after the process was written is a retirement of the written process. -/
theorem retireAt_setProc (s : State) (c k : Nat) (q : Proc) (i : Instr) (h : k < 16) :
    (s.setProc c k q).retireAt c k i = s.retireTo c k q i (q.pc + instrLen i) := by
  unfold State.retireAt
  rw [State.proc_setProc_same _ _ _ _ h]
  show State.retireTo (s.setProc c k q) c k q i _ = _
  unfold State.retireTo
  rw [State.setProc_setProc _ _ _ _ _ h]
  rfl

/-- An instruction that only changes its own process's registers retires with them. -/
theorem regInstr_run {s : State} {c k : Nat} {p : Proc} (h : Issuing s c k p) (i : Instr) (uses : List Use) (guard : Proc → Bool)
    (f : Proc → Proc) (hu : p.Holds uses) (hg : guard p = true) :
    regInstr i s uses guard f = .next (s.retireTo c k (f p) i ((f p).pc + instrLen i)) := by
  unfold regInstr
  rw [instr_run h _ _ _ rfl (by simp) hu hg]
  exact congrArg _ (retireAt_setProc s c k (f p) i (State.proc_slot_lt h.proc))

/-- An instruction that executes does what its body says. -/
theorem instr_executes {s : State} {c k : Nat} {p : Proc} {us : List Use} {g : Bool} (h : Executes s c k p us g) (i : Instr)
    (check : Nat → Proc → Check) (body : State → Nat → Nat → Proc → Act) (hc : check c p = { uses := us, guard := g }) :
    instr i s check body = .next ((body s c k p).apply s c k p i) :=
  instr_run h.toIssuing i check body (by rw [hc]) (by rw [hc]; exact fun e => nomatch e) (by rw [hc]; exact h.holds)
    (by rw [hc]; exact h.true)

/-- `retireAt` retires the process that the slot holds. -/
theorem State.retireAt_eq {s : State} {c k : Nat} {p : Proc} (h : s.proc c k = some p) (i : Instr) :
    s.retireAt c k i = s.retireTo c k p i (p.pc + instrLen i) := by
  simp [State.retireAt, h]

/-! ### Packets -/

@[simp] theorem State.core_drop (s : State) (n c : Nat) : (s.drop n).core c = s.core c := rfl
@[simp] theorem State.proc_drop (s : State) (n c k : Nat) : (s.drop n).proc c k = s.proc c k := rfl
@[simp] theorem State.waitOf_drop (s : State) (n c u : Nat) : (s.drop n).waitOf c u = s.waitOf c u := rfl

/-- What a packet that has come does. -/
theorem State.onPacket_arrived {s : State} {n : Nat} {pk : Packet} (h : Arrived s n pk) (f : State → Packet → Option State) :
    s.onPacket n f = (f (s.drop n) pk).getD s := by
  simp [State.onPacket, h.here, h.live]

@[inherit_doc State.onPacket_arrived]
theorem State.onPacketOut_arrived {s : State} {n : Nat} {pk : Packet} (h : Arrived s n pk) (f : State → Packet → Option Out) :
    s.onPacketOut n f = (f (s.drop n) pk).getD (.next s) := by
  simp [State.onPacketOut, h.here, h.live]

/-! ### What a retirement changes -/

/-- The core after a retirement. -/
theorem State.core_retireTo (s : State) (c k : Nat) (q : Proc) (i : Instr) (pc : Word) :
    (s.retireTo c k q i pc).core c = { ((s.core c).setSlot k { s.slot c k with proc := some (q.retire s.now i pc) }).dropWaitsOf q.uid with
      issued := s.now + 1 } := by
  simp [State.retireTo, State.setProc, State.setSlot, State.modCore, State.slot]

theorem State.slot_retireTo (s : State) (c k j : Nat) (q : Proc) (i : Instr) (pc : Word) :
    (s.retireTo c k q i pc).slot c j = ((s.core c).setSlot k { s.slot c k with proc := some (q.retire s.now i pc) }).slot j := by
  rw [State.slot, State.core_retireTo]
  rfl

theorem State.proc_retireTo (s : State) (c k : Nat) (q : Proc) (i : Instr) (pc : Word) (h : k < 16) :
    (s.retireTo c k q i pc).proc c k = some (q.retire s.now i pc) := by
  rw [State.proc, State.slot_retireTo, Core.slot_setSlot_same _ _ _ h]

theorem State.retireTo_elsewhere (s : State) (c k : Nat) (q : Proc) (i : Instr) (pc : Word) :
    s.SameElsewhere (s.retireTo c k q i pc) c k q.uid := by
  refine ⟨fun d hd => ?_, fun j hj => ?_, ?_, ?_, rfl⟩
  · simp [State.retireTo, State.modCore, State.core_setCore_other _ _ _ _ hd, State.core_setProc_other _ _ _ _ _ hd]
  · rw [State.slot_retireTo, Core.slot_setSlot_other _ _ _ _ hj, State.slot]
  · rw [State.core_retireTo]
    rfl
  · rw [State.core_retireTo]
    rfl

theorem State.retireTo_memory (s : State) (c k : Nat) (q : Proc) (i : Instr) (pc : Word) :
    s.SameMemory (s.retireTo c k q i pc) := by
  refine ⟨fun ap a => rfl, fun d a => ?_, fun d a => ?_⟩ <;>
  · by_cases hd : d = c
    · subst hd
      rw [State.core_retireTo]
      rfl
    · rw [(State.retireTo_elsewhere s c k q i pc).others d hd]

/-- Retiring with a process that keeps all but `ds` has the frame of `ds`. -/
theorem State.retireTo_frame (s : State) (c k : Nat) (p q : Proc) (i : Instr) (pc : Word) (ds : List Reg) (h : k < 16)
    (hk : p.Keeps (q.retire s.now i pc) ds) : Frame s (s.retireTo c k q i pc) c k p ds :=
  ⟨State.retireTo_memory s c k q i pc, (show q.uid = p.uid from (Proc.retire_uid q s.now i pc).symm.trans hk.own.1) ▸ State.retireTo_elsewhere s c k q i pc, _, State.proc_retireTo s c k q i pc h, hk⟩

/-! ### The end of a wait -/

theorem Waits.waitOf {s : State} {c k : Nat} {p : Proc} {i : Instr} {w : WaitKind} (h : Waits s c k p i w) :
    s.waitOf c p.uid = some w := by
  simp [State.waitOf, h.found, h.wait]

/-- A wait that ends with a written process retires it, and its slot rejoins the rotation. -/
theorem State.resume_go {s : State} {c k : Nat} {p q : Proc} {i : Instr} {w : WaitKind} (h : Waits s c k p i w)
    (f : State → Nat → Proc → Instr → Act) (hf : f s k p i = .go (s.setProc c k q)) (hu : (q.counted s.now i).uid = p.uid)
    (hd : (q.counted s.now i).dying = 0) :
    s.resume c p.uid f = (s.retireTo c k q i (q.pc + instrLen i)).rejoin c k := by
  have hk := State.proc_slot_lt h.proc
  unfold State.resume
  simp only [h.slot, h.proc, h.wait, hf, Act.apply, retireAt_setProc _ _ _ _ _ hk, State.proc_retireTo _ _ _ _ _ _ hk]
  have hr : (q.retire s.now i (q.pc + instrLen i)).uid = p.uid := hu
  have hw : (q.retire s.now i (q.pc + instrLen i)).wait = none := rfl
  have hy : (q.retire s.now i (q.pc + instrLen i)).dying = 0 := hd
  simp only [hr, hw]
  simp only [bne_self_eq_false, Option.isSome_none, Bool.or_self, Bool.false_eq_true, if_false, State.stopProc, hy]
  rfl

end Sys2Proof.Machine
end

