-- ==== Sys2Proof/Laws/PerInstr.lean ====
section
/-! SUPPORT. Sys2Proof/Laws/PerInstr.lean: the law of instruction lengths (R36), one lemma per constructor: an encoded
instruction has 16 or 32 bits, its word fits them, and bit 0 of the word is set exactly in a word of 32 bits. An event has no
word. -/

namespace Sys2Proof.Laws.Encodes

set_option Elab.async false

/-- What R36 says of the word of an instruction. -/
def Statement (i : Instr) : Prop :=
  ∀ n w, encodeWord i = some (n, w) → (n = 16 ∨ n = 32) ∧ w < 2 ^ n ∧ (w % 2 = 1 ↔ n = 32)

/-- A constructor without a word satisfies the statement. -/
theorem of_none {i : Instr} (h : encodeWord i = none) : Statement i := by
  intro n w hw
  rw [h] at hw
  exact absurd hw (by simp)

/-- A constructor of 32 bits satisfies the statement when its word fits and is odd. -/
theorem of_wide {i : Instr} {w : Nat} (h : encodeWord i = some (32, w)) (fits : w < 4294967296) (odd : w % 2 = 1) :
    Statement i := by
  intro n' w' h'
  rw [h, Option.some.injEq, Prod.mk.injEq] at h'
  obtain ⟨rfl, rfl⟩ := h'
  exact ⟨.inr rfl, fits, by simp [odd]⟩

/-- A compact constructor satisfies the statement when its word fits and is even. -/
theorem of_compact {i : Instr} {w : Nat} (h : encodeWord i = some (16, w)) (fits : w < 65536) (even : w % 2 = 0) :
    Statement i := by
  intro n' w' h'
  rw [h, Option.some.injEq, Prod.mk.injEq] at h'
  obtain ⟨rfl, rfl⟩ := h'
  exact ⟨.inl rfl, fits, by simp [even]⟩

theorem add (g : BitVec 4) (b : BitVec 5) (a : BitVec 5) (d : BitVec 5) : Statement (.add g b a d) := by
  refine of_wide rfl ?_ ?_
  have h_g := g.isLt
  have h_b := b.isLt
  have h_a := a.isLt
  have h_d := d.isLt
  all_goals simp only [packed]; omega
theorem sub (g : BitVec 4) (b : BitVec 5) (a : BitVec 5) (d : BitVec 5) : Statement (.sub g b a d) := by
  refine of_wide rfl ?_ ?_
  have h_g := g.isLt
  have h_b := b.isLt
  have h_a := a.isLt
  have h_d := d.isLt
  all_goals simp only [packed]; omega
theorem mul (g : BitVec 4) (b : BitVec 5) (a : BitVec 5) (d : BitVec 5) : Statement (.mul g b a d) := by
  refine of_wide rfl ?_ ?_
  have h_g := g.isLt
  have h_b := b.isLt
  have h_a := a.isLt
  have h_d := d.isLt
  all_goals simp only [packed]; omega
theorem mulh (g : BitVec 4) (u : BitVec 1) (b : BitVec 5) (a : BitVec 5) (d : BitVec 5) : Statement (.mulh g u b a d) := by
  refine of_wide rfl ?_ ?_
  have h_g := g.isLt
  have h_u := u.isLt
  have h_b := b.isLt
  have h_a := a.isLt
  have h_d := d.isLt
  all_goals simp only [packed]; omega
theorem div (g : BitVec 4) (u : BitVec 1) (b : BitVec 5) (a : BitVec 5) (d : BitVec 5) : Statement (.div g u b a d) := by
  refine of_wide rfl ?_ ?_
  have h_g := g.isLt
  have h_u := u.isLt
  have h_b := b.isLt
  have h_a := a.isLt
  have h_d := d.isLt
  all_goals simp only [packed]; omega
theorem rem (g : BitVec 4) (u : BitVec 1) (b : BitVec 5) (a : BitVec 5) (d : BitVec 5) : Statement (.rem g u b a d) := by
  refine of_wide rfl ?_ ?_
  have h_g := g.isLt
  have h_u := u.isLt
  have h_b := b.isLt
  have h_a := a.isLt
  have h_d := d.isLt
  all_goals simp only [packed]; omega
theorem and (g : BitVec 4) (b : BitVec 5) (a : BitVec 5) (d : BitVec 5) : Statement (.and g b a d) := by
  refine of_wide rfl ?_ ?_
  have h_g := g.isLt
  have h_b := b.isLt
  have h_a := a.isLt
  have h_d := d.isLt
  all_goals simp only [packed]; omega
theorem or (g : BitVec 4) (b : BitVec 5) (a : BitVec 5) (d : BitVec 5) : Statement (.or g b a d) := by
  refine of_wide rfl ?_ ?_
  have h_g := g.isLt
  have h_b := b.isLt
  have h_a := a.isLt
  have h_d := d.isLt
  all_goals simp only [packed]; omega
theorem xor (g : BitVec 4) (b : BitVec 5) (a : BitVec 5) (d : BitVec 5) : Statement (.xor g b a d) := by
  refine of_wide rfl ?_ ?_
  have h_g := g.isLt
  have h_b := b.isLt
  have h_a := a.isLt
  have h_d := d.isLt
  all_goals simp only [packed]; omega
theorem shl (g : BitVec 4) (b : BitVec 5) (a : BitVec 5) (d : BitVec 5) : Statement (.shl g b a d) := by
  refine of_wide rfl ?_ ?_
  have h_g := g.isLt
  have h_b := b.isLt
  have h_a := a.isLt
  have h_d := d.isLt
  all_goals simp only [packed]; omega
theorem shr (g : BitVec 4) (b : BitVec 5) (a : BitVec 5) (d : BitVec 5) : Statement (.shr g b a d) := by
  refine of_wide rfl ?_ ?_
  have h_g := g.isLt
  have h_b := b.isLt
  have h_a := a.isLt
  have h_d := d.isLt
  all_goals simp only [packed]; omega
theorem sha (g : BitVec 4) (b : BitVec 5) (a : BitVec 5) (d : BitVec 5) : Statement (.sha g b a d) := by
  refine of_wide rfl ?_ ?_
  have h_g := g.isLt
  have h_b := b.isLt
  have h_a := a.isLt
  have h_d := d.isLt
  all_goals simp only [packed]; omega
theorem rotl (g : BitVec 4) (b : BitVec 5) (a : BitVec 5) (d : BitVec 5) : Statement (.rotl g b a d) := by
  refine of_wide rfl ?_ ?_
  have h_g := g.isLt
  have h_b := b.isLt
  have h_a := a.isLt
  have h_d := d.isLt
  all_goals simp only [packed]; omega
theorem min (g : BitVec 4) (u : BitVec 1) (b : BitVec 5) (a : BitVec 5) (d : BitVec 5) : Statement (.min g u b a d) := by
  refine of_wide rfl ?_ ?_
  have h_g := g.isLt
  have h_u := u.isLt
  have h_b := b.isLt
  have h_a := a.isLt
  have h_d := d.isLt
  all_goals simp only [packed]; omega
theorem max (g : BitVec 4) (u : BitVec 1) (b : BitVec 5) (a : BitVec 5) (d : BitVec 5) : Statement (.max g u b a d) := by
  refine of_wide rfl ?_ ?_
  have h_g := g.isLt
  have h_u := u.isLt
  have h_b := b.isLt
  have h_a := a.isLt
  have h_d := d.isLt
  all_goals simp only [packed]; omega
theorem sel (g : BitVec 4) (b : BitVec 5) (a : BitVec 5) (d : BitVec 5) : Statement (.sel g b a d) := by
  refine of_wide rfl ?_ ?_
  have h_g := g.isLt
  have h_b := b.isLt
  have h_a := a.isLt
  have h_d := d.isLt
  all_goals simp only [packed]; omega
theorem addi (g : BitVec 4) (e : BitVec 1) (k : BitVec 10) (a : BitVec 5) (d : BitVec 5) : Statement (.addi g e k a d) := by
  refine of_wide rfl ?_ ?_
  have h_g := g.isLt
  have h_e := e.isLt
  have h_k := k.isLt
  have h_a := a.isLt
  have h_d := d.isLt
  all_goals simp only [packed]; omega
theorem andi (g : BitVec 4) (e : BitVec 1) (k : BitVec 10) (a : BitVec 5) (d : BitVec 5) : Statement (.andi g e k a d) := by
  refine of_wide rfl ?_ ?_
  have h_g := g.isLt
  have h_e := e.isLt
  have h_k := k.isLt
  have h_a := a.isLt
  have h_d := d.isLt
  all_goals simp only [packed]; omega
theorem ori (g : BitVec 4) (e : BitVec 1) (k : BitVec 10) (a : BitVec 5) (d : BitVec 5) : Statement (.ori g e k a d) := by
  refine of_wide rfl ?_ ?_
  have h_g := g.isLt
  have h_e := e.isLt
  have h_k := k.isLt
  have h_a := a.isLt
  have h_d := d.isLt
  all_goals simp only [packed]; omega
theorem xori (g : BitVec 4) (e : BitVec 1) (k : BitVec 10) (a : BitVec 5) (d : BitVec 5) : Statement (.xori g e k a d) := by
  refine of_wide rfl ?_ ?_
  have h_g := g.isLt
  have h_e := e.isLt
  have h_k := k.isLt
  have h_a := a.isLt
  have h_d := d.isLt
  all_goals simp only [packed]; omega
theorem shli (g : BitVec 4) (sx : BitVec 6) (a : BitVec 5) (d : BitVec 5) : Statement (.shli g sx a d) := by
  refine of_wide rfl ?_ ?_
  have h_g := g.isLt
  have h_sx := sx.isLt
  have h_a := a.isLt
  have h_d := d.isLt
  all_goals simp only [packed]; omega
theorem shri (g : BitVec 4) (sx : BitVec 6) (a : BitVec 5) (d : BitVec 5) : Statement (.shri g sx a d) := by
  refine of_wide rfl ?_ ?_
  have h_g := g.isLt
  have h_sx := sx.isLt
  have h_a := a.isLt
  have h_d := d.isLt
  all_goals simp only [packed]; omega
theorem shai (g : BitVec 4) (sx : BitVec 6) (a : BitVec 5) (d : BitVec 5) : Statement (.shai g sx a d) := by
  refine of_wide rfl ?_ ?_
  have h_g := g.isLt
  have h_sx := sx.isLt
  have h_a := a.isLt
  have h_d := d.isLt
  all_goals simp only [packed]; omega
theorem rotli (g : BitVec 4) (sx : BitVec 6) (a : BitVec 5) (d : BitVec 5) : Statement (.rotli g sx a d) := by
  refine of_wide rfl ?_ ?_
  have h_g := g.isLt
  have h_sx := sx.isLt
  have h_a := a.isLt
  have h_d := d.isLt
  all_goals simp only [packed]; omega
theorem clz (g : BitVec 4) (a : BitVec 5) (d : BitVec 5) : Statement (.clz g a d) := by
  refine of_wide rfl ?_ ?_
  have h_g := g.isLt
  have h_a := a.isLt
  have h_d := d.isLt
  all_goals simp only [packed]; omega
theorem ctz (g : BitVec 4) (a : BitVec 5) (d : BitVec 5) : Statement (.ctz g a d) := by
  refine of_wide rfl ?_ ?_
  have h_g := g.isLt
  have h_a := a.isLt
  have h_d := d.isLt
  all_goals simp only [packed]; omega
theorem popc (g : BitVec 4) (a : BitVec 5) (d : BitVec 5) : Statement (.popc g a d) := by
  refine of_wide rfl ?_ ?_
  have h_g := g.isLt
  have h_a := a.isLt
  have h_d := d.isLt
  all_goals simp only [packed]; omega
theorem ext (g : BitVec 4) (u : BitVec 1) (sx : BitVec 2) (a : BitVec 5) (d : BitVec 5) : Statement (.ext g u sx a d) := by
  refine of_wide rfl ?_ ?_
  have h_g := g.isLt
  have h_u := u.isLt
  have h_sx := sx.isLt
  have h_a := a.isLt
  have h_d := d.isLt
  all_goals simp only [packed]; omega
theorem bfx (g : BitVec 4) (b : BitVec 5) (a : BitVec 5) (d : BitVec 5) : Statement (.bfx g b a d) := by
  refine of_wide rfl ?_ ?_
  have h_g := g.isLt
  have h_b := b.isLt
  have h_a := a.isLt
  have h_d := d.isLt
  all_goals simp only [packed]; omega
theorem bfi (g : BitVec 4) (b : BitVec 5) (a : BitVec 5) (d : BitVec 5) : Statement (.bfi g b a d) := by
  refine of_wide rfl ?_ ?_
  have h_g := g.isLt
  have h_b := b.isLt
  have h_a := a.isLt
  have h_d := d.isLt
  all_goals simp only [packed]; omega
theorem mov (g : BitVec 4) (a : BitVec 5) (d : BitVec 5) : Statement (.mov g a d) := by
  refine of_wide rfl ?_ ?_
  have h_g := g.isLt
  have h_a := a.isLt
  have h_d := d.isLt
  all_goals simp only [packed]; omega
theorem movToY (g : BitVec 4) (a : BitVec 5) (d : BitVec 3) : Statement (.movToY g a d) := by
  refine of_wide rfl ?_ ?_
  have h_g := g.isLt
  have h_a := a.isLt
  have h_d := d.isLt
  all_goals simp only [packed]; omega
theorem movFromY (g : BitVec 4) (a : BitVec 3) (d : BitVec 5) : Statement (.movFromY g a d) := by
  refine of_wide rfl ?_ ?_
  have h_g := g.isLt
  have h_a := a.isLt
  have h_d := d.isLt
  all_goals simp only [packed]; omega
theorem li (g : BitVec 4) (k : BitVec 16) (d : BitVec 5) : Statement (.li g k d) := by
  refine of_wide rfl ?_ ?_
  have h_g := g.isLt
  have h_k := k.isLt
  have h_d := d.isLt
  all_goals simp only [packed]; omega
theorem lih (g : BitVec 4) (k : BitVec 16) (d : BitVec 5) : Statement (.lih g k d) := by
  refine of_wide rfl ?_ ?_
  have h_g := g.isLt
  have h_k := k.isLt
  have h_d := d.isLt
  all_goals simp only [packed]; omega
theorem cmp (g : BitVec 4) (u : BitVec 1) (c : BitVec 3) (b : BitVec 5) (a : BitVec 5) (p : BitVec 3) : Statement (.cmp g u c b a p) := by
  refine of_wide rfl ?_ ?_
  have h_g := g.isLt
  have h_u := u.isLt
  have h_c := c.isLt
  have h_b := b.isLt
  have h_a := a.isLt
  have h_p := p.isLt
  all_goals simp only [packed]; omega
theorem cmpi (g : BitVec 4) (u : BitVec 1) (c : BitVec 3) (k : BitVec 7) (a : BitVec 5) (p : BitVec 3) : Statement (.cmpi g u c k a p) := by
  refine of_wide rfl ?_ ?_
  have h_g := g.isLt
  have h_u := u.isLt
  have h_c := c.isLt
  have h_k := k.isLt
  have h_a := a.isLt
  have h_p := p.isLt
  all_goals simp only [packed]; omega
theorem pand (g : BitVec 4) (b : BitVec 3) (a : BitVec 3) (d : BitVec 3) : Statement (.pand g b a d) := by
  refine of_wide rfl ?_ ?_
  have h_g := g.isLt
  have h_b := b.isLt
  have h_a := a.isLt
  have h_d := d.isLt
  all_goals simp only [packed]; omega
theorem por (g : BitVec 4) (b : BitVec 3) (a : BitVec 3) (d : BitVec 3) : Statement (.por g b a d) := by
  refine of_wide rfl ?_ ?_
  have h_g := g.isLt
  have h_b := b.isLt
  have h_a := a.isLt
  have h_d := d.isLt
  all_goals simp only [packed]; omega
theorem pxor (g : BitVec 4) (b : BitVec 3) (a : BitVec 3) (d : BitVec 3) : Statement (.pxor g b a d) := by
  refine of_wide rfl ?_ ?_
  have h_g := g.isLt
  have h_b := b.isLt
  have h_a := a.isLt
  have h_d := d.isLt
  all_goals simp only [packed]; omega
theorem pnot (g : BitVec 4) (a : BitVec 3) (d : BitVec 3) : Statement (.pnot g a d) := by
  refine of_wide rfl ?_ ?_
  have h_g := g.isLt
  have h_a := a.isLt
  have h_d := d.isLt
  all_goals simp only [packed]; omega
theorem pmovx (g : BitVec 4) (a : BitVec 3) (d : BitVec 5) : Statement (.pmovx g a d) := by
  refine of_wide rfl ?_ ?_
  have h_g := g.isLt
  have h_a := a.isLt
  have h_d := d.isLt
  all_goals simp only [packed]; omega
theorem pmovp (g : BitVec 4) (a : BitVec 5) (d : BitVec 3) : Statement (.pmovp g a d) := by
  refine of_wide rfl ?_ ?_
  have h_g := g.isLt
  have h_a := a.isLt
  have h_d := d.isLt
  all_goals simp only [packed]; omega
theorem br (g : BitVec 4) (bx : BitVec 5) (k : BitVec 16) : Statement (.br g bx k) := by
  refine of_wide rfl ?_ ?_
  have h_g := g.isLt
  have h_bx := bx.isLt
  have h_k := k.isLt
  all_goals simp only [packed]; omega
theorem j (g : BitVec 4) (k : BitVec 21) : Statement (.j g k) := by
  refine of_wide rfl ?_ ?_
  have h_g := g.isLt
  have h_k := k.isLt
  all_goals simp only [packed]; omega
theorem jal (g : BitVec 4) (k : BitVec 16) (d : BitVec 5) : Statement (.jal g k d) := by
  refine of_wide rfl ?_ ?_
  have h_g := g.isLt
  have h_k := k.isLt
  have h_d := d.isLt
  all_goals simp only [packed]; omega
theorem jr (g : BitVec 4) (a : BitVec 5) : Statement (.jr g a) := by
  refine of_wide rfl ?_ ?_
  have h_g := g.isLt
  have h_a := a.isLt
  all_goals simp only [packed]; omega
theorem jalr (g : BitVec 4) (a : BitVec 5) (d : BitVec 5) : Statement (.jalr g a d) := by
  refine of_wide rfl ?_ ?_
  have h_g := g.isLt
  have h_a := a.isLt
  have h_d := d.isLt
  all_goals simp only [packed]; omega
theorem trap (g : BitVec 4) (k : BitVec 4) : Statement (.trap g k) := by
  refine of_wide rfl ?_ ?_
  have h_g := g.isLt
  have h_k := k.isLt
  all_goals simp only [packed]; omega
theorem bkpt (g : BitVec 4) (k : BitVec 8) : Statement (.bkpt g k) := by
  refine of_wide rfl ?_ ?_
  have h_g := g.isLt
  have h_k := k.isLt
  all_goals simp only [packed]; omega
theorem tret (g : BitVec 4) (sx : BitVec 1) : Statement (.tret g sx) := by
  refine of_wide rfl ?_ ?_
  have h_g := g.isLt
  have h_sx := sx.isLt
  all_goals simp only [packed]; omega
theorem exti (g : BitVec 4) (k : BitVec 16) (c : BitVec 1) (e : BitVec 3) : Statement (.exti g k c e) := by
  refine of_wide rfl ?_ ?_
  have h_g := g.isLt
  have h_k := k.isLt
  have h_c := c.isLt
  have h_e := e.isLt
  all_goals simp only [packed]; omega
theorem extx (g : BitVec 4) (a : BitVec 5) (e : BitVec 3) : Statement (.extx g a e) := by
  refine of_wide rfl ?_ ?_
  have h_g := g.isLt
  have h_a := a.isLt
  have h_e := e.isLt
  all_goals simp only [packed]; omega
theorem extg (g : BitVec 4) (k : BitVec 7) (a : BitVec 5) (e : BitVec 3) : Statement (.extg g k a e) := by
  refine of_wide rfl ?_ ?_
  have h_g := g.isLt
  have h_k := k.isLt
  have h_a := a.isLt
  have h_e := e.isLt
  all_goals simp only [packed]; omega
theorem extl (g : BitVec 4) (k : BitVec 6) (a : BitVec 5) (e : BitVec 3) : Statement (.extl g k a e) := by
  refine of_wide rfl ?_ ?_
  have h_g := g.isLt
  have h_k := k.isLt
  have h_a := a.isLt
  have h_e := e.isLt
  all_goals simp only [packed]; omega
theorem exts (g : BitVec 4) (k : BitVec 7) (a : BitVec 5) (e : BitVec 3) : Statement (.exts g k a e) := by
  refine of_wide rfl ?_ ?_
  have h_g := g.isLt
  have h_k := k.isLt
  have h_a := a.isLt
  have h_e := e.isLt
  all_goals simp only [packed]; omega
theorem srd (g : BitVec 4) (n : BitVec 12) (x : BitVec 5) : Statement (.srd g n x) := by
  refine of_wide rfl ?_ ?_
  have h_g := g.isLt
  have h_n := n.isLt
  have h_x := x.isLt
  all_goals simp only [packed]; omega
theorem swr (g : BitVec 4) (n : BitVec 12) (x : BitVec 5) : Statement (.swr g n x) := by
  refine of_wide rfl ?_ ?_
  have h_g := g.isLt
  have h_n := n.isLt
  have h_x := x.isLt
  all_goals simp only [packed]; omega
theorem evt (g : BitVec 4) (n : BitVec 12) (x : BitVec 5) : Statement (.evt g n x) := by
  refine of_wide rfl ?_ ?_
  have h_g := g.isLt
  have h_n := n.isLt
  have h_x := x.isLt
  all_goals simp only [packed]; omega
theorem iflush (g : BitVec 4) : Statement (.iflush g) := by
  refine of_wide rfl ?_ ?_
  have h_g := g.isLt
  all_goals simp only [packed]; omega
theorem fencecFence (g : BitVec 4) (x : BitVec 5) : Statement (.fencecFence g x) := by
  refine of_wide rfl ?_ ?_
  have h_g := g.isLt
  have h_x := x.isLt
  all_goals simp only [packed]; omega
theorem fencecAbandon (g : BitVec 4) (x : BitVec 5) : Statement (.fencecAbandon g x) := by
  refine of_wide rfl ?_ ?_
  have h_g := g.isLt
  have h_x := x.isLt
  all_goals simp only [packed]; omega
theorem cmapw (g : BitVec 4) (x : BitVec 5) : Statement (.cmapw g x) := by
  refine of_wide rfl ?_ ?_
  have h_g := g.isLt
  have h_x := x.isLt
  all_goals simp only [packed]; omega
theorem preemptSave (g : BitVec 4) (x : BitVec 5) : Statement (.preemptSave g x) := by
  refine of_wide rfl ?_ ?_
  have h_g := g.isLt
  have h_x := x.isLt
  all_goals simp only [packed]; omega
theorem preemptResume (g : BitVec 4) (x : BitVec 5) : Statement (.preemptResume g x) := by
  refine of_wide rfl ?_ ?_
  have h_g := g.isLt
  have h_x := x.isLt
  all_goals simp only [packed]; omega
theorem capstart (g : BitVec 4) (a : BitVec 5) : Statement (.capstart g a) := by
  refine of_wide rfl ?_ ?_
  have h_g := g.isLt
  have h_a := a.isLt
  all_goals simp only [packed]; omega
theorem capstop (g : BitVec 4) (a : BitVec 5) (d : BitVec 5) : Statement (.capstop g a d) := by
  refine of_wide rfl ?_ ?_
  have h_g := g.isLt
  have h_a := a.isLt
  have h_d := d.isLt
  all_goals simp only [packed]; omega
theorem trcmark (g : BitVec 4) (b : BitVec 5) (a : BitVec 5) (k : BitVec 5) : Statement (.trcmark g b a k) := by
  refine of_wide rfl ?_ ?_
  have h_g := g.isLt
  have h_b := b.isLt
  have h_a := a.isLt
  have h_k := k.isLt
  all_goals simp only [packed]; omega
theorem lsend (g : BitVec 4) (b : BitVec 5) (a : BitVec 5) (d : BitVec 5) : Statement (.lsend g b a d) := by
  refine of_wide rfl ?_ ?_
  have h_g := g.isLt
  have h_b := b.isLt
  have h_a := a.isLt
  have h_d := d.isLt
  all_goals simp only [packed]; omega
theorem lrecv (g : BitVec 4) (b : BitVec 5) (d : BitVec 5) : Statement (.lrecv g b d) := by
  refine of_wide rfl ?_ ?_
  have h_g := g.isLt
  have h_b := b.isLt
  have h_d := d.isLt
  all_goals simp only [packed]; omega
theorem ld (g : BitVec 4) (u : BitVec 1) (sx : BitVec 2) (k : BitVec 7) (a : BitVec 5) (d : BitVec 5) : Statement (.ld g u sx k a d) := by
  refine of_wide rfl ?_ ?_
  have h_g := g.isLt
  have h_u := u.isLt
  have h_sx := sx.isLt
  have h_k := k.isLt
  have h_a := a.isLt
  have h_d := d.isLt
  all_goals simp only [packed]; omega
theorem st (g : BitVec 4) (sx : BitVec 2) (o : BitVec 1) (k : BitVec 7) (a : BitVec 5) (d : BitVec 5) : Statement (.st g sx o k a d) := by
  refine of_wide rfl ?_ ?_
  have h_g := g.isLt
  have h_sx := sx.isLt
  have h_o := o.isLt
  have h_k := k.isLt
  have h_a := a.isLt
  have h_d := d.isLt
  all_goals simp only [packed]; omega
theorem ldv (g : BitVec 4) (k : BitVec 7) (a : BitVec 5) (d : BitVec 5) : Statement (.ldv g k a d) := by
  refine of_wide rfl ?_ ?_
  have h_g := g.isLt
  have h_k := k.isLt
  have h_a := a.isLt
  have h_d := d.isLt
  all_goals simp only [packed]; omega
theorem stv (g : BitVec 4) (o : BitVec 1) (k : BitVec 7) (a : BitVec 5) (d : BitVec 5) : Statement (.stv g o k a d) := by
  refine of_wide rfl ?_ ?_
  have h_g := g.isLt
  have h_o := o.isLt
  have h_k := k.isLt
  have h_a := a.isLt
  have h_d := d.isLt
  all_goals simp only [packed]; omega
theorem ldvx (g : BitVec 4) (w : BitVec 2) (b : BitVec 5) (a : BitVec 5) (d : BitVec 5) : Statement (.ldvx g w b a d) := by
  refine of_wide rfl ?_ ?_
  have h_g := g.isLt
  have h_w := w.isLt
  have h_b := b.isLt
  have h_a := a.isLt
  have h_d := d.isLt
  all_goals simp only [packed]; omega
theorem stvx (g : BitVec 4) (w : BitVec 2) (b : BitVec 5) (a : BitVec 5) (d : BitVec 5) : Statement (.stvx g w b a d) := by
  refine of_wide rfl ?_ ?_
  have h_g := g.isLt
  have h_w := w.isLt
  have h_b := b.isLt
  have h_a := a.isLt
  have h_d := d.isLt
  all_goals simp only [packed]; omega
theorem ldf (g : BitVec 4) (n : BitVec 1) (c : BitVec 1) (k : BitVec 6) (a : BitVec 5) (d : BitVec 5) : Statement (.ldf g n c k a d) := by
  refine of_wide rfl ?_ ?_
  have h_g := g.isLt
  have h_n := n.isLt
  have h_c := c.isLt
  have h_k := k.isLt
  have h_a := a.isLt
  have h_d := d.isLt
  all_goals simp only [packed]; omega
theorem stf (g : BitVec 4) (n : BitVec 1) (k : BitVec 6) (a : BitVec 5) (d : BitVec 5) : Statement (.stf g n k a d) := by
  refine of_wide rfl ?_ ?_
  have h_g := g.isLt
  have h_n := n.isLt
  have h_k := k.isLt
  have h_a := a.isLt
  have h_d := d.isLt
  all_goals simp only [packed]; omega
theorem sete (g : BitVec 4) (k : BitVec 6) (a : BitVec 5) : Statement (.sete g k a) := by
  refine of_wide rfl ?_ ?_
  have h_g := g.isLt
  have h_k := k.isLt
  have h_a := a.isLt
  all_goals simp only [packed]; omega
theorem setf (g : BitVec 4) (k : BitVec 6) (a : BitVec 5) : Statement (.setf g k a) := by
  refine of_wide rfl ?_ ?_
  have h_g := g.isLt
  have h_k := k.isLt
  have h_a := a.isLt
  all_goals simp only [packed]; omega
theorem gstate (g : BitVec 4) (k : BitVec 6) (a : BitVec 5) (d : BitVec 5) : Statement (.gstate g k a d) := by
  refine of_wide rfl ?_ ?_
  have h_g := g.isLt
  have h_k := k.isLt
  have h_a := a.isLt
  have h_d := d.isLt
  all_goals simp only [packed]; omega
theorem amoLoad (g : BitVec 4) (r : BitVec 1) (w : BitVec 1) (a : BitVec 5) (d : BitVec 5) : Statement (.amoLoad g r w a d) := by
  refine of_wide rfl ?_ ?_
  have h_g := g.isLt
  have h_r := r.isLt
  have h_w := w.isLt
  have h_a := a.isLt
  have h_d := d.isLt
  all_goals simp only [packed]; omega
theorem amoStore (g : BitVec 4) (r : BitVec 1) (w : BitVec 1) (b : BitVec 5) (a : BitVec 5) : Statement (.amoStore g r w b a) := by
  refine of_wide rfl ?_ ?_
  have h_g := g.isLt
  have h_r := r.isLt
  have h_w := w.isLt
  have h_b := b.isLt
  have h_a := a.isLt
  all_goals simp only [packed]; omega
theorem amoSwap (g : BitVec 4) (r : BitVec 1) (w : BitVec 1) (b : BitVec 5) (a : BitVec 5) (d : BitVec 5) : Statement (.amoSwap g r w b a d) := by
  refine of_wide rfl ?_ ?_
  have h_g := g.isLt
  have h_r := r.isLt
  have h_w := w.isLt
  have h_b := b.isLt
  have h_a := a.isLt
  have h_d := d.isLt
  all_goals simp only [packed]; omega
theorem cas (g : BitVec 4) (r : BitVec 1) (w : BitVec 1) (b : BitVec 5) (a : BitVec 5) (d : BitVec 5) : Statement (.cas g r w b a d) := by
  refine of_wide rfl ?_ ?_
  have h_g := g.isLt
  have h_r := r.isLt
  have h_w := w.isLt
  have h_b := b.isLt
  have h_a := a.isLt
  have h_d := d.isLt
  all_goals simp only [packed]; omega
theorem amoAdd (g : BitVec 4) (r : BitVec 1) (w : BitVec 1) (b : BitVec 5) (a : BitVec 5) (d : BitVec 5) : Statement (.amoAdd g r w b a d) := by
  refine of_wide rfl ?_ ?_
  have h_g := g.isLt
  have h_r := r.isLt
  have h_w := w.isLt
  have h_b := b.isLt
  have h_a := a.isLt
  have h_d := d.isLt
  all_goals simp only [packed]; omega
theorem amoAnd (g : BitVec 4) (r : BitVec 1) (w : BitVec 1) (b : BitVec 5) (a : BitVec 5) (d : BitVec 5) : Statement (.amoAnd g r w b a d) := by
  refine of_wide rfl ?_ ?_
  have h_g := g.isLt
  have h_r := r.isLt
  have h_w := w.isLt
  have h_b := b.isLt
  have h_a := a.isLt
  have h_d := d.isLt
  all_goals simp only [packed]; omega
theorem amoOr (g : BitVec 4) (r : BitVec 1) (w : BitVec 1) (b : BitVec 5) (a : BitVec 5) (d : BitVec 5) : Statement (.amoOr g r w b a d) := by
  refine of_wide rfl ?_ ?_
  have h_g := g.isLt
  have h_r := r.isLt
  have h_w := w.isLt
  have h_b := b.isLt
  have h_a := a.isLt
  have h_d := d.isLt
  all_goals simp only [packed]; omega
theorem amoXor (g : BitVec 4) (r : BitVec 1) (w : BitVec 1) (b : BitVec 5) (a : BitVec 5) (d : BitVec 5) : Statement (.amoXor g r w b a d) := by
  refine of_wide rfl ?_ ?_
  have h_g := g.isLt
  have h_r := r.isLt
  have h_w := w.isLt
  have h_b := b.isLt
  have h_a := a.isLt
  have h_d := d.isLt
  all_goals simp only [packed]; omega
theorem amoMinSigned (g : BitVec 4) (r : BitVec 1) (w : BitVec 1) (b : BitVec 5) (a : BitVec 5) (d : BitVec 5) : Statement (.amoMinSigned g r w b a d) := by
  refine of_wide rfl ?_ ?_
  have h_g := g.isLt
  have h_r := r.isLt
  have h_w := w.isLt
  have h_b := b.isLt
  have h_a := a.isLt
  have h_d := d.isLt
  all_goals simp only [packed]; omega
theorem amoMaxSigned (g : BitVec 4) (r : BitVec 1) (w : BitVec 1) (b : BitVec 5) (a : BitVec 5) (d : BitVec 5) : Statement (.amoMaxSigned g r w b a d) := by
  refine of_wide rfl ?_ ?_
  have h_g := g.isLt
  have h_r := r.isLt
  have h_w := w.isLt
  have h_b := b.isLt
  have h_a := a.isLt
  have h_d := d.isLt
  all_goals simp only [packed]; omega
theorem amoMinUnsigned (g : BitVec 4) (r : BitVec 1) (w : BitVec 1) (b : BitVec 5) (a : BitVec 5) (d : BitVec 5) : Statement (.amoMinUnsigned g r w b a d) := by
  refine of_wide rfl ?_ ?_
  have h_g := g.isLt
  have h_r := r.isLt
  have h_w := w.isLt
  have h_b := b.isLt
  have h_a := a.isLt
  have h_d := d.isLt
  all_goals simp only [packed]; omega
theorem amoMaxUnsigned (g : BitVec 4) (r : BitVec 1) (w : BitVec 1) (b : BitVec 5) (a : BitVec 5) (d : BitVec 5) : Statement (.amoMaxUnsigned g r w b a d) := by
  refine of_wide rfl ?_ ?_
  have h_g := g.isLt
  have h_r := r.isLt
  have h_w := w.isLt
  have h_b := b.isLt
  have h_a := a.isLt
  have h_d := d.isLt
  all_goals simp only [packed]; omega
theorem amoFadd (g : BitVec 4) (r : BitVec 1) (w : BitVec 1) (b : BitVec 5) (a : BitVec 5) (d : BitVec 5) : Statement (.amoFadd g r w b a d) := by
  refine of_wide rfl ?_ ?_
  have h_g := g.isLt
  have h_r := r.isLt
  have h_w := w.isLt
  have h_b := b.isLt
  have h_a := a.isLt
  have h_d := d.isLt
  all_goals simp only [packed]; omega
theorem amoFmin (g : BitVec 4) (r : BitVec 1) (w : BitVec 1) (b : BitVec 5) (a : BitVec 5) (d : BitVec 5) : Statement (.amoFmin g r w b a d) := by
  refine of_wide rfl ?_ ?_
  have h_g := g.isLt
  have h_r := r.isLt
  have h_w := w.isLt
  have h_b := b.isLt
  have h_a := a.isLt
  have h_d := d.isLt
  all_goals simp only [packed]; omega
theorem amoFmax (g : BitVec 4) (r : BitVec 1) (w : BitVec 1) (b : BitVec 5) (a : BitVec 5) (d : BitVec 5) : Statement (.amoFmax g r w b a d) := by
  refine of_wide rfl ?_ ?_
  have h_g := g.isLt
  have h_r := r.isLt
  have h_w := w.isLt
  have h_b := b.isLt
  have h_a := a.isLt
  have h_d := d.isLt
  all_goals simp only [packed]; omega
theorem fenceRel (g : BitVec 4) (sx : BitVec 2) : Statement (.fenceRel g sx) := by
  refine of_wide rfl ?_ ?_
  have h_g := g.isLt
  have h_sx := sx.isLt
  all_goals simp only [packed]; omega
theorem fenceAcq (g : BitVec 4) (sx : BitVec 2) : Statement (.fenceAcq g sx) := by
  refine of_wide rfl ?_ ?_
  have h_g := g.isLt
  have h_sx := sx.isLt
  all_goals simp only [packed]; omega
theorem fenceAr (g : BitVec 4) (sx : BitVec 2) : Statement (.fenceAr g sx) := by
  refine of_wide rfl ?_ ?_
  have h_g := g.isLt
  have h_sx := sx.isLt
  all_goals simp only [packed]; omega
theorem vadd (g : BitVec 4) (t : BitVec 2) (b : BitVec 5) (a : BitVec 5) (d : BitVec 5) : Statement (.vadd g t b a d) := by
  refine of_wide rfl ?_ ?_
  have h_g := g.isLt
  have h_t := t.isLt
  have h_b := b.isLt
  have h_a := a.isLt
  have h_d := d.isLt
  all_goals simp only [packed]; omega
theorem vsub (g : BitVec 4) (t : BitVec 2) (b : BitVec 5) (a : BitVec 5) (d : BitVec 5) : Statement (.vsub g t b a d) := by
  refine of_wide rfl ?_ ?_
  have h_g := g.isLt
  have h_t := t.isLt
  have h_b := b.isLt
  have h_a := a.isLt
  have h_d := d.isLt
  all_goals simp only [packed]; omega
theorem vmul (g : BitVec 4) (t : BitVec 2) (b : BitVec 5) (a : BitVec 5) (d : BitVec 5) : Statement (.vmul g t b a d) := by
  refine of_wide rfl ?_ ?_
  have h_g := g.isLt
  have h_t := t.isLt
  have h_b := b.isLt
  have h_a := a.isLt
  have h_d := d.isLt
  all_goals simp only [packed]; omega
theorem vdiv (g : BitVec 4) (t : BitVec 2) (b : BitVec 5) (a : BitVec 5) (d : BitVec 5) : Statement (.vdiv g t b a d) := by
  refine of_wide rfl ?_ ?_
  have h_g := g.isLt
  have h_t := t.isLt
  have h_b := b.isLt
  have h_a := a.isLt
  have h_d := d.isLt
  all_goals simp only [packed]; omega
theorem vfma (g : BitVec 4) (t : BitVec 2) (b : BitVec 5) (a : BitVec 5) (d : BitVec 5) : Statement (.vfma g t b a d) := by
  refine of_wide rfl ?_ ?_
  have h_g := g.isLt
  have h_t := t.isLt
  have h_b := b.isLt
  have h_a := a.isLt
  have h_d := d.isLt
  all_goals simp only [packed]; omega
theorem vfms (g : BitVec 4) (t : BitVec 2) (b : BitVec 5) (a : BitVec 5) (d : BitVec 5) : Statement (.vfms g t b a d) := by
  refine of_wide rfl ?_ ?_
  have h_g := g.isLt
  have h_t := t.isLt
  have h_b := b.isLt
  have h_a := a.isLt
  have h_d := d.isLt
  all_goals simp only [packed]; omega
theorem vfnma (g : BitVec 4) (t : BitVec 2) (b : BitVec 5) (a : BitVec 5) (d : BitVec 5) : Statement (.vfnma g t b a d) := by
  refine of_wide rfl ?_ ?_
  have h_g := g.isLt
  have h_t := t.isLt
  have h_b := b.isLt
  have h_a := a.isLt
  have h_d := d.isLt
  all_goals simp only [packed]; omega
theorem vmin (g : BitVec 4) (t : BitVec 2) (b : BitVec 5) (a : BitVec 5) (d : BitVec 5) : Statement (.vmin g t b a d) := by
  refine of_wide rfl ?_ ?_
  have h_g := g.isLt
  have h_t := t.isLt
  have h_b := b.isLt
  have h_a := a.isLt
  have h_d := d.isLt
  all_goals simp only [packed]; omega
theorem vmax (g : BitVec 4) (t : BitVec 2) (b : BitVec 5) (a : BitVec 5) (d : BitVec 5) : Statement (.vmax g t b a d) := by
  refine of_wide rfl ?_ ?_
  have h_g := g.isLt
  have h_t := t.isLt
  have h_b := b.isLt
  have h_a := a.isLt
  have h_d := d.isLt
  all_goals simp only [packed]; omega
theorem vneg (g : BitVec 4) (t : BitVec 2) (a : BitVec 5) (d : BitVec 5) : Statement (.vneg g t a d) := by
  refine of_wide rfl ?_ ?_
  have h_g := g.isLt
  have h_t := t.isLt
  have h_a := a.isLt
  have h_d := d.isLt
  all_goals simp only [packed]; omega
theorem vabs (g : BitVec 4) (t : BitVec 2) (a : BitVec 5) (d : BitVec 5) : Statement (.vabs g t a d) := by
  refine of_wide rfl ?_ ?_
  have h_g := g.isLt
  have h_t := t.isLt
  have h_a := a.isLt
  have h_d := d.isLt
  all_goals simp only [packed]; omega
theorem vsqrt (g : BitVec 4) (t : BitVec 2) (r : BitVec 2) (a : BitVec 5) (d : BitVec 5) : Statement (.vsqrt g t r a d) := by
  refine of_wide rfl ?_ ?_
  have h_g := g.isLt
  have h_t := t.isLt
  have h_r := r.isLt
  have h_a := a.isLt
  have h_d := d.isLt
  all_goals simp only [packed]; omega
theorem vrcpa (g : BitVec 4) (t : BitVec 2) (a : BitVec 5) (d : BitVec 5) : Statement (.vrcpa g t a d) := by
  refine of_wide rfl ?_ ?_
  have h_g := g.isLt
  have h_t := t.isLt
  have h_a := a.isLt
  have h_d := d.isLt
  all_goals simp only [packed]; omega
theorem vrsqa (g : BitVec 4) (t : BitVec 2) (a : BitVec 5) (d : BitVec 5) : Statement (.vrsqa g t a d) := by
  refine of_wide rfl ?_ ?_
  have h_g := g.isLt
  have h_t := t.isLt
  have h_a := a.isLt
  have h_d := d.isLt
  all_goals simp only [packed]; omega
theorem vexpa (g : BitVec 4) (t : BitVec 2) (a : BitVec 5) (d : BitVec 5) : Statement (.vexpa g t a d) := by
  refine of_wide rfl ?_ ?_
  have h_g := g.isLt
  have h_t := t.isLt
  have h_a := a.isLt
  have h_d := d.isLt
  all_goals simp only [packed]; omega
theorem vloga (g : BitVec 4) (t : BitVec 2) (a : BitVec 5) (d : BitVec 5) : Statement (.vloga g t a d) := by
  refine of_wide rfl ?_ ?_
  have h_g := g.isLt
  have h_t := t.isLt
  have h_a := a.isLt
  have h_d := d.isLt
  all_goals simp only [packed]; omega
theorem vrint (g : BitVec 4) (t : BitVec 2) (r : BitVec 2) (a : BitVec 5) (d : BitVec 5) : Statement (.vrint g t r a d) := by
  refine of_wide rfl ?_ ?_
  have h_g := g.isLt
  have h_t := t.isLt
  have h_r := r.isLt
  have h_a := a.isLt
  have h_d := d.isLt
  all_goals simp only [packed]; omega
theorem viadd (g : BitVec 4) (w : BitVec 2) (b : BitVec 5) (a : BitVec 5) (d : BitVec 5) : Statement (.viadd g w b a d) := by
  refine of_wide rfl ?_ ?_
  have h_g := g.isLt
  have h_w := w.isLt
  have h_b := b.isLt
  have h_a := a.isLt
  have h_d := d.isLt
  all_goals simp only [packed]; omega
theorem visub (g : BitVec 4) (w : BitVec 2) (b : BitVec 5) (a : BitVec 5) (d : BitVec 5) : Statement (.visub g w b a d) := by
  refine of_wide rfl ?_ ?_
  have h_g := g.isLt
  have h_w := w.isLt
  have h_b := b.isLt
  have h_a := a.isLt
  have h_d := d.isLt
  all_goals simp only [packed]; omega
theorem vimul (g : BitVec 4) (w : BitVec 2) (b : BitVec 5) (a : BitVec 5) (d : BitVec 5) : Statement (.vimul g w b a d) := by
  refine of_wide rfl ?_ ?_
  have h_g := g.isLt
  have h_w := w.isLt
  have h_b := b.isLt
  have h_a := a.isLt
  have h_d := d.isLt
  all_goals simp only [packed]; omega
theorem viminI (g : BitVec 4) (w : BitVec 2) (b : BitVec 5) (a : BitVec 5) (d : BitVec 5) : Statement (.viminI g w b a d) := by
  refine of_wide rfl ?_ ?_
  have h_g := g.isLt
  have h_w := w.isLt
  have h_b := b.isLt
  have h_a := a.isLt
  have h_d := d.isLt
  all_goals simp only [packed]; omega
theorem viminN (g : BitVec 4) (w : BitVec 2) (b : BitVec 5) (a : BitVec 5) (d : BitVec 5) : Statement (.viminN g w b a d) := by
  refine of_wide rfl ?_ ?_
  have h_g := g.isLt
  have h_w := w.isLt
  have h_b := b.isLt
  have h_a := a.isLt
  have h_d := d.isLt
  all_goals simp only [packed]; omega
theorem vimaxI (g : BitVec 4) (w : BitVec 2) (b : BitVec 5) (a : BitVec 5) (d : BitVec 5) : Statement (.vimaxI g w b a d) := by
  refine of_wide rfl ?_ ?_
  have h_g := g.isLt
  have h_w := w.isLt
  have h_b := b.isLt
  have h_a := a.isLt
  have h_d := d.isLt
  all_goals simp only [packed]; omega
theorem vimaxN (g : BitVec 4) (w : BitVec 2) (b : BitVec 5) (a : BitVec 5) (d : BitVec 5) : Statement (.vimaxN g w b a d) := by
  refine of_wide rfl ?_ ?_
  have h_g := g.isLt
  have h_w := w.isLt
  have h_b := b.isLt
  have h_a := a.isLt
  have h_d := d.isLt
  all_goals simp only [packed]; omega
theorem viaddsI (g : BitVec 4) (w : BitVec 2) (b : BitVec 5) (a : BitVec 5) (d : BitVec 5) : Statement (.viaddsI g w b a d) := by
  refine of_wide rfl ?_ ?_
  have h_g := g.isLt
  have h_w := w.isLt
  have h_b := b.isLt
  have h_a := a.isLt
  have h_d := d.isLt
  all_goals simp only [packed]; omega
theorem viaddsN (g : BitVec 4) (w : BitVec 2) (b : BitVec 5) (a : BitVec 5) (d : BitVec 5) : Statement (.viaddsN g w b a d) := by
  refine of_wide rfl ?_ ?_
  have h_g := g.isLt
  have h_w := w.isLt
  have h_b := b.isLt
  have h_a := a.isLt
  have h_d := d.isLt
  all_goals simp only [packed]; omega
theorem vand (g : BitVec 4) (w : BitVec 2) (b : BitVec 5) (a : BitVec 5) (d : BitVec 5) : Statement (.vand g w b a d) := by
  refine of_wide rfl ?_ ?_
  have h_g := g.isLt
  have h_w := w.isLt
  have h_b := b.isLt
  have h_a := a.isLt
  have h_d := d.isLt
  all_goals simp only [packed]; omega
theorem vor (g : BitVec 4) (w : BitVec 2) (b : BitVec 5) (a : BitVec 5) (d : BitVec 5) : Statement (.vor g w b a d) := by
  refine of_wide rfl ?_ ?_
  have h_g := g.isLt
  have h_w := w.isLt
  have h_b := b.isLt
  have h_a := a.isLt
  have h_d := d.isLt
  all_goals simp only [packed]; omega
theorem vxor (g : BitVec 4) (w : BitVec 2) (b : BitVec 5) (a : BitVec 5) (d : BitVec 5) : Statement (.vxor g w b a d) := by
  refine of_wide rfl ?_ ?_
  have h_g := g.isLt
  have h_w := w.isLt
  have h_b := b.isLt
  have h_a := a.isLt
  have h_d := d.isLt
  all_goals simp only [packed]; omega
theorem vshl (g : BitVec 4) (w : BitVec 2) (b : BitVec 5) (a : BitVec 5) (d : BitVec 5) : Statement (.vshl g w b a d) := by
  refine of_wide rfl ?_ ?_
  have h_g := g.isLt
  have h_w := w.isLt
  have h_b := b.isLt
  have h_a := a.isLt
  have h_d := d.isLt
  all_goals simp only [packed]; omega
theorem vshrN (g : BitVec 4) (w : BitVec 2) (b : BitVec 5) (a : BitVec 5) (d : BitVec 5) : Statement (.vshrN g w b a d) := by
  refine of_wide rfl ?_ ?_
  have h_g := g.isLt
  have h_w := w.isLt
  have h_b := b.isLt
  have h_a := a.isLt
  have h_d := d.isLt
  all_goals simp only [packed]; omega
theorem vshrI (g : BitVec 4) (w : BitVec 2) (b : BitVec 5) (a : BitVec 5) (d : BitVec 5) : Statement (.vshrI g w b a d) := by
  refine of_wide rfl ?_ ?_
  have h_g := g.isLt
  have h_w := w.isLt
  have h_b := b.isLt
  have h_a := a.isLt
  have h_d := d.isLt
  all_goals simp only [packed]; omega
theorem vcmp (g : BitVec 4) (c : BitVec 3) (w : BitVec 2) (b : BitVec 5) (a : BitVec 5) (l : BitVec 2) (p : BitVec 3) : Statement (.vcmp g c w b a l p) := by
  refine of_wide rfl ?_ ?_
  have h_g := g.isLt
  have h_c := c.isLt
  have h_w := w.isLt
  have h_b := b.isLt
  have h_a := a.isLt
  have h_l := l.isLt
  have h_p := p.isLt
  all_goals simp only [packed]; omega
theorem vsel (g : BitVec 4) (w : BitVec 2) (b : BitVec 5) (a : BitVec 5) (d : BitVec 5) : Statement (.vsel g w b a d) := by
  refine of_wide rfl ?_ ?_
  have h_g := g.isLt
  have h_w := w.isLt
  have h_b := b.isLt
  have h_a := a.isLt
  have h_d := d.isLt
  all_goals simp only [packed]; omega
theorem vcvt (g : BitVec 4) (r : BitVec 3) (t : BitVec 4) (sx : BitVec 4) (a : BitVec 5) (d : BitVec 5) : Statement (.vcvt g r t sx a d) := by
  refine of_wide rfl ?_ ?_
  have h_g := g.isLt
  have h_r := r.isLt
  have h_t := t.isLt
  have h_sx := sx.isLt
  have h_a := a.isLt
  have h_d := d.isLt
  all_goals simp only [packed]; omega
theorem vdup (g : BitVec 4) (w : BitVec 2) (a : BitVec 5) (d : BitVec 5) : Statement (.vdup g w a d) := by
  refine of_wide rfl ?_ ?_
  have h_g := g.isLt
  have h_w := w.isLt
  have h_a := a.isLt
  have h_d := d.isLt
  all_goals simp only [packed]; omega
theorem vget (g : BitVec 4) (w : BitVec 2) (j : BitVec 5) (a : BitVec 5) (d : BitVec 5) : Statement (.vget g w j a d) := by
  refine of_wide rfl ?_ ?_
  have h_g := g.isLt
  have h_w := w.isLt
  have h_j := j.isLt
  have h_a := a.isLt
  have h_d := d.isLt
  all_goals simp only [packed]; omega
theorem vins (g : BitVec 4) (w : BitVec 2) (j : BitVec 5) (a : BitVec 5) (d : BitVec 5) : Statement (.vins g w j a d) := by
  refine of_wide rfl ?_ ?_
  have h_g := g.isLt
  have h_w := w.isLt
  have h_j := j.isLt
  have h_a := a.isLt
  have h_d := d.isLt
  all_goals simp only [packed]; omega
theorem viota (g : BitVec 4) (w : BitVec 2) (a : BitVec 5) (d : BitVec 5) : Statement (.viota g w a d) := by
  refine of_wide rfl ?_ ?_
  have h_g := g.isLt
  have h_w := w.isLt
  have h_a := a.isLt
  have h_d := d.isLt
  all_goals simp only [packed]; omega
theorem vperm (g : BitVec 4) (w : BitVec 2) (b : BitVec 5) (a : BitVec 5) (d : BitVec 5) : Statement (.vperm g w b a d) := by
  refine of_wide rfl ?_ ?_
  have h_g := g.isLt
  have h_w := w.isLt
  have h_b := b.isLt
  have h_a := a.isLt
  have h_d := d.isLt
  all_goals simp only [packed]; omega
theorem vreds (g : BitVec 4) (t : BitVec 4) (a : BitVec 5) (d : BitVec 5) : Statement (.vreds g t a d) := by
  refine of_wide rfl ?_ ?_
  have h_g := g.isLt
  have h_t := t.isLt
  have h_a := a.isLt
  have h_d := d.isLt
  all_goals simp only [packed]; omega
theorem vredm (g : BitVec 4) (t : BitVec 4) (m : BitVec 1) (a : BitVec 5) (d : BitVec 5) : Statement (.vredm g t m a d) := by
  refine of_wide rfl ?_ ?_
  have h_g := g.isLt
  have h_t := t.isLt
  have h_m := m.isLt
  have h_a := a.isLt
  have h_d := d.isLt
  all_goals simp only [packed]; omega
theorem vdot (g : BitVec 4) (t : BitVec 4) (b : BitVec 5) (a : BitVec 5) (d : BitVec 5) : Statement (.vdot g t b a d) := by
  refine of_wide rfl ?_ ?_
  have h_g := g.isLt
  have h_t := t.isLt
  have h_b := b.isLt
  have h_a := a.isLt
  have h_d := d.isLt
  all_goals simp only [packed]; omega
theorem vscan (g : BitVec 4) (t : BitVec 4) (a : BitVec 5) (d : BitVec 5) : Statement (.vscan g t a d) := by
  refine of_wide rfl ?_ ?_
  have h_g := g.isLt
  have h_t := t.isLt
  have h_a := a.isLt
  have h_d := d.isLt
  all_goals simp only [packed]; omega
theorem vsort (g : BitVec 4) (e : BitVec 1) (k : BitVec 1) (c : BitVec 4) (b : BitVec 5) (a : BitVec 5) (d : BitVec 5) : Statement (.vsort g e k c b a d) := by
  refine of_wide rfl ?_ ?_
  have h_g := g.isLt
  have h_e := e.isLt
  have h_k := k.isLt
  have h_c := c.isLt
  have h_b := b.isLt
  have h_a := a.isLt
  have h_d := d.isLt
  all_goals simp only [packed]; omega
theorem vmxq (g : BitVec 4) (e : BitVec 3) (t : BitVec 2) (r : BitVec 3) (a : BitVec 5) (d : BitVec 5) : Statement (.vmxq g e t r a d) := by
  refine of_wide rfl ?_ ?_
  have h_g := g.isLt
  have h_e := e.isLt
  have h_t := t.isLt
  have h_r := r.isLt
  have h_a := a.isLt
  have h_d := d.isLt
  all_goals simp only [packed]; omega
theorem vmxd (g : BitVec 4) (e : BitVec 3) (t : BitVec 2) (a : BitVec 5) (d : BitVec 5) : Statement (.vmxd g e t a d) := by
  refine of_wide rfl ?_ ?_
  have h_g := g.isLt
  have h_e := e.isLt
  have h_t := t.isLt
  have h_a := a.isLt
  have h_d := d.isLt
  all_goals simp only [packed]; omega
theorem vlut (g : BitVec 4) (w : BitVec 2) (b : BitVec 5) (a : BitVec 5) (d : BitVec 5) : Statement (.vlut g w b a d) := by
  refine of_wide rfl ?_ ?_
  have h_g := g.isLt
  have h_w := w.isLt
  have h_b := b.isLt
  have h_a := a.isLt
  have h_d := d.isLt
  all_goals simp only [packed]; omega
theorem rinit (g : BitVec 4) (q : BitVec 4) (a : BitVec 5) : Statement (.rinit g q a) := by
  refine of_wide rfl ?_ ?_
  have h_g := g.isLt
  have h_q := q.isLt
  have h_a := a.isLt
  all_goals simp only [packed]; omega
theorem radvHead (g : BitVec 4) (q : BitVec 4) (a : BitVec 5) : Statement (.radvHead g q a) := by
  refine of_wide rfl ?_ ?_
  have h_g := g.isLt
  have h_q := q.isLt
  have h_a := a.isLt
  all_goals simp only [packed]; omega
theorem radvTail (g : BitVec 4) (q : BitVec 4) (a : BitVec 5) : Statement (.radvTail g q a) := by
  refine of_wide rfl ?_ ?_
  have h_g := g.isLt
  have h_q := q.isLt
  have h_a := a.isLt
  all_goals simp only [packed]; omega
theorem rwaitHead (g : BitVec 4) (q : BitVec 4) (a : BitVec 5) (d : BitVec 5) : Statement (.rwaitHead g q a d) := by
  refine of_wide rfl ?_ ?_
  have h_g := g.isLt
  have h_q := q.isLt
  have h_a := a.isLt
  have h_d := d.isLt
  all_goals simp only [packed]; omega
theorem rwaitTail (g : BitVec 4) (q : BitVec 4) (a : BitVec 5) (d : BitVec 5) : Statement (.rwaitTail g q a d) := by
  refine of_wide rfl ?_ ?_
  have h_g := g.isLt
  have h_q := q.isLt
  have h_a := a.isLt
  have h_d := d.isLt
  all_goals simp only [packed]; omega
theorem rstat (g : BitVec 4) (q : BitVec 4) (d : BitVec 5) : Statement (.rstat g q d) := by
  refine of_wide rfl ?_ ?_
  have h_g := g.isLt
  have h_q := q.isLt
  have h_d := d.isLt
  all_goals simp only [packed]; omega
theorem tmma (g : BitVec 4) (t : BitVec 3) (c : BitVec 4) (b : BitVec 4) (a : BitVec 4) : Statement (.tmma g t c b a) := by
  refine of_wide rfl ?_ ?_
  have h_g := g.isLt
  have h_t := t.isLt
  have h_c := c.isLt
  have h_b := b.isLt
  have h_a := a.isLt
  all_goals simp only [packed]; omega
theorem tmmx (g : BitVec 4) (t : BitVec 3) (c : BitVec 4) (b : BitVec 4) (a : BitVec 4) : Statement (.tmmx g t c b a) := by
  refine of_wide rfl ?_ ?_
  have h_g := g.isLt
  have h_t := t.isLt
  have h_c := c.isLt
  have h_b := b.isLt
  have h_a := a.isLt
  all_goals simp only [packed]; omega
theorem tzero (g : BitVec 4) (c : BitVec 4) : Statement (.tzero g c) := by
  refine of_wide rfl ?_ ?_
  have h_g := g.isLt
  have h_c := c.isLt
  all_goals simp only [packed]; omega
theorem tloada (g : BitVec 4) (t : BitVec 4) (c : BitVec 4) (q : BitVec 4) : Statement (.tloada g t c q) := by
  refine of_wide rfl ?_ ?_
  have h_g := g.isLt
  have h_t := t.isLt
  have h_c := c.isLt
  have h_q := q.isLt
  all_goals simp only [packed]; omega
theorem tstore (g : BitVec 4) (t : BitVec 4) (c : BitVec 4) (q : BitVec 4) (e : BitVec 3) : Statement (.tstore g t c q e) := by
  refine of_wide rfl ?_ ?_
  have h_g := g.isLt
  have h_t := t.isLt
  have h_c := c.isLt
  have h_q := q.isLt
  have h_e := e.isLt
  all_goals simp only [packed]; omega
theorem ttrn (g : BitVec 4) (t : BitVec 4) (sx : BitVec 4) (q : BitVec 4) : Statement (.ttrn g t sx q) := by
  refine of_wide rfl ?_ ?_
  have h_g := g.isLt
  have h_t := t.isLt
  have h_sx := sx.isLt
  have h_q := q.isLt
  all_goals simp only [packed]; omega
theorem tscl (g : BitVec 4) (z : BitVec 2) (a : BitVec 5) : Statement (.tscl g z a) := by
  refine of_wide rfl ?_ ?_
  have h_g := g.isLt
  have h_z := z.isLt
  have h_a := a.isLt
  all_goals simp only [packed]; omega
theorem slab (g : BitVec 4) (q : BitVec 4) (a : BitVec 5) : Statement (.slab g q a) := by
  refine of_wide rfl ?_ ?_
  have h_g := g.isLt
  have h_q := q.isLt
  have h_a := a.isLt
  all_goals simp only [packed]; omega
theorem spawn (g : BitVec 4) (q : BitVec 1) (d : BitVec 5) : Statement (.spawn g q d) := by
  refine of_wide rfl ?_ ?_
  have h_g := g.isLt
  have h_q := q.isLt
  have h_d := d.isLt
  all_goals simp only [packed]; omega
theorem quit (g : BitVec 4) : Statement (.quit g) := by
  refine of_wide rfl ?_ ?_
  have h_g := g.isLt
  all_goals simp only [packed]; omega
theorem commit (g : BitVec 4) : Statement (.commit g) := by
  refine of_wide rfl ?_ ?_
  have h_g := g.isLt
  all_goals simp only [packed]; omega
theorem yield (g : BitVec 4) : Statement (.yield g) := by
  refine of_wide rfl ?_ ?_
  have h_g := g.isLt
  all_goals simp only [packed]; omega
theorem prio (g : BitVec 4) (a : BitVec 5) : Statement (.prio g a) := by
  refine of_wide rfl ?_ ?_
  have h_g := g.isLt
  have h_a := a.isLt
  all_goals simp only [packed]; omega
theorem chopen (g : BitVec 4) (q : BitVec 1) (p : BitVec 6) (a : BitVec 5) (d : BitVec 5) : Statement (.chopen g q p a d) := by
  refine of_wide rfl ?_ ?_
  have h_g := g.isLt
  have h_q := q.isLt
  have h_p := p.isLt
  have h_a := a.isLt
  have h_d := d.isLt
  all_goals simp only [packed]; omega
theorem chbind (g : BitVec 4) (q : BitVec 1) (p : BitVec 6) (a : BitVec 5) (d : BitVec 5) : Statement (.chbind g q p a d) := by
  refine of_wide rfl ?_ ?_
  have h_g := g.isLt
  have h_q := q.isLt
  have h_p := p.isLt
  have h_a := a.isLt
  have h_d := d.isLt
  all_goals simp only [packed]; omega
theorem chclose (g : BitVec 4) (q : BitVec 1) (p : BitVec 6) (d : BitVec 5) : Statement (.chclose g q p d) := by
  refine of_wide rfl ?_ ?_
  have h_g := g.isLt
  have h_q := q.isLt
  have h_p := p.isLt
  have h_d := d.isLt
  all_goals simp only [packed]; omega
theorem chstat (g : BitVec 4) (p : BitVec 6) (sx : BitVec 5) (d : BitVec 5) : Statement (.chstat g p sx d) := by
  refine of_wide rfl ?_ ?_
  have h_g := g.isLt
  have h_p := p.isLt
  have h_sx := sx.isLt
  have h_d := d.isLt
  all_goals simp only [packed]; omega
theorem wrel (g : BitVec 4) (q : BitVec 1) (p : BitVec 6) (d : BitVec 5) : Statement (.wrel g q p d) := by
  refine of_wide rfl ?_ ?_
  have h_g := g.isLt
  have h_q := q.isLt
  have h_p := p.isLt
  have h_d := d.isLt
  all_goals simp only [packed]; omega
theorem send (g : BitVec 4) (q : BitVec 1) (p : BitVec 6) (a : BitVec 5) (d : BitVec 5) : Statement (.send g q p a d) := by
  refine of_wide rfl ?_ ?_
  have h_g := g.isLt
  have h_q := q.isLt
  have h_p := p.isLt
  have h_a := a.isLt
  have h_d := d.isLt
  all_goals simp only [packed]; omega
theorem recv (g : BitVec 4) (q : BitVec 1) (p : BitVec 6) (a : BitVec 5) (d : BitVec 5) : Statement (.recv g q p a d) := by
  refine of_wide rfl ?_ ?_
  have h_g := g.isLt
  have h_q := q.isLt
  have h_p := p.isLt
  have h_a := a.isLt
  have h_d := d.isLt
  all_goals simp only [packed]; omega
theorem sendv (g : BitVec 4) (q : BitVec 1) (p : BitVec 6) (a : BitVec 5) (d : BitVec 5) : Statement (.sendv g q p a d) := by
  refine of_wide rfl ?_ ?_
  have h_g := g.isLt
  have h_q := q.isLt
  have h_p := p.isLt
  have h_a := a.isLt
  have h_d := d.isLt
  all_goals simp only [packed]; omega
theorem recvv (g : BitVec 4) (q : BitVec 1) (p : BitVec 6) (a : BitVec 5) (d : BitVec 5) : Statement (.recvv g q p a d) := by
  refine of_wide rfl ?_ ?_
  have h_g := g.isLt
  have h_q := q.isLt
  have h_p := p.isLt
  have h_a := a.isLt
  have h_d := d.isLt
  all_goals simp only [packed]; omega
theorem sendt (g : BitVec 4) (q : BitVec 1) (p : BitVec 6) (a : BitVec 5) (d : BitVec 5) : Statement (.sendt g q p a d) := by
  refine of_wide rfl ?_ ?_
  have h_g := g.isLt
  have h_q := q.isLt
  have h_p := p.isLt
  have h_a := a.isLt
  have h_d := d.isLt
  all_goals simp only [packed]; omega
theorem recvt (g : BitVec 4) (q : BitVec 1) (p : BitVec 6) (a : BitVec 5) (d : BitVec 5) : Statement (.recvt g q p a d) := by
  refine of_wide rfl ?_ ?_
  have h_g := g.isLt
  have h_q := q.isLt
  have h_p := p.isLt
  have h_a := a.isLt
  have h_d := d.isLt
  all_goals simp only [packed]; omega
theorem alt (g : BitVec 4) (n : BitVec 3) (d : BitVec 5) : Statement (.alt g n d) := by
  refine of_wide rfl ?_ ?_
  have h_g := g.isLt
  have h_n := n.isLt
  have h_d := d.isLt
  all_goals simp only [packed]; omega
theorem launch (g : BitVec 4) (q : BitVec 1) (b : BitVec 5) (d : BitVec 5) : Statement (.launch g q b d) := by
  refine of_wide rfl ?_ ?_
  have h_g := g.isLt
  have h_q := q.isLt
  have h_b := b.isLt
  have h_d := d.isLt
  all_goals simp only [packed]; omega
theorem lwait (g : BitVec 4) (q : BitVec 1) (b : BitVec 5) (a : BitVec 5) (d : BitVec 5) : Statement (.lwait g q b a d) := by
  refine of_wide rfl ?_ ?_
  have h_g := g.isLt
  have h_q := q.isLt
  have h_b := b.isLt
  have h_a := a.isLt
  have h_d := d.isLt
  all_goals simp only [packed]; omega
theorem lcancel (g : BitVec 4) (q : BitVec 1) (a : BitVec 5) (d : BitVec 5) : Statement (.lcancel g q a d) := by
  refine of_wide rfl ?_ ?_
  have h_g := g.isLt
  have h_q := q.isLt
  have h_a := a.isLt
  have h_d := d.isLt
  all_goals simp only [packed]; omega
theorem ldep (g : BitVec 4) (q : BitVec 1) (b : BitVec 5) (a : BitVec 5) (d : BitVec 5) : Statement (.ldep g q b a d) := by
  refine of_wide rfl ?_ ?_
  have h_g := g.isLt
  have h_q := q.isLt
  have h_b := b.isLt
  have h_a := a.isLt
  have h_d := d.isLt
  all_goals simp only [packed]; omega
theorem graphOpen (g : BitVec 4) (q : BitVec 1) (a : BitVec 5) (d : BitVec 5) : Statement (.graphOpen g q a d) := by
  refine of_wide rfl ?_ ?_
  have h_g := g.isLt
  have h_q := q.isLt
  have h_a := a.isLt
  have h_d := d.isLt
  all_goals simp only [packed]; omega
theorem graphClose (g : BitVec 4) (q : BitVec 1) (a : BitVec 5) (d : BitVec 5) : Statement (.graphClose g q a d) := by
  refine of_wide rfl ?_ ?_
  have h_g := g.isLt
  have h_q := q.isLt
  have h_a := a.isLt
  have h_d := d.isLt
  all_goals simp only [packed]; omega
theorem jcancel (g : BitVec 4) (q : BitVec 1) (a : BitVec 5) (d : BitVec 5) : Statement (.jcancel g q a d) := by
  refine of_wide rfl ?_ ?_
  have h_g := g.isLt
  have h_q := q.isLt
  have h_a := a.isLt
  have h_d := d.isLt
  all_goals simp only [packed]; omega
theorem nextt (g : BitVec 4) (q : BitVec 1) (b : BitVec 5) (a : BitVec 5) (d : BitVec 5) : Statement (.nextt g q b a d) := by
  refine of_wide rfl ?_ ?_
  have h_g := g.isLt
  have h_q := q.isLt
  have h_b := b.isLt
  have h_a := a.isLt
  have h_d := d.isLt
  all_goals simp only [packed]; omega
theorem gsendScalar (g : BitVec 4) (q : BitVec 1) (p : BitVec 6) (a : BitVec 5) (d : BitVec 5) : Statement (.gsendScalar g q p a d) := by
  refine of_wide rfl ?_ ?_
  have h_g := g.isLt
  have h_q := q.isLt
  have h_p := p.isLt
  have h_a := a.isLt
  have h_d := d.isLt
  all_goals simp only [packed]; omega
theorem gsendVector (g : BitVec 4) (q : BitVec 1) (p : BitVec 6) (a : BitVec 5) (d : BitVec 5) : Statement (.gsendVector g q p a d) := by
  refine of_wide rfl ?_ ?_
  have h_g := g.isLt
  have h_q := q.isLt
  have h_p := p.isLt
  have h_a := a.isLt
  have h_d := d.isLt
  all_goals simp only [packed]; omega
theorem grecvScalar (g : BitVec 4) (q : BitVec 1) (p : BitVec 6) (a : BitVec 5) (d : BitVec 5) : Statement (.grecvScalar g q p a d) := by
  refine of_wide rfl ?_ ?_
  have h_g := g.isLt
  have h_q := q.isLt
  have h_p := p.isLt
  have h_a := a.isLt
  have h_d := d.isLt
  all_goals simp only [packed]; omega
theorem grecvVector (g : BitVec 4) (q : BitVec 1) (p : BitVec 6) (a : BitVec 5) (d : BitVec 5) : Statement (.grecvVector g q p a d) := by
  refine of_wide rfl ?_ ?_
  have h_g := g.isLt
  have h_q := q.isLt
  have h_p := p.isLt
  have h_a := a.isLt
  have h_d := d.isLt
  all_goals simp only [packed]; omega
theorem gcfg (g : BitVec 4) (p : BitVec 6) (a : BitVec 5) : Statement (.gcfg g p a) := by
  refine of_wide rfl ?_ ?_
  have h_g := g.isLt
  have h_p := p.isLt
  have h_a := a.isLt
  all_goals simp only [packed]; omega
theorem gcfgPort (g : BitVec 4) (p : BitVec 6) (a : BitVec 5) : Statement (.gcfgPort g p a) := by
  refine of_wide rfl ?_ ?_
  have h_g := g.isLt
  have h_p := p.isLt
  have h_a := a.isLt
  all_goals simp only [packed]; omega
theorem dsend (g : BitVec 4) (q : BitVec 1) (p : BitVec 6) (a : BitVec 5) (d : BitVec 5) : Statement (.dsend g q p a d) := by
  refine of_wide rfl ?_ ?_
  have h_g := g.isLt
  have h_q := q.isLt
  have h_p := p.isLt
  have h_a := a.isLt
  have h_d := d.isLt
  all_goals simp only [packed]; omega
theorem dstat (g : BitVec 4) (p : BitVec 6) (a : BitVec 5) (d : BitVec 5) : Statement (.dstat g p a d) := by
  refine of_wide rfl ?_ ?_
  have h_g := g.isLt
  have h_p := p.isLt
  have h_a := a.isLt
  have h_d := d.isLt
  all_goals simp only [packed]; omega
theorem copy (g : BitVec 4) (q : BitVec 1) (d : BitVec 5) : Statement (.copy g q d) := by
  refine of_wide rfl ?_ ?_
  have h_g := g.isLt
  have h_q := q.isLt
  have h_d := d.isLt
  all_goals simp only [packed]; omega
theorem copya (g : BitVec 4) (q : BitVec 1) (k : BitVec 4) (a : BitVec 5) (d : BitVec 5) : Statement (.copya g q k a d) := by
  refine of_wide rfl ?_ ?_
  have h_g := g.isLt
  have h_q := q.isLt
  have h_k := k.isLt
  have h_a := a.isLt
  have h_d := d.isLt
  all_goals simp only [packed]; omega
theorem cstat (g : BitVec 4) (k : BitVec 4) (sx : BitVec 5) (d : BitVec 5) : Statement (.cstat g k sx d) := by
  refine of_wide rfl ?_ ?_
  have h_g := g.isLt
  have h_k := k.isLt
  have h_sx := sx.isLt
  have h_d := d.isLt
  all_goals simp only [packed]; omega
theorem ctradd (g : BitVec 4) (q : BitVec 1) (k : BitVec 4) (a : BitVec 5) (d : BitVec 5) : Statement (.ctradd g q k a d) := by
  refine of_wide rfl ?_ ?_
  have h_g := g.isLt
  have h_q := q.isLt
  have h_k := k.isLt
  have h_a := a.isLt
  have h_d := d.isLt
  all_goals simp only [packed]; omega
theorem ctrset (g : BitVec 4) (q : BitVec 1) (c : BitVec 1) (k : BitVec 4) (a : BitVec 5) (d : BitVec 5) : Statement (.ctrset g q c k a d) := by
  refine of_wide rfl ?_ ?_
  have h_g := g.isLt
  have h_q := q.isLt
  have h_c := c.isLt
  have h_k := k.isLt
  have h_a := a.isLt
  have h_d := d.isLt
  all_goals simp only [packed]; omega
theorem tbexp (g : BitVec 4) (q : BitVec 1) (k : BitVec 3) (a : BitVec 5) (d : BitVec 5) : Statement (.tbexp g q k a d) := by
  refine of_wide rfl ?_ ?_
  have h_g := g.isLt
  have h_q := q.isLt
  have h_k := k.isLt
  have h_a := a.isLt
  have h_d := d.isLt
  all_goals simp only [packed]; omega
theorem tbarr (g : BitVec 4) (q : BitVec 1) (k : BitVec 3) (d : BitVec 5) : Statement (.tbarr g q k d) := by
  refine of_wide rfl ?_ ?_
  have h_g := g.isLt
  have h_q := q.isLt
  have h_k := k.isLt
  have h_d := d.isLt
  all_goals simp only [packed]; omega
theorem proof (g : BitVec 4) (a : BitVec 5) : Statement (.proof g a) := by
  refine of_wide rfl ?_ ?_
  have h_g := g.isLt
  have h_a := a.isLt
  all_goals simp only [packed]; omega
theorem pverd (g : BitVec 4) (d : BitVec 5) : Statement (.pverd g d) := by
  refine of_wide rfl ?_ ?_
  have h_g := g.isLt
  have h_d := d.isLt
  all_goals simp only [packed]; omega
theorem hload (g : BitVec 4) (b : BitVec 5) (a : BitVec 5) (d : BitVec 5) : Statement (.hload g b a d) := by
  refine of_wide rfl ?_ ?_
  have h_g := g.isLt
  have h_b := b.isLt
  have h_a := a.isLt
  have h_d := d.isLt
  all_goals simp only [packed]; omega
theorem hstore (g : BitVec 4) (b : BitVec 5) (a : BitVec 5) (d : BitVec 5) : Statement (.hstore g b a d) := by
  refine of_wide rfl ?_ ?_
  have h_g := g.isLt
  have h_b := b.isLt
  have h_a := a.isLt
  have h_d := d.isLt
  all_goals simp only [packed]; omega
theorem hpush (g : BitVec 4) (b : BitVec 5) (a : BitVec 5) (d : BitVec 5) : Statement (.hpush g b a d) := by
  refine of_wide rfl ?_ ?_
  have h_g := g.isLt
  have h_b := b.isLt
  have h_a := a.isLt
  have h_d := d.isLt
  all_goals simp only [packed]; omega
theorem hdrain (g : BitVec 4) (d : BitVec 5) : Statement (.hdrain g d) := by
  refine of_wide rfl ?_ ?_
  have h_g := g.isLt
  have h_d := d.isLt
  all_goals simp only [packed]; omega
theorem tlbp (g : BitVec 4) (b : BitVec 5) (a : BitVec 5) (d : BitVec 5) : Statement (.tlbp g b a d) := by
  refine of_wide rfl ?_ ?_
  have h_g := g.isLt
  have h_b := b.isLt
  have h_a := a.isLt
  have h_d := d.isLt
  all_goals simp only [packed]; omega
theorem cNop : Statement .cNop := by
  refine of_compact rfl ?_ ?_
  all_goals decide
theorem cMov (a : BitVec 4) (d : BitVec 4) : Statement (.cMov a d) := by
  refine of_compact rfl ?_ ?_
  have h_a := a.isLt
  have h_d := d.isLt
  all_goals simp only [packed]; omega
theorem cAdd (a : BitVec 4) (d : BitVec 4) : Statement (.cAdd a d) := by
  refine of_compact rfl ?_ ?_
  have h_a := a.isLt
  have h_d := d.isLt
  all_goals simp only [packed]; omega
theorem cAddi (k : BitVec 7) (d : BitVec 4) : Statement (.cAddi k d) := by
  refine of_compact rfl ?_ ?_
  have h_k := k.isLt
  have h_d := d.isLt
  all_goals simp only [packed]; omega
theorem cSub (a : BitVec 4) (d : BitVec 4) : Statement (.cSub a d) := by
  refine of_compact rfl ?_ ?_
  have h_a := a.isLt
  have h_d := d.isLt
  all_goals simp only [packed]; omega
theorem cAnd (a : BitVec 4) (d : BitVec 4) : Statement (.cAnd a d) := by
  refine of_compact rfl ?_ ?_
  have h_a := a.isLt
  have h_d := d.isLt
  all_goals simp only [packed]; omega
theorem cOr (a : BitVec 4) (d : BitVec 4) : Statement (.cOr a d) := by
  refine of_compact rfl ?_ ?_
  have h_a := a.isLt
  have h_d := d.isLt
  all_goals simp only [packed]; omega
theorem cXor (a : BitVec 4) (d : BitVec 4) : Statement (.cXor a d) := by
  refine of_compact rfl ?_ ?_
  have h_a := a.isLt
  have h_d := d.isLt
  all_goals simp only [packed]; omega
theorem cShli (sx : BitVec 6) (d : BitVec 4) : Statement (.cShli sx d) := by
  refine of_compact rfl ?_ ?_
  have h_sx := sx.isLt
  have h_d := d.isLt
  all_goals simp only [packed]; omega
theorem cLi (k : BitVec 7) (d : BitVec 4) : Statement (.cLi k d) := by
  refine of_compact rfl ?_ ?_
  have h_k := k.isLt
  have h_d := d.isLt
  all_goals simp only [packed]; omega
theorem cLd (j : BitVec 3) (a : BitVec 4) (d : BitVec 4) : Statement (.cLd j a d) := by
  refine of_compact rfl ?_ ?_
  have h_j := j.isLt
  have h_a := a.isLt
  have h_d := d.isLt
  all_goals simp only [packed]; omega
theorem cSt (j : BitVec 3) (a : BitVec 4) (d : BitVec 4) : Statement (.cSt j a d) := by
  refine of_compact rfl ?_ ?_
  have h_j := j.isLt
  have h_a := a.isLt
  have h_d := d.isLt
  all_goals simp only [packed]; omega
theorem cBr (k : BitVec 7) (n : BitVec 1) (p : BitVec 3) : Statement (.cBr k n p) := by
  refine of_compact rfl ?_ ?_
  have h_k := k.isLt
  have h_n := n.isLt
  have h_p := p.isLt
  all_goals simp only [packed]; omega
theorem cJ (k : BitVec 11) : Statement (.cJ k) := by
  refine of_compact rfl ?_ ?_
  have h_k := k.isLt
  all_goals simp only [packed]; omega
theorem cRecv (p : BitVec 4) (d : BitVec 4) : Statement (.cRecv p d) := by
  refine of_compact rfl ?_ ?_
  have h_p := p.isLt
  have h_d := d.isLt
  all_goals simp only [packed]; omega
theorem cSend (p : BitVec 4) (a : BitVec 4) : Statement (.cSend p a) := by
  refine of_compact rfl ?_ ?_
  have h_p := p.isLt
  have h_a := a.isLt
  all_goals simp only [packed]; omega
theorem illegalWord (w : Nat) : Statement (.illegalWord w) := of_none rfl
theorem iflushDone : Statement .iflushDone := of_none rfl
theorem granulePollReissue : Statement .granulePollReissue := of_none rfl
theorem releaseWaitDone : Statement .releaseWaitDone := of_none rfl
theorem vectorUnitGrant : Statement .vectorUnitGrant := of_none rfl
theorem vectorResult : Statement .vectorResult := of_none rfl
theorem dividerGrant : Statement .dividerGrant := of_none rfl
theorem dividerDone : Statement .dividerDone := of_none rfl
theorem tileAccept : Statement .tileAccept := of_none rfl
theorem tileStart : Statement .tileStart := of_none rfl
theorem tileActivationGrant : Statement .tileActivationGrant := of_none rfl
theorem tileComplete : Statement .tileComplete := of_none rfl
theorem yieldEnd : Statement .yieldEnd := of_none rfl
theorem spawnRecordAccept : Statement .spawnRecordAccept := of_none rfl
theorem spawnAnswer : Statement .spawnAnswer := of_none rfl
theorem slotAssign : Statement .slotAssign := of_none rfl
theorem windowClearDone : Statement .windowClearDone := of_none rfl
theorem parkStart : Statement .parkStart := of_none rfl
theorem parkDone : Statement .parkDone := of_none rfl
theorem parkRestoreDone : Statement .parkRestoreDone := of_none rfl
theorem stageFiring : Statement .stageFiring := of_none rfl
theorem altTimeout : Statement .altTimeout := of_none rfl
theorem creditRequestArrive : Statement .creditRequestArrive := of_none rfl
theorem creditGrant : Statement .creditGrant := of_none rfl
theorem channelAnswer : Statement .channelAnswer := of_none rfl
theorem messageArrive : Statement .messageArrive := of_none rfl
theorem creditReturn : Statement .creditReturn := of_none rfl
theorem bindQueryArrive : Statement .bindQueryArrive := of_none rfl
theorem tileTransferData : Statement .tileTransferData := of_none rfl
theorem deadlockProbeStart : Statement .deadlockProbeStart := of_none rfl
theorem deadlockProbe : Statement .deadlockProbe := of_none rfl
theorem launchRequestArrive : Statement .launchRequestArrive := of_none rfl
theorem launchAnswer : Statement .launchAnswer := of_none rfl
theorem launchRelease : Statement .launchRelease := of_none rfl
theorem launchWake : Statement .launchWake := of_none rfl
theorem launchCounterDecrement : Statement .launchCounterDecrement := of_none rfl
theorem cancelArrive : Statement .cancelArrive := of_none rfl
theorem combineContributionArrive : Statement .combineContributionArrive := of_none rfl
theorem combineSequence : Statement .combineSequence := of_none rfl
theorem combineResultArrive : Statement .combineResultArrive := of_none rfl
theorem combineCreditArrive : Statement .combineCreditArrive := of_none rfl
theorem dispatchClaimArrive : Statement .dispatchClaimArrive := of_none rfl
theorem dispatchClaimAnswer : Statement .dispatchClaimAnswer := of_none rfl
theorem dispatchRowArrive : Statement .dispatchRowArrive := of_none rfl
theorem copyAccept : Statement .copyAccept := of_none rfl
theorem copyUnitSend : Statement .copyUnitSend := of_none rfl
theorem copyUnitRead : Statement .copyUnitRead := of_none rfl
theorem copyUnitWrite : Statement .copyUnitWrite := of_none rfl
theorem copyUnitAck : Statement .copyUnitAck := of_none rfl
theorem galleyWrite : Statement .galleyWrite := of_none rfl
theorem draftSettled : Statement .draftSettled := of_none rfl
theorem galleyPrepare : Statement .galleyPrepare := of_none rfl
theorem galleyPrepareAnswer : Statement .galleyPrepareAnswer := of_none rfl
theorem galleyPublish : Statement .galleyPublish := of_none rfl
theorem galleyPublishAck : Statement .galleyPublishAck := of_none rfl
theorem galleyDiscard : Statement .galleyDiscard := of_none rfl
theorem galleyDiscardAck : Statement .galleyDiscardAck := of_none rfl
theorem memcoreOpAccept : Statement .memcoreOpAccept := of_none rfl
theorem hloadLineArrive : Statement .hloadLineArrive := of_none rfl
theorem hstoreLineDone : Statement .hstoreLineDone := of_none rfl
theorem memcoreOpComplete : Statement .memcoreOpComplete := of_none rfl
theorem ringClaimArrive : Statement .ringClaimArrive := of_none rfl
theorem ringClaimGrant : Statement .ringClaimGrant := of_none rfl
theorem ringClaimAnswer : Statement .ringClaimAnswer := of_none rfl
theorem ringPushData : Statement .ringPushData := of_none rfl
theorem forwardCreditGrant : Statement .forwardCreditGrant := of_none rfl
theorem forwardSend : Statement .forwardSend := of_none rfl
theorem forwardDataArrive : Statement .forwardDataArrive := of_none rfl
theorem forwardAck : Statement .forwardAck := of_none rfl
theorem forwardFailure : Statement .forwardFailure := of_none rfl
theorem amoAtHome : Statement .amoAtHome := of_none rfl
theorem nexttAtHome : Statement .nexttAtHome := of_none rfl
theorem amoReply : Statement .amoReply := of_none rfl
theorem remoteAccessArrive : Statement .remoteAccessArrive := of_none rfl
theorem remoteLoadReply : Statement .remoteLoadReply := of_none rfl
theorem storeAck : Statement .storeAck := of_none rfl
theorem hostWritebackDone : Statement .hostWritebackDone := of_none rfl
theorem lapseReject : Statement .lapseReject := of_none rfl
theorem walkComplete : Statement .walkComplete := of_none rfl
theorem walkRestart : Statement .walkRestart := of_none rfl
theorem translationExpiry : Statement .translationExpiry := of_none rfl
theorem leaseRenewal : Statement .leaseRenewal := of_none rfl
theorem leaseTick : Statement .leaseTick := of_none rfl
theorem leaseResync : Statement .leaseResync := of_none rfl
theorem watchNotify : Statement .watchNotify := of_none rfl
theorem watchPoll : Statement .watchPoll := of_none rfl
theorem faultRecordSend : Statement .faultRecordSend := of_none rfl
theorem faultRecordRetry : Statement .faultRecordRetry := of_none rfl
theorem wakeRetry : Statement .wakeRetry := of_none rfl
theorem wakeKill : Statement .wakeKill := of_none rfl
theorem wakeAbandon : Statement .wakeAbandon := of_none rfl
theorem coreSave : Statement .coreSave := of_none rfl
theorem coreRestore : Statement .coreRestore := of_none rfl
theorem coreWatchdog : Statement .coreWatchdog := of_none rfl
theorem linkWatchdog : Statement .linkWatchdog := of_none rfl
theorem fenceSalvage : Statement .fenceSalvage := of_none rfl
theorem eccCorrectable : Statement .eccCorrectable := of_none rfl
theorem eccUncorrectable : Statement .eccUncorrectable := of_none rfl
theorem dbgHalt : Statement .dbgHalt := of_none rfl
theorem dbgResume : Statement .dbgResume := of_none rfl
theorem dbgStep : Statement .dbgStep := of_none rfl
theorem dbgaccRead : Statement .dbgaccRead := of_none rfl
theorem dbgaccWrite : Statement .dbgaccWrite := of_none rfl
theorem traceDrain : Statement .traceDrain := of_none rfl
theorem traceRingWrite : Statement .traceRingWrite := of_none rfl
theorem traceRdptrPoll : Statement .traceRdptrPoll := of_none rfl
theorem captureStartPacket : Statement .captureStartPacket := of_none rfl
theorem captureIntervalEnd : Statement .captureIntervalEnd := of_none rfl
theorem captureStopPacket : Statement .captureStopPacket := of_none rfl
theorem bridgeFlitRetry : Statement .bridgeFlitRetry := of_none rfl
theorem bridgePause : Statement .bridgePause := of_none rfl
theorem bridgePaused : Statement .bridgePaused := of_none rfl
theorem bridgeRepair : Statement .bridgeRepair := of_none rfl
theorem bridgeRetrain : Statement .bridgeRetrain := of_none rfl
theorem bridgeResume : Statement .bridgeResume := of_none rfl
theorem bridgeModoff : Statement .bridgeModoff := of_none rfl
theorem bridgeServiceDone : Statement .bridgeServiceDone := of_none rfl
theorem scaleupLinkFlit : Statement .scaleupLinkFlit := of_none rfl
theorem scaleupRetryRequest : Statement .scaleupRetryRequest := of_none rfl
theorem e2eAck : Statement .e2eAck := of_none rfl
theorem e2eNak : Statement .e2eNak := of_none rfl
theorem e2eAckTimer : Statement .e2eAckTimer := of_none rfl
theorem e2eResendTimeout : Statement .e2eResendTimeout := of_none rfl
theorem reductionResult : Statement .reductionResult := of_none rfl
theorem lendRequest : Statement .lendRequest := of_none rfl
theorem aperture3Refusal : Statement .aperture3Refusal := of_none rfl
theorem scaleoutPacket : Statement .scaleoutPacket := of_none rfl
theorem scaleoutTimeout : Statement .scaleoutTimeout := of_none rfl
theorem hostMemAccess : Statement .hostMemAccess := of_none rfl
theorem cxlSnoop : Statement .cxlSnoop := of_none rfl
theorem commandRingFetch : Statement .commandRingFetch := of_none rfl
theorem cmdLaunch : Statement .cmdLaunch := of_none rfl
theorem cmdRetire : Statement .cmdRetire := of_none rfl
theorem cmdCancel : Statement .cmdCancel := of_none rfl
theorem cmdJcancel : Statement .cmdJcancel := of_none rfl
theorem cmdPsave : Statement .cmdPsave := of_none rfl
theorem cmdPresume : Statement .cmdPresume := of_none rfl
theorem cmdEvq : Statement .cmdEvq := of_none rfl
theorem cmdSummary : Statement .cmdSummary := of_none rfl
theorem cmdNop : Statement .cmdNop := of_none rfl
theorem rdescEnable : Statement .rdescEnable := of_none rfl
theorem eventRecordWrite : Statement .eventRecordWrite := of_none rfl
theorem evqRdptrPoll : Statement .evqRdptrPoll := of_none rfl
theorem lendEntryWrite : Statement .lendEntryWrite := of_none rfl
theorem lendDrainDone : Statement .lendDrainDone := of_none rfl
theorem registerWrite : Statement .registerWrite := of_none rfl
theorem rawDiscover : Statement .rawDiscover := of_none rfl
theorem rawReport : Statement .rawReport := of_none rfl
theorem rawImage : Statement .rawImage := of_none rfl
theorem rawStart : Statement .rawStart := of_none rfl
theorem rawData : Statement .rawData := of_none rfl
theorem powerInputValid : Statement .powerInputValid := of_none rfl
theorem powerStep : Statement .powerStep := of_none rfl
theorem bootProgramStart : Statement .bootProgramStart := of_none rfl
theorem leaveBootMode : Statement .leaveBootMode := of_none rfl
theorem thermalHigh : Statement .thermalHigh := of_none rfl
theorem thermalShutdown : Statement .thermalShutdown := of_none rfl
theorem attestationRequest : Statement .attestationRequest := of_none rfl
theorem thermalNormal : Statement .thermalNormal := of_none rfl
theorem creditRequestWithdrawn : Statement .creditRequestWithdrawn := of_none rfl

end Sys2Proof.Laws.Encodes
end

