-- ==== Sys2Proof/Tests/Slice0.lean ====
section
/-! SUPPORT. Sys2Proof/Tests/Slice0.lean: decoding of words written out from the spec, ill-formed terms that `WellFormed` refuses,
single steps, and for every hypothesis of a statement a state that meets it. -/

namespace Sys2Proof.Tests
open Sys2Proof Sys2Proof.Machine

set_option Elab.async false

/-- Words of compact forms written out from spec/02, spec/04. -/
theorem test_decode_compact_1 :
    [0x0A54, 0x2A74, 0x4A96, 0x4872, 0x0C38, 0x0642, 0x0862, 0xFF3A].map (decodeTableWord 16) =
      [some (.cLd 0 5 2), some (.cLd 1 5 3), some (.cSt 2 5 4), some (.cLi 36 3), some (.cBr 6 0 1), some (.cMov 3 2), some
      (.cMov 4 3), some (.cJ 2041)] := by
  decide

/-- Words of compact forms written out from spec/08 and the field positions of the opcode table. -/
theorem test_decode_compact_2 :
    [0x051E, 0x02DC, 0x0020, 0x0A64, 0xFE66, 0x0A68, 0x0A6A, 0x0A6C].map (decodeTableWord 16) =
      [some (.cSend 2 8), some (.cRecv 1 6), some .cNop, some (.cAdd 5 3), some (.cAddi 127 3), some (.cSub 5 3), some (.cAnd 5
      3), some (.cOr 5 3)] := by
  decide

/-- Words of compact forms written out from the field positions of the opcode table. -/
theorem test_decode_compact_3 :
    [0x0A6E, 0x7E70].map (decodeTableWord 16) =
      [some (.cXor 5 3), some (.cShli 63 3)] := by
  decide

/-- Words of major 0x01 written out from spec/02, spec/04, spec/11 and the field positions of the opcode table. -/
theorem test_decode_major01_1 :
    [0x00062203, 0x04D8B503, 0x01462203, 0x00125503, 0x105CD583, 0x10AD5983, 0x151CD583, 0x118C5183].map (decodeTableWord 32) =
      [some (.add 0 3 2 4), some (.mulh 0 1 12 11 10), some (.rem 0 0 3 2 4), some (.add 0 9 5 10), some (.sub 1 14 13 11), some
      (.mul 1 22 21 19), some (.div 1 1 14 13 11), some (.and 1 6 5 3)] := by
  decide

/-- Words of major 0x01 written out from the field positions of the opcode table. -/
theorem test_decode_major01_2 :
    [0x11DCD583, 0x122D5983, 0x124C5183, 0x129CD583, 0x12ED5983, 0x130C5183, 0x175CD583, 0x17AD5983].map (decodeTableWord 32) =
      [some (.or 1 14 13 11), some (.xor 1 22 21 19), some (.shl 1 6 5 3), some (.shr 1 14 13 11), some (.sha 1 22 21 19), some
      (.rotl 1 6 5 3), some (.min 1 1 14 13 11), some (.max 1 1 22 21 19)] := by
  decide

/-- Words of major 0x01 written out from the field positions of the opcode table. -/
theorem test_decode_major01_3 :
    [0x13CC5183].map (decodeTableWord 32) =
      [some (.sel 1 6 5 3)] := by
  decide

/-- Words of major 0x02 written out from spec/02. -/
theorem test_decode_major02 :
    [0x90024205, 0x08044205, 0xA7FA5285].map (decodeTableWord 32) =
      [some (.addi 9 0 1 4 4), some (.addi 0 1 2 4 4), some (.addi 10 0 1021 5 5)] := by
  decide

/-- Words of major 0x03 written out from the field positions of the opcode table. -/
theorem test_decode_major03 :
    [0x13FF5987].map (decodeTableWord 32) =
      [some (.andi 1 0 511 21 19)] := by
  decide

/-- Words of major 0x04 written out from the field positions of the opcode table. -/
theorem test_decode_major04 :
    [0x13FE5189].map (decodeTableWord 32) =
      [some (.ori 1 0 511 5 3)] := by
  decide

/-- Words of major 0x05 written out from the field positions of the opcode table. -/
theorem test_decode_major05 :
    [0x13FED58B].map (decodeTableWord 32) =
      [some (.xori 1 0 511 13 11)] := by
  decide

/-- Words of major 0x06 written out from spec/04 and the field positions of the opcode table. -/
theorem test_decode_major06 :
    [0x0450738D, 0x107F598D, 0x127E518D, 0x167F598D].map (decodeTableWord 32) =
      [some (.shai 0 40 7 7), some (.shli 1 63 21 19), some (.shri 1 63 5 3), some (.rotli 1 63 21 19)] := by
  decide

/-- Words of major 0x07 written out from spec/04, spec/18 and the field positions of the opcode table. -/
theorem test_decode_major07_1 :
    [0x00CA810F, 0x0112418F, 0x0182618F, 0x00CAF98F, 0x1000518F, 0x1040D58F, 0x1081598F, 0x116D598F].map (decodeTableWord 32) =
      [some (.ext 0 1 1 8 2), some (.bfx 0 9 4 3), some (.movToY 0 6 3), some (.ext 0 1 1 15 19), some (.clz 1 5 3), some (.ctz
      1 13 11), some (.popc 1 21 19), some (.bfi 1 22 21 19)] := by
  decide

/-- Words of major 0x07 written out from the field positions of the opcode table. -/
theorem test_decode_major07_2 :
    [0x1180518F, 0x1184598F].map (decodeTableWord 32) =
      [some (.mov 1 5 3), some (.movFromY 1 5 19)] := by
  decide

/-- Words of major 0x08 written out from spec/04, spec/11. -/
theorem test_decode_major08 :
    [0x0FFFE491, 0x00054111, 0x00800191, 0x00400491].map (decodeTableWord 32) =
      [some (.li 0 65534 9), some (.li 0 84 2), some (.li 0 2048 3), some (.li 0 1024 9)] := by
  decide

/-- Words of major 0x09 written out from spec/04. -/
theorem test_decode_major09 :
    [0x01234493].map (decodeTableWord 32) =
      [some (.lih 0 4660 9)] := by
  decide

/-- Words of major 0x0A written out from spec/04. -/
theorem test_decode_major0A :
    [0x02841115].map (decodeTableWord 32) =
      [some (.cmp 0 1 2 2 1 2)] := by
  decide

/-- Words of major 0x0B written out from spec/04. -/
theorem test_decode_major0B :
    [0x08C85197, 0x00003097].map (decodeTableWord 32) =
      [some (.cmpi 0 1 0 100 5 3), some (.cmpi 0 0 0 0 3 1)] := by
  decide

/-- Words of major 0x0C written out from the field positions of the opcode table. -/
theorem test_decode_major0C :
    [0x100C5199, 0x104C5199, 0x108C5199, 0x10C05199, 0x11005999, 0x11405199].map (decodeTableWord 32) =
      [some (.pand 1 6 5 3), some (.por 1 6 5 3), some (.pxor 1 6 5 3), some (.pnot 1 5 3), some (.pmovx 1 5 19), some (.pmovp 1
      5 3)] := by
  decide

/-- Words of major 0x10 written out from spec/04. -/
theorem test_decode_major10 :
    [0xB2FFF021].map (decodeTableWord 32) =
      [some (.br 11 5 65504)] := by
  decide

/-- Words of major 0x11 written out from the field positions of the opcode table. -/
theorem test_decode_major11 :
    [0x1FFFFFA3].map (decodeTableWord 32) =
      [some (.j 1 2097151)] := by
  decide

/-- Words of major 0x12 written out from spec/04. -/
theorem test_decode_major12 :
    [0x00080FA5].map (decodeTableWord 32) =
      [some (.jal 0 128 31)] := by
  decide

/-- Words of major 0x13 written out from spec/04 and the field positions of the opcode table. -/
theorem test_decode_major13 :
    [0x0001F027, 0x104159A7].map (decodeTableWord 32) =
      [some (.jr 0 31), some (.jalr 1 21 19)] := by
  decide

/-- Words of major 0x14 written out from spec/02, spec/04 and the field positions of the opcode table. -/
theorem test_decode_major14 :
    [0x00801029, 0x00005029, 0x104FF029].map (decodeTableWord 32) =
      [some (.tret 0 1), some (.trap 0 5), some (.bkpt 1 255)] := by
  decide

/-- Words of major 0x18 written out from spec/04, spec/18 and the field positions of the opcode table. -/
theorem test_decode_major18 :
    [0x0A2840B1, 0x09401031, 0x17FFFE31, 0x1800D231, 0x1BFED231].map (decodeTableWord 32) =
      [some (.extl 0 20 4 1), some (.extg 0 32 1 0), some (.exti 1 65535 1 4), some (.extx 1 13 4), some (.exts 1 127 13 4)] :=
      by
  decide

/-- Words of major 0x19 written out from spec/04, spec/15. -/
theorem test_decode_major19_1 :
    [0x000001B3, 0x02002233, 0x042464B3, 0x08000233, 0x08002233, 0x0A0002B3, 0x0C000333, 0x0C002333].map (decodeTableWord 32) =
      [some (.srd 0 0 3), some (.swr 0 1 4), some (.evt 0 291 9), some (.fencecFence 0 4), some (.fencecAbandon 0 4), some
      (.cmapw 0 5), some (.preemptSave 0 6), some (.preemptResume 0 6)] := by
  decide

/-- Words of major 0x19 written out from spec/19 and the field positions of the opcode table. -/
theorem test_decode_major19_2 :
    [0x0A0009B3, 0x16000033].map (decodeTableWord 32) =
      [some (.cmapw 0 19), some (.iflush 1)] := by
  decide

/-- Words of major 0x1A written out from spec/16. -/
theorem test_decode_major1A :
    [0x00004035, 0x00409135, 0x008A41B5].map (decodeTableWord 32) =
      [some (.capstart 0 4), some (.capstop 0 9 2), some (.trcmark 0 5 4 3)] := by
  decide

/-- Words of major 0x1B written out from spec/19. -/
theorem test_decode_major1B :
    [0x00120537, 0x001A0537, 0x004006B7].map (decodeTableWord 32) =
      [some (.lsend 0 9 0 10), some (.lsend 0 13 0 10), some (.lrecv 0 0 13)] := by
  decide

/-- Words of major 0x1C written out from spec/05. -/
theorem test_decode_major1C :
    [0x0C065239].map (decodeTableWord 32) =
      [some (.ld 0 1 2 3 5 4)] := by
  decide

/-- Words of major 0x1D written out from spec/05. -/
theorem test_decode_major1D :
    [0x07FE53BB].map (decodeTableWord 32) =
      [some (.st 0 3 1 127 5 7)] := by
  decide

/-- Words of major 0x1E written out from spec/05 and the field positions of the opcode table. -/
theorem test_decode_major1E :
    [0x280451BD, 0x10FE51BD].map (decodeTableWord 32) =
      [some (.stv 2 0 2 5 3), some (.ldv 1 127 5 3)] := by
  decide

/-- Words of major 0x1F written out from spec/05 and the field positions of the opcode table. -/
theorem test_decode_major1F :
    [0x0112623F, 0x11CC51BF].map (decodeTableWord 32) =
      [some (.ldvx 0 2 9 6 4), some (.stvx 1 3 6 5 3)] := by
  decide

/-- Words of major 0x20 written out from spec/05 and the field positions of the opcode table. -/
theorem test_decode_major20 :
    [0x00845441, 0x020454C1, 0x087E51C1, 0x147E5041, 0x167ED041].map (decodeTableWord 32) =
      [some (.ldf 0 0 1 2 5 8), some (.stf 0 0 2 5 9), some (.gstate 0 63 5 3), some (.sete 1 63 5), some (.setf 1 63 13)] := by
  decide

/-- Words of major 0x21 written out from spec/02, spec/12. -/
theorem test_decode_major21_1 :
    [0x0E4C44C3, 0x004041C3, 0x00CC4043, 0x08CC4043, 0x09469143, 0x01CC42C3, 0x021043C3, 0x055043C3].map (decodeTableWord 32) =
      [some (.amoFadd 0 1 1 6 4 9), some (.amoLoad 0 0 1 4 3), some (.amoStore 0 0 1 6 4), some (.amoStore 0 1 1 6 4), some
      (.amoSwap 0 1 1 3 9 2), some (.cas 0 0 1 6 4 5), some (.amoAdd 0 0 0 8 4 7), some (.amoMinUnsigned 0 0 1 8 4 7)] := by
  decide

/-- Words of major 0x21 written out from spec/12, spec/18 and the field positions of the opcode table. -/
theorem test_decode_major21_2 :
    [0x071043C3, 0x004015C3, 0x08D94043, 0x06121543, 0x035C17C3, 0x1AED59C3, 0x1BDCD5C3, 0x1C6D59C3].map (decodeTableWord 32) =
      [some (.amoFmax 0 0 0 8 4 7), some (.amoLoad 0 0 1 1 11), some (.amoStore 0 1 1 12 20), some (.amoFadd 0 0 0 9 1 10), some
      (.amoOr 0 0 1 14 1 15), some (.amoAnd 1 1 1 22 21 19), some (.amoXor 1 1 1 14 13 11), some (.amoMinSigned 1 1 1 22 21 19)]
      := by
  decide

/-- Words of major 0x21 written out from the field positions of the opcode table. -/
theorem test_decode_major21_3 :
    [0x1CCC51C3, 0x1DED59C3, 0x1EDCD5C3].map (decodeTableWord 32) =
      [some (.amoMaxSigned 1 1 1 6 5 3), some (.amoMaxUnsigned 1 1 1 22 21 19), some (.amoFmin 1 1 1 14 13 11)] := by
  decide

/-- Words of major 0x22 written out from spec/12, spec/18. -/
theorem test_decode_major22 :
    [0x03400045, 0x02800045, 0x01C00045, 0x03800045].map (decodeTableWord 32) =
      [some (.fenceRel 0 3), some (.fenceAcq 0 2), some (.fenceAr 0 1), some (.fenceAcq 0 3)] := by
  decide

/-- Words of major 0x24 written out from spec/06 and the field positions of the opcode table. -/
theorem test_decode_major24_1 :
    [0x04441249, 0x10CC51C9, 0x11DCD5C9, 0x12ED59C9, 0x13CC51C9, 0x15ED59C9, 0x16CC51C9, 0x17DCD5C9].map (decodeTableWord 32) =
      [some (.vfma 0 1 2 1 4), some (.vadd 1 3 6 5 3), some (.vsub 1 3 14 13 11), some (.vmul 1 3 22 21 19), some (.vdiv 1 3 6 5
      3), some (.vfms 1 3 22 21 19), some (.vfnma 1 3 6 5 3), some (.vmin 1 3 14 13 11)] := by
  decide

/-- Words of major 0x24 written out from the field positions of the opcode table. -/
theorem test_decode_major24_2 :
    [0x18ED59C9].map (decodeTableWord 32) =
      [some (.vmax 1 3 22 21 19)] := by
  decide

/-- Words of major 0x25 written out from spec/06 and the field positions of the opcode table. -/
theorem test_decode_major25 :
    [0x020262CB, 0x10C051CB, 0x11C0D5CB, 0x13C051CB, 0x14C0D5CB, 0x15C159CB, 0x16C051CB, 0x17C6D5CB].map (decodeTableWord 32) =
      [some (.vsqrt 0 0 1 6 5), some (.vneg 1 3 5 3), some (.vabs 1 3 13 11), some (.vrcpa 1 3 5 3), some (.vrsqa 1 3 13 11),
      some (.vexpa 1 3 21 19), some (.vloga 1 3 5 3), some (.vrint 1 3 3 13 11)] := by
  decide

/-- Words of major 0x26 written out from spec/06 and the field positions of the opcode table. -/
theorem test_decode_major26_1 :
    [0x070411CD, 0x10ED59CD, 0x11CC51CD, 0x12DCD5CD, 0x13ED59CD, 0x14CC51CD, 0x15DCD5CD, 0x16ED59CD].map (decodeTableWord 32) =
      [some (.viaddsI 0 0 2 1 3), some (.viadd 1 3 22 21 19), some (.visub 1 3 6 5 3), some (.vimul 1 3 14 13 11), some (.viminI
      1 3 22 21 19), some (.viminN 1 3 6 5 3), some (.vimaxI 1 3 14 13 11), some (.vimaxN 1 3 22 21 19)] := by
  decide

/-- Words of major 0x26 written out from the field positions of the opcode table. -/
theorem test_decode_major26_2 :
    [0x18DCD5CD, 0x19ED59CD, 0x1ACC51CD, 0x1BDCD5CD, 0x1CED59CD, 0x1DCC51CD, 0x1EDCD5CD].map (decodeTableWord 32) =
      [some (.viaddsN 1 3 14 13 11), some (.vand 1 3 22 21 19), some (.vor 1 3 6 5 3), some (.vxor 1 3 14 13 11), some (.vshl 1
      3 22 21 19), some (.vshrN 1 3 6 5 3), some (.vshrI 1 3 14 13 11)] := by
  decide

/-- Words of major 0x27 written out from spec/06. -/
theorem test_decode_major27 :
    [0x028419CF, 0x388413CF].map (decodeTableWord 32) =
      [some (.vcmp 0 2 2 2 1 2 3), some (.vsel 3 2 2 1 7)] := by
  decide

/-- Words of major 0x28 written out from spec/10, spec/18. -/
theorem test_decode_major28 :
    [0x01061051, 0x012400D1].map (decodeTableWord 32) =
      [some (.vcvt 0 0 8 3 1 0), some (.vcvt 0 0 9 2 0 1)] := by
  decide

/-- Words of major 0x29 written out from spec/06, spec/10, spec/18 and the field positions of the opcode table. -/
theorem test_decode_major29 :
    [0x030A2253, 0x080411D3, 0x081694D3, 0x030014D3, 0x118159D3, 0x149ED5D3, 0x178159D3].map (decodeTableWord 32) =
      [some (.vget 0 2 5 2 4), some (.vperm 0 0 2 1 3), some (.vperm 0 0 11 9 9), some (.vget 0 2 0 1 9), some (.vdup 1 3 21
      19), some (.vins 1 1 15 13 11), some (.viota 1 3 21 19)] := by
  decide

/-- Words of major 0x2A written out from spec/06 and the field positions of the opcode table. -/
theorem test_decode_major2A :
    [0x0A8414D5, 0x11C0D5D5, 0x15C159D5, 0x1DC0D5D5].map (decodeTableWord 32) =
      [some (.vdot 0 10 2 1 9), some (.vreds 1 7 13 11), some (.vredm 1 7 0 21 19), some (.vscan 1 7 13 11)] := by
  decide

/-- Words of major 0x2B written out from spec/06, spec/10. -/
theorem test_decode_major2B :
    [0x0C8C5257, 0x050431D7, 0xD0002457].map (decodeTableWord 32) =
      [some (.vsort 0 1 1 2 6 5 4), some (.vsort 0 0 1 4 2 3 3), some (.vsort 13 0 0 0 0 2 8)] := by
  decide

/-- Words of major 0x2C written out from spec/06 and the field positions of the opcode table. -/
theorem test_decode_major2C :
    [0x04400459, 0x1CC0D5D9].map (decodeTableWord 32) =
      [some (.vmxq 0 4 1 0 0 8), some (.vmxd 1 4 3 13 11)] := by
  decide

/-- Words of major 0x2D written out from spec/06. -/
theorem test_decode_major2D :
    [0x0007055B].map (decodeTableWord 32) =
      [some (.vlut 0 0 3 16 10)] := by
  decide

/-- Words of major 0x30 written out from spec/07, spec/10 and the field positions of the opcode table. -/
theorem test_decode_major30 :
    [0x000C4061, 0x080C24E1, 0x06143061, 0x0C1403E1, 0x0400A061, 0x0C000661, 0x1A3CD5E1].map (decodeTableWord 32) =
      [some (.rinit 0 3 4), some (.rwaitHead 0 3 2 9), some (.radvTail 0 5 3), some (.rstat 0 5 7), some (.radvHead 0 0 10),
      some (.rstat 0 0 12), some (.rwaitTail 1 15 13 11)] := by
  decide

/-- Words of major 0x31 written out from spec/07. -/
theorem test_decode_major31 :
    [0x00020063, 0x044A8063].map (decodeTableWord 32) =
      [some (.tmma 0 0 0 1 0), some (.tmma 0 2 2 5 4)] := by
  decide

/-- Words of major 0x32 written out from spec/07. -/
theorem test_decode_major32 :
    [0x08264065].map (decodeTableWord 32) =
      [some (.tmmx 0 4 1 3 2)] := by
  decide

/-- Words of major 0x33 written out from spec/07. -/
theorem test_decode_major33 :
    [0x000C0067, 0x06008067, 0x0A898867, 0x0805A067, 0x0E91C067].map (decodeTableWord 32) =
      [some (.tzero 0 3), some (.tloada 0 8 0 2), some (.tstore 0 10 2 6 1), some (.tstore 0 0 1 6 4), some (.ttrn 0 10 4 7)] :=
      by
  decide

/-- Words of major 0x34 written out from spec/07, spec/10. -/
theorem test_decode_major34 :
    [0x00404069, 0x08805069, 0x0800D069].map (decodeTableWord 32) =
      [some (.tscl 0 1 4), some (.slab 0 2 5), some (.slab 0 0 13)] := by
  decide

/-- Words of major 0x36 written out from spec/02, spec/08. -/
theorem test_decode_major36 :
    [0x0040006D, 0x0000006D, 0x080004ED, 0x0080006D, 0x00C0006D, 0x0100406D].map (decodeTableWord 32) =
      [some (.quit 0), some (.spawn 0 0 0), some (.spawn 0 1 9), some (.commit 0), some (.yield 0), some (.prio 0 4)] := by
  decide

/-- Words of major 0x37 written out from spec/08, spec/10. -/
theorem test_decode_major37 :
    [0x0006406F, 0x0186A4EF, 0x0206006F, 0x0306A2EF, 0x0406006F, 0x0100406F].map (decodeTableWord 32) =
      [some (.chopen 0 0 3 4 0), some (.chbind 0 1 3 10 9), some (.chclose 0 0 3 0), some (.chstat 0 3 10 5), some (.wrel 0 0 3
      0), some (.chbind 0 0 0 4 0)] := by
  decide

/-- Words of major 0x38 written out from spec/08, spec/10, spec/18. -/
theorem test_decode_major38 :
    [0x00048071, 0x01020371, 0x0182B371, 0x04089071, 0x058AA3F1, 0x02000071, 0x03000071, 0x028217F1].map (decodeTableWord 32) =
      [some (.send 0 0 2 8 0), some (.recv 0 0 1 0 6), some (.recv 0 1 1 11 6), some (.sendt 0 0 4 9 0), some (.recvt 0 1 5 10
      7), some (.sendv 0 0 0 0 0), some (.recvv 0 0 0 0 0), some (.sendv 0 1 1 1 15)] := by
  decide

/-- Words of major 0x39 written out from spec/08, spec/18. -/
theorem test_decode_major39 :
    [0x008001F3, 0x004004F3].map (decodeTableWord 32) =
      [some (.alt 0 2 3), some (.alt 0 1 9)] := by
  decide

/-- Words of major 0x3A written out from spec/09. -/
theorem test_decode_major3A_1 :
    [0x00000575, 0x08160575, 0x0040A675, 0x0852A675, 0x0080A075, 0x00D4B075, 0x0102D075, 0x01404075].map (decodeTableWord 32) =
      [some (.launch 0 0 0 10), some (.launch 0 1 11 10), some (.lwait 0 0 0 10 12), some (.lwait 0 1 9 10 12), some (.lcancel 0
      0 10 0), some (.ldep 0 0 10 11 0), some (.graphClose 0 0 13 0), some (.jcancel 0 0 4 0)] := by
  decide

/-- Words of major 0x3A written out from spec/09, spec/10 and the field positions of the opcode table. -/
theorem test_decode_major3A_2 :
    [0x019E0775, 0x099E9775, 0x082607F5, 0x0040F9F5, 0x190159F5].map (decodeTableWord 32) =
      [some (.nextt 0 0 15 0 14), some (.nextt 0 1 15 9 14), some (.launch 0 1 19 15), some (.lwait 0 0 0 15 19), some
      (.graphOpen 1 1 21 19)] := by
  decide

/-- Words of major 0x3B written out from spec/09. -/
theorem test_decode_major3B_1 :
    [0x00064077, 0x008644F7, 0x01062077, 0x020602F7, 0x03060377, 0x04068077, 0x040490F7, 0x0504A5F7].map (decodeTableWord 32) =
      [some (.gsendScalar 0 0 3 4 0), some (.gsendScalar 0 1 3 4 9), some (.gsendVector 0 0 3 2 0), some (.grecvScalar 0 0 3 0
      5), some (.grecvVector 0 0 3 0 6), some (.gcfg 0 3 8), some (.gcfgPort 0 2 9), some (.dsend 0 0 2 10 11)] := by
  decide

/-- Words of major 0x3B written out from spec/09. -/
theorem test_decode_major3B_2 :
    [0x0604D677].map (decodeTableWord 32) =
      [some (.dstat 0 2 13 12)] := by
  decide

/-- Words of major 0x3C written out from spec/13. -/
theorem test_decode_major3C_1 :
    [0x00000079, 0x010004F9, 0x0204C079, 0x040404F9, 0x04004279, 0x06065079, 0x08040079, 0x08860079].map (decodeTableWord 32) =
      [some (.copy 0 0 0), some (.copy 0 1 9), some (.copya 0 0 2 12 0), some (.cstat 0 2 0 9), some (.cstat 0 0 4 4), some
      (.ctradd 0 0 3 5 0), some (.ctrset 0 0 0 2 0 0), some (.ctrset 0 0 1 3 0 0)] := by
  decide

/-- Words of major 0x3C written out from spec/13. -/
theorem test_decode_major3C_2 :
    [0x0A006079, 0x0C000079, 0x0D0201F9].map (decodeTableWord 32) =
      [some (.tbexp 0 0 0 6 0), some (.tbarr 0 0 0 0), some (.tbarr 0 1 1 3)] := by
  decide

/-- Words of major 0x3D written out from spec/14. -/
theorem test_decode_major3D :
    [0x0000E07B, 0x0040027B].map (decodeTableWord 32) =
      [some (.proof 0 14), some (.pverd 0 4)] := by
  decide

/-- Words of major 0x3E written out from spec/11. -/
theorem test_decode_major3E :
    [0x000612FD, 0x004650FD, 0x0092517D, 0x00C0047D, 0x010E627D, 0x0092A17D].map (decodeTableWord 32) =
      [some (.hload 0 3 1 5), some (.hstore 0 3 5 1), some (.hpush 0 9 5 2), some (.hdrain 0 8), some (.tlbp 0 7 6 4), some
      (.hpush 0 9 10 2)] := by
  decide

/-! ### One ill-formed term for every check of `WellFormed` (R39, R44 to R58) -/

/-- The reserved guard G = 0b1000 (R39, R58 item 5). -/
theorem test_illformed_guard : wellFormed (.add 8 3 2 1) = false := by decide

/-- An e-register operand above e7 (R46). -/
theorem test_illformed_wide_immediate :
    [Instr.addi 0 1 8 4 4, .andi 0 1 8 4 4, .ori 0 1 512 4 4, .xori 0 1 8 4 4].any wellFormed = false := by decide

/-- EXT of 64 bits (R93). -/
theorem test_illformed_ext_size : wellFormed (.ext 0 0 3 2 1) = false := by decide

/-- Reserved conditions, and an unsigned test of equality (R99, R100). -/
theorem test_illformed_conditions :
    [Instr.cmp 0 0 6 2 1 1, .cmp 0 1 0 2 1 1, .cmpi 0 0 7 0 1 1, .vcmp 0 6 0 2 1 0 1].any wellFormed = false := by decide

/-- A system form that names x0 (R394). -/
theorem test_illformed_zero_register :
    [Instr.fencecFence 0 0, .fencecAbandon 0 0, .cmapw 0 0, .preemptSave 0 0, .preemptResume 0 0].any wellFormed = false := by
  decide

/-- VCMP of a class and width that do not fit (R135), VCVT between equal, reserved or stochastic integer formats (R137). -/
theorem test_illformed_vector_formats :
    [Instr.vcmp 0 0 0 2 1 2 1, .vcmp 0 0 2 2 1 3 1, .vcvt 0 0 14 9 1 2, .vcvt 0 0 9 15 1 2, .vcvt 0 0 9 9 1 2, .vcvt 0 5 9 8 1 2,
      .vcvt 0 4 9 8 1 2].any wellFormed = false := by decide

/-- A lane beyond the register (R138), reserved element codes (R140 to R143). -/
theorem test_illformed_lanes_and_codes :
    [Instr.vget 0 2 8 1 2, .vins 0 3 4 1 2, .vreds 0 14 1 2, .vredm 0 15 0 1 2, .vdot 0 14 2 1 3, .vscan 0 12 1 2,
      .vsort 0 0 0 14 0 1 2].any wellFormed = false := by decide

/-- VSORT without key values names no second register, and with them not its destination (R144). -/
theorem test_illformed_vsort_registers :
    [Instr.vsort 0 0 0 2 6 5 4, .vsort 0 0 1 2 4 5 4].any wellFormed = false := by decide

/-- MX forms with reserved element codes or rounding modes, or a group past v31, and a table past v31 (R127, R139, R145, R146). -/
theorem test_illformed_groups :
    [Instr.vmxq 0 5 1 0 0 8, .vmxq 0 0 1 5 0 8, .vmxq 0 0 1 0 29 8, .vmxd 0 5 1 0 8, .vmxd 0 0 0 0 25, .vlut 0 0 2 25 1].any
      wellFormed = false := by decide

/-- Tile forms with reserved types, and a ring read and written at once (R163 to R171). -/
theorem test_illformed_tile :
    [Instr.tmmx 0 5 0 1 0, .tloada 0 0 0 0, .tstore 0 14 0 0 0, .tstore 0 5 0 0 4, .ttrn 0 14 1 2, .ttrn 0 2 3 3].any
      wellFormed = false := by decide

/-- A status register without .q (R44). -/
theorem test_illformed_status_register :
    [Instr.spawn 0 0 1, .chopen 0 0 1 2 3, .chbind 0 0 1 2 3, .chclose 0 0 1 3, .wrel 0 0 1 3, .send 0 0 1 2 3, .recv 0 0 1 2 3,
      .sendv 0 0 1 2 3, .recvv 0 0 1 2 3, .sendt 0 0 1 2 3, .recvt 0 0 1 2 3, .launch 0 0 1 2, .lwait 0 0 1 2 3, .lcancel 0 0 1 2,
      .ldep 0 0 1 2 3, .graphOpen 0 0 1 2, .graphClose 0 0 1 2, .jcancel 0 0 1 2, .nextt 0 0 1 2 3, .gsendScalar 0 0 1 2 3,
      .gsendVector 0 0 1 2 3, .grecvScalar 0 0 1 2 3, .grecvVector 0 0 1 2 3, .copy 0 0 3, .copya 0 0 1 2 3, .ctradd 0 0 1 2 3,
      .ctrset 0 0 0 1 2 3, .tbexp 0 0 1 2 3, .tbarr 0 0 1 3].any wellFormed = false := by decide

/-- Reserved selectors of CHSTAT and CSTAT (R206, R336), and the reserved guard of C.BR (R57). -/
theorem test_illformed_selectors :
    [Instr.chstat 0 1 3 2, .chstat 0 1 16 2, .cstat 0 0 8 1, .cstat 0 1 2 1, .cstat 0 8 4 1, .cBr 1 1 0].any wellFormed = false := by
  decide

/-- The table *Decoding at the borders* of spec/02. -/
theorem test_decode_border_words :
    [0x0000, 0x0020, 0x0040].map (decodeTableWord 16) = [none, some .cNop, none] ∧
      [0x00000047, 0x04400003, 0x80041183].map (decodeTableWord 32) = [none, none, none] := by decide

/-! ### States that meet the hypotheses of the statements -/

/-- The machine of the tests: a privileged process with every resource in slot 0 of core 0. -/
def m0 : State := State.reset.withFetchWord 32 0

/-- Its process. -/
def p0 : Proc := fetchProc State.reset

/-- A process that waits in an instruction blocks its slot. -/
def stateOf (p : Proc) : SlotState := if p.wait.isSome then .blocked else .runnable

/-- `s` with process `p` in slot 0 of core 0, which executes. -/
def at0 (p : Proc) (s : State := m0) : State :=
  { s.setCore 0 ((s.core 0).setSlot 0 { s.slot 0 0 with state := stateOf p, proc := some p }) with cur := (0, 0) }

/-- `s` with process `p` in slot `k` of core `c`, which executes, in slot state `st`. -/
def putAt (c k : Nat) (p : Proc) (s : State := m0) (st : SlotState := stateOf p) : State :=
  { s.setCore c (((s.core c).bind p).setSlot k { Slot.reset with state := st, proc := some p }) with cur := (c, k) }

/-- The process waits in instruction `i` for `w`. -/
def waiting (i : Instr) (w : WaitKind) (p : Proc := p0) : Proc := { p with wait := some { instr := i, kind := w } }

/-- An event with arguments `e` happens in `s`. -/
def happens (e : Ev) (s : State) : State := { s with ev := e }

theorem execs {s : State} {c k : Nat} {p : Proc} {us : List Use} {g : Bool} (h : s.cur = (c, k) ∧ s.proc c k = some p ∧
    (s.core c).comparator p = none ∧ p.offending us = [] ∧ g = true) : Executes s c k p us g :=
  ⟨⟨h.1, h.2.1, h.2.2.1⟩, h.2.2.2.1, h.2.2.2.2⟩

theorem issues {s : State} {c k : Nat} {p : Proc} (h : s.cur = (c, k) ∧ s.proc c k = some p ∧ (s.core c).comparator p = none) :
    Issuing s c k p := ⟨h.1, h.2.1, h.2.2⟩

theorem waits {s : State} {c k : Nat} {p : Proc} {i : Instr} {w : WaitKind} (h : s.proc c k = some p ∧
    (s.core c).slotOf p.uid = some k ∧ (s.core c).find p.uid = some p ∧ p.wait = some { instr := i, kind := w } ∧ p.dying = 0 ∧
    (s.slot c k).state = .blocked) : Waits s c k p i w := ⟨h.1, h.2.1, h.2.2.1, h.2.2.2.1, h.2.2.2.2.1, h.2.2.2.2.2⟩

/-- The process of the tests, as requests name it. -/
def me : Who := { core := 0, uid := 0 }

/-- A packet with contents `b` from agent `src` has come to agent `dst`. -/
def packetTo (src dst : Nat) (b : Body) (s : State := m0) : State :=
  { s with net := [{ src := src, dst := dst, vc := 0, since := 0, body := b }], ev := {} }

/-- The same state with every die bridge up. -/
def opened (s : State) : State := { s with bridges := s.bridges.map Bridge.raise }

theorem arrived {s : State} {n : Nat} {pk : Packet} (h : s.packet n = some pk ∧ s.fenced pk.dst = false) : Arrived s n pk := ⟨h.1, h.2⟩

/-- Page 1 of context 0 is the 64 KiB frame 1 of HBM with every permission until lease tick 1000, and core `c` holds it in its TLB. -/
def page1 : Tlb := { ctx := 0, va := 1, level := 3, leaf := 0x40000FF, drec := true, exp := 1000 }
def withPage (c : Nat) (s : State) : State := s.modCore c fun co => { co with boot := false, dtlb := [page1] }

/-- The core maps of the tests: the first four vcores of each die, two memory cores and the service cores are mapped. -/
def mapped (s : State) : State :=
  let m : KMap (BitVec 16) := [(0, 0x8000), (1, 0x8001), (2, 0x8002), (3, 0x8003), (992, 0x8000), (993, 0x8000), (1056, 0x8000),
    (1057, 0x8000)]
  { s with dies := s.dies.map fun d => { d with map := m } }

/-- `s` with ring descriptor `j` of core `c` changed. -/
def withRing (c j : Nat) (r : Ring) (s : State) : State := s.setRing c j r

/-- A defined internal ring of four slots of 512 bytes from byte 0x1000 of the window of process `u`, with one filled slot. -/
def ringOfU (u j : Nat) : Ring :=
  { Ring.bound u j with defd := true, base := 16, ssize := 2, count := 4, tail := 1, filled := 1, busy := 1 }

/-- The first packet in flight. -/
def pk0 (s : State) : Packet := s.net.headD { src := 0, dst := 0, vc := 0, since := 0, body := .withdraw 0 0 }

/-- A header of the tests: a window of 256 bytes, eight x-registers, two rings and two ports, entry at byte 64. -/
def tinyHeader : Vector Word 8 := #v[0x40, 0x0002010202080001, 0x100, 0, 0, 0, 0, 0]
/-- HBM with that header at the physical address of page 1's byte 0x10040. -/
def headerMem : Mem := ((Mem.putNat [] 0x10040 8 0x40).putNat 0x10048 8 0x0002010202080001).putNat 0x10050 8 0x100

theorem allZero {l : List Word} (h : l.all (· == 0) = true) : ∀ x ∈ l, x = 0 := by simpa using h

theorem everyOf {α : Type} {l : List α} {P : α → Prop} [DecidablePred P] (h : l.all (fun a => decide (P a)) = true) :
    ∀ x ∈ l, P x := by simpa using h

theorem someOf {α : Type} {l : List α} {P : α → Prop} [DecidablePred P] (h : l.any (fun a => decide (P a)) = true) :
    ∃ x, x ∈ l ∧ P x := by simpa using h

namespace W1

/-- A process at 0x100 whose x5 holds an even global address, x6 one in local space and x7 an odd one. -/
def jumper : Proc := { p0 with pc := 0x100, x := ((p0.x.set 5 0x2000).set 6 0x8000000000000000).set 7 0x2001 }
/-- An unprivileged process whose header holds four x-registers. -/
def small : Proc := { p0 with header := (p0.header.set 1 0x40401010200402A0).set 2 0x100 }
/-- A process with a trap handler, and the machine in which core 0 halts on breaks. -/
def handled : Proc := { p0 with header := p0.header.set 0 0x0000010000000040 }
def breaks : State := m0.modCore 0 fun co => { co with dbgctl := 4 }
/-- A process that waits for the divider, and the core that gives it to it or has given it. -/
def dividing (w : WaitKind) : Proc := waiting (.div 0 0 3 2 4) w
def dividerAt (w : WaitKind) (q : List Nat) (u : Option Nat) : State :=
  (at0 (dividing w)).modCore 0 fun co => { co with divq := q, divider := u }
theorem witness_ScalarResults (h : Obligations.ScalarResults) : True := by
  have := h m0 0 0 p0 (.add 0 3 2 4) _ rfl (execs (by decide +kernel))
  trivial

theorem witness_ExtiBuildsWords (h : Obligations.ExtiBuildsWords) : True := by
  have := h.1 m0 0 0 p0 0 5 3 (execs (by decide +kernel))
  trivial

theorem witness_RegisterFrames (h : Obligations.RegisterFrames) : True := by
  have := h.1 m0 0 0 p0 (.add 0 3 2 4) _ rfl (execs (by decide +kernel))
  have := h.2.1 m0 0 0 p0 (.viadd 0 2 3 2 4) _ rfl (execs (by decide +kernel))
  have := h.2.2.1 m0 0 0 p0 (.vadd 0 1 3 2 4) _ rfl (execs (by decide +kernel))
  have := h.2.2.2.1 m0 0 0 p0 0 0 2 3 2 0 1 (execs (by decide +kernel))
  have := h.2.2.2.2.1 m0 0 0 p0 0 2 3 2 4 (execs (by decide +kernel))
  have := h.2.2.2.2.2.1 m0 0 0 p0 0 2 7 2 4 (execs (by decide +kernel))
  have := h.2.2.2.2.2.2.1 m0 0 0 p0 0 2 7 2 4 (execs (by decide +kernel))
  have := h.2.2.2.2.2.2.2 m0 0 0 p0 0 0 2 8 2 4 _ rfl (by decide) (execs (by decide +kernel))
  trivial

theorem witness_Transfers (h : Obligations.Transfers) : True := by
  have := h (at0 jumper) 0 0 jumper (.jalr 0 5 1) _ _ _ _ rfl (execs (by decide +kernel))
  have := h (at0 jumper) 0 0 jumper (.jr 0 6) _ _ _ _ rfl (execs (by decide +kernel))
  have := h (at0 jumper) 0 0 jumper (.jr 0 7) _ _ _ _ rfl (execs (by decide +kernel))
  trivial

theorem witness_FalseGuardOnlyRetires (h : Obligations.FalseGuardOnlyRetires) : True := by
  have := h m0 0 0 p0 (.add 1 3 2 4) (issues (by decide +kernel)) (by decide +kernel)
  trivial

theorem witness_DecodeTraps (h : Obligations.DecodeTraps) : True := by
  have := h.1 (at0 small) 0 0 small (.add 1 3 2 4) _ rfl (issues (by decide +kernel)) (by decide +kernel)
  have := h.2.1 m0 0 0 p0 5 rfl rfl
  have := h.2.2 (at0 small) 0 0 small (.srd 1 0x100 2) _ (issues (by decide +kernel)) (by decide +kernel)
      (by decide +kernel) rfl
  trivial

theorem witness_TrapsAndReturns (h : Obligations.TrapsAndReturns) : True := by
  have := h.1 (at0 handled) 0 0 handled (.trap 0 5) _ _ (execs (by decide +kernel)) rfl rfl (by decide +kernel) (by simp)
  have := h.1 (at0 handled) 0 0 handled (.bkpt 0 5) _ _ (execs (by decide +kernel)) rfl rfl (by decide +kernel)
      (fun _ _ _ => rfl)
  have := h.2.1 m0 0 0 p0 (.trap 0 5) _ _ (execs (by decide +kernel)) rfl (.inr rfl) rfl (by simp)
  have := h.2.2.1 breaks 0 0 p0 0 5 (execs (by decide +kernel)) rfl
  have := h.2.2.2.1 m0 0 0 p0 0 (execs (by decide +kernel))
  have := h.2.2.2.2 m0 0 0 p0 0 _ _ _ _ (execs (by decide +kernel)) rfl rfl rfl rfl rfl rfl rfl
  trivial

theorem witness_SystemRegisters (h : Obligations.SystemRegisters) : True := by
  have := h.1 m0 0 0 p0 0 2 .parkwait (by decide) (execs (by decide +kernel))
  have := h.1 m0 0 0 p0 0 2 .cycle (by decide) (execs (by decide +kernel))
  have := h.2.1 m0 0 0 p0 0 2 .parkwait (by decide) (execs (by decide +kernel))
  have := h.2.2.1 m0 0 0 p0 0 5 2 (execs (by decide +kernel))
  have := h.2.2.2.1 m0 0 0 p0 0 (execs (by decide +kernel))
  have := h.2.2.2.2.2 (at0 (waiting (.iflush 0) (.iflush 0))) 0 0 _ 0 0 rfl rfl
      (waits (p := waiting (.iflush 0) (.iflush 0)) (by decide)) (by decide +kernel)
  trivial

theorem witness_SharedRegisters (h : Obligations.SharedRegisters) : True := by
  have := h.1 m0 0 0 p0 0 2 3 (execs (by decide +kernel))
  have := h.2.1 { m0 with now := 4 } 0 0 p0 0 3 2 (execs (by decide +kernel)) (by decide +kernel)
  have := h.2.2 m0 0 0 p0 0 3 2 (execs (by decide +kernel))
  trivial

theorem witness_DivisionResults (h : Obligations.DivisionResults) : True := by
  have := h.1 m0 0 0 p0 (.div 0 0 3 2 4) _ _ _ _ _ rfl (execs (by decide +kernel))
  have := h.2.1 (dividerAt .divQueue [p0.uid] none) 0 (dividing .divQueue) (.div 0 0 3 2 4) _ _ (by decide +kernel) rfl rfl
      (waits (by decide +kernel))
  have := h.2.2 (dividerAt (.divRun 0) [] (some p0.uid)) 0 (dividing (.divRun 0)) (.div 0 0 3 2 4) _ _ _ _ _ 0
      (by decide +kernel) (waits (by decide +kernel)) (by decide +kernel) rfl
  trivial

end W1

namespace W2

/-- A process whose x5 names its window, x6 a byte above it, x7 global memory, x8 an odd byte of its window and x9 a byte of vcore 1;
its register v3 spreads eight lanes over the window. -/
def reader : Proc :=
  { p0 with x := ((((p0.x.set 5 0xC000000000000040).set 6 0xC00000000002A000).set 7 0x10000).set 8 0xC000000000000041).set 9 0xC000004000000040,
            v := p0.v.set 3 0x0000000700000006000000050000000400000003000000020000000100000000#256 }
/-- Every lane of v3 lies in the window. -/
theorem reader_lanes (load : Bool) : ∀ j, j < 8 →
    (at0 reader).localCheck 0 reader (laneAddr reader (wBits 2) 5 3 j) 4 4 true load = .own (64 + 4 * j) ∧
      ((at0 reader).core 0).ownedIn (64 + 4 * j) 4 = none := by
  cases load <;> decide +kernel
/-- Core 0 holds a copy that owns granule 4. -/
def engine : State := (at0 reader).modCore 0 fun co => { co with taken := [({ core := 0, id := 0 }, 0, [4])] }
/-- A process with a posted store on its way. -/
def posting : Proc := { reader with sack := 1 }
/-- Slot 1 holds a process that waits in an LDF of granule 4, and slot 0 executes. -/
def ldfWaiter : Proc := { waiting (.ldf 0 0 1 0 5 4) .granule reader with uid := 7 }
def handing : State :=
  (putAt 0 0 reader (putAt 0 1 ldfWaiter)).modCore 0 fun co =>
    { co with waits := [{ kind := 0, clr := true, uid := 7, granule := 4, since := 0, place := 3, access := some (.ldf 4 false true) }] }
def polling : Proc := waiting (.ldf 0 0 1 0 5 4) (.poll 0) reader
def releasing : Proc := waiting (.fenceRel 0 3) (.release true)
/-- A process that waits for the answer of a remote load. -/
def loading : Proc := waiting (.ld 0 0 3 0 9 4) .remoteLoad reader
def remoteAsk : State := packetTo 0 1 (.access 0xC000004000000040 64 8 none 0 2 0 me) (putAt 1 0 { reader with share := true })
def remoteData : State := packetTo 1 0 (.loadAns me (some [1, 2, 3, 4, 5, 6, 7, 8]) 0) (at0 loading)
def remoteAck : State := packetTo 1 0 (.storeAck me 0 0xC000004000000040 0 true 0) (at0 posting)
theorem witness_LoadResults (h : Obligations.LoadResults) : True := by
  have := h.1.1 (at0 reader) 0 reader 64 8 true (by decide +kernel) (by decide +kernel) (by decide +kernel)
      (by decide +kernel) (by decide +kernel) (by decide)
  have := h.1.2 (at0 reader) 0 reader 0xC000000000000041 8 true true (by decide +kernel)
  have := h.2.1 (at0 reader) 0 0 reader (.ld 0 0 3 0 5 4) _ _ _ _ _ _ 64 rfl (execs (by decide +kernel)) (by decide +kernel)
      (by decide +kernel)
  have := h.2.2.1 (at0 reader) 0 0 reader 0 0 5 4 64 (execs (by decide +kernel)) (by decide +kernel) (by decide +kernel)
  have := h.2.2.2.1 engine 0 0 reader (.ld 0 0 3 0 5 4) _ _ _ _ _ _ 64 4 rfl (execs (by decide +kernel)) (by decide +kernel)
      (by decide +kernel) (by decide +kernel) _ _ rfl
  have := h.2.2.2.2 (at0 reader) 0 0 reader (.ld 0 0 3 0 7 4) _ _ _ _ _ _ 5 rfl (execs (by decide +kernel))
      (by decide +kernel)
  trivial

theorem witness_StoreResults (h : Obligations.StoreResults) : True := by
  have := h.1 (at0 reader) 0 0 reader (.st 0 3 1 0 5 4) _ _ _ _ _ _ 64 rfl (execs (by decide +kernel)) (by decide +kernel)
      (.inl rfl) (by decide) (by decide +kernel)
  have := h.2.1 (at0 posting) 0 0 posting (.st 0 3 1 0 5 4) _ _ _ _ _ 64 rfl (execs (by decide +kernel)) (by decide +kernel)
      (.inl rfl) (by decide +kernel)
  have := h.2.2 (at0 reader) 0 0 reader (.st 0 3 0 0 8 4) _ _ _ _ _ _ 3 rfl (execs (by decide +kernel)) (by decide +kernel)
  trivial

theorem witness_GatherScatterResults (h : Obligations.GatherScatterResults) : True := by
  have := h.1 (at0 reader) 0 0 reader 0 2 3 5 4 (execs (by decide +kernel))
      (fun j h _ => ⟨64 + 4 * j, (reader_lanes true j h).1, (reader_lanes true j h).2⟩)
  have := h.2 (at0 reader) 0 0 reader 0 2 3 5 4 (execs (by decide +kernel)) rfl
      (fun j h _ => ⟨64 + 4 * j, (reader_lanes false j h).1, (reader_lanes false j h).2⟩)
  trivial

theorem witness_GranuleResults (h : Obligations.GranuleResults) : True := by
  have := h.1.1 (at0 reader) 0 0 reader (.ldf 0 1 1 0 5 4) _ _ _ 64 rfl (execs (by decide +kernel)) rfl (by decide +kernel)
      (by decide +kernel) (by decide +kernel) (by decide +kernel)
  have := h.1.1 (at0 reader) 0 0 reader (.stf 0 0 0 5 4) _ _ _ 64 rfl (execs (by decide +kernel)) rfl (by decide +kernel)
      (by decide +kernel) (by decide +kernel) (by decide +kernel)
  have := h.1.1 (at0 reader) 0 0 reader (.setf 0 0 5) _ _ _ 64 rfl (execs (by decide +kernel)) rfl (by decide +kernel)
      (by decide +kernel) (by decide +kernel) (by decide +kernel)
  have := h.1.2 (at0 posting) 0 0 posting (.stf 0 0 0 5 4) _ _ _ 64 rfl rfl (execs (by decide +kernel)) rfl
      (by decide +kernel) (by decide +kernel)
  have := h.2.1 handing 0 0 reader 0 0 5 _ 64 1 ldfWaiter 0 1 0 5 4 0 3 (execs (by decide +kernel)) rfl rfl
      (by decide +kernel) (by decide +kernel) (by decide +kernel) (waits (by decide +kernel)) rfl
  have := h.2.2.1 (at0 polling) 0 polling (.ldf 0 0 1 0 5 4) 0 rfl (waits (by decide +kernel)) (by decide +kernel)
  have := h.2.2.2 (at0 releasing) 0 releasing (.fenceRel 0 3) true rfl (waits (by decide +kernel)) (by decide +kernel)
  trivial

theorem witness_RemoteAccesses (h : Obligations.RemoteAccesses) : True := by
  have := h.1 (at0 reader (mapped m0)) 0 0 reader (.ld 0 0 3 0 9 4) _ _ _ _ _ _ 1 rfl (execs (by decide +kernel))
      (by decide +kernel) (by decide +kernel)
  have := h.2.1 remoteAsk 0 (pk0 remoteAsk) 0xC000004000000040 64 8 0 2 0 me (arrived (by decide +kernel)) rfl rfl rfl
      (by decide +kernel) (by decide +kernel) (by decide +kernel) (by decide +kernel)
  have := h.2.2.1 remoteData 0 (pk0 remoteData) me [1, 2, 3, 4, 5, 6, 7, 8] 0 0 loading (.ld 0 0 3 0 9 4) _ _ _ _ _ _
      (arrived (by decide +kernel)) rfl rfl (waits (by decide +kernel)) rfl rfl
  have := h.2.2.2 remoteAck 0 (pk0 remoteAck) me 0xC000004000000040 0 true 0 posting (arrived (by decide +kernel)) rfl rfl
      (by decide +kernel) (fun _ h => nomatch h)
  trivial

end W2

namespace W4

/-- A process whose x7 names global memory, x8 an odd byte there, x9 local space, and x3 a value. -/
def atomist : Proc :=
  { p0 with x := ((((p0.x.set 7 0x10040).set 8 0x10041).set 9 0xC000000000000040).set 3 0x123456789).set 10 0x0000000100000000,
            e := p0.e.set 0 0x10040 }
def atomState : State := withPage 0 (at0 atomist)
/-- The same with a store of page 1 in the replay queue, and with an AMO.store.rel that has been acknowledged. -/
def replaying : Proc :=
  { atomist with replay := [{ va := 0x10080, data := 1, wide := true, cookie := 5, go := false, pc := 0, born := 0 }] }
def stored : Proc := { atomist with answer := some storeSent }
/-- The request of page 1 for the doubleword at 0x10040, the same in host memory, and one whose lease ran out three ticks ago. -/
def req1 : HomeReq := page1.req 0 0x10040
def hostReq : HomeReq := { req1 with ap := 1 }
def lateReq : HomeReq := { req1 with exp := 2 ^ 48 - 3 }
def homeOld (s : State) (r : HomeReq) (n : Nat) : Nat := ofLe ((s.phys r.ap).bytes r.pa n)
/-- The host interface unit holds a store of the process that is not yet written back. -/
def hosting : State := { m0 with hostWrites := [({ core := 0, uid := 0 }, 1, 64, [1, 2, 3, 4])] }
/-- A process that waits for the reply of its atomic, and of its NEXTT. -/
def replied : Proc := waiting (.amoAdd 0 0 1 3 7 4) .amoReply atomist
def tabled : Proc := waiting (.nextt 0 1 10 12 11) .nexttReply atomist
/-- Requests and answers on their way. -/
def raised : State := { m0 with bridges := m0.bridges.map Bridge.raise }
def storeTo (r : HomeReq) : State := packetTo 0 4096 (.amo r 1 true 5 0 me true none) raised
def amoTo (r : HomeReq) (n : Nat) (s : State := raised) : State := packetTo 0 4096 (.amo r n true 5 0x8000000000000000 me false none) s
def answerTo (b : Body) (s : State := at0 replied) : State := packetTo 4096 0 b s
def refused : Body := .refusal me 3 { req1 with self := some 7 } 5 0 0
/-- A table at 0x10040 with one slab, three entries and two steps taken, and the slab's record of its last steps. -/
def tableMem : Mem :=
  let m := ((Mem.putNat [] 0x10040 4 3).putNat 0x10044 1 1).putNat 0x10048 8 1
  ((m.putNat 0x10080 8 1).putNat 0x10090 8 9).putNat 0x100C4 4 42
def stepOf (n : Nat) : State := packetTo 0 4096 (.nextt req1 n 0 me) { m0 with hbm := tableMem }
theorem witness_AtomicsAtIssue (h : Obligations.AtomicsAtIssue) : True := by
  have := h.1.1 atomState 0 0 atomist (.amoAdd 0 1 1 3 7 4) 0 _ page1 _ rfl (execs (by decide +kernel)) (.inl rfl)
      (by decide +kernel) (by decide +kernel) (by decide +kernel) (by decide) (by decide +kernel) (by decide +kernel)
      (by decide +kernel) rfl
  have := h.1.2 atomState 0 0 atomist (.cas 0 0 1 3 8 4) 0 _ rfl (execs (by decide +kernel)) (.inl rfl) (by decide +kernel)
  have := h.1.2 atomState 0 0 atomist (.cas 0 0 1 3 9 4) 0 _ rfl (execs (by decide +kernel)) (.inl rfl) (by decide +kernel)
  have := h.2.1 atomState 0 0 atomist 0 0 1 3 7 8 page1 _ _ _ (execs (by decide +kernel)) rfl rfl (by decide +kernel) rfl
      rfl (by decide +kernel) (by decide +kernel) (by decide) (by decide +kernel) (by decide +kernel) (by decide +kernel)
      (by decide +kernel) rfl rfl
  have := h.2.1 atomState 0 0 atomist 0 1 1 3 7 8 page1 _ _ _ (execs (by decide +kernel)) rfl rfl (by decide +kernel) rfl
      rfl (by decide +kernel) (by decide +kernel) (by decide) (by decide +kernel) (by decide +kernel) (by decide +kernel)
      (by decide +kernel) rfl rfl
  have := h.2.2.1 (at0 stored) 0 0 stored 0 1 3 7 (execs (by decide +kernel)) rfl (by decide +kernel)
  have := h.2.2.2.1 (at0 replaying) 0 0 replaying 0 1 3 7 _ (execs (by decide +kernel)) rfl rfl (by decide +kernel)
      (by decide +kernel) (by decide +kernel) (by decide +kernel) rfl (by decide)
  have := h.2.2.2.2.1 (storeTo req1) 0 (pk0 (storeTo req1)) req1 8 true 5 0 me (arrived (by decide +kernel)) rfl rfl rfl rfl
      (by decide +kernel) (by decide +kernel)
  have := h.2.2.2.2.2.1 (storeTo hostReq) 0 (pk0 (storeTo hostReq)) hostReq 8 true 5 0 me _ (arrived (by decide +kernel))
      rfl rfl rfl (.inl rfl) (by decide +kernel) (by decide +kernel) rfl
  have := h.2.2.2.2.2.2 hosting _ _ _ _ rfl
  trivial

theorem witness_AtomicsAtHome (h : Obligations.AtomicsAtHome) : True := by
  have := h.1 (amoTo req1 2) 0 (pk0 (amoTo req1 2)) req1 8 2 true 5 0x8000000000000000 me (homeOld (amoTo req1 2) req1 8)
      (arrived (by decide +kernel)) rfl rfl (by decide +kernel) rfl (by decide +kernel) (by decide +kernel)
      (by decide +kernel) rfl
  have := h.1 (amoTo hostReq 14) 0 (pk0 (amoTo hostReq 14)) hostReq 8 14 true 5 0x8000000000000000 me
      (homeOld (amoTo hostReq 14) hostReq 8) (arrived (by decide +kernel)) rfl rfl (by decide +kernel) rfl (by decide +kernel)
      (by decide +kernel) (by decide +kernel) rfl
  have := h.2.1.1 (answerTo (.amoAns me 77)) 0 (pk0 (answerTo (.amoAns me 77))) me 77 0 replied (.amoAdd 0 0 1 3 7 4) 0 _
      (arrived (by decide +kernel)) rfl rfl rfl (waits (by decide +kernel)) rfl
  have := h.2.1.2 (answerTo refused) 0 (pk0 (answerTo refused)) me 3 { req1 with self := some 7 } 5 0 7 0 replied
      (.amoAdd 0 0 1 3 7 4) 0 _ (arrived (by decide +kernel)) rfl rfl rfl rfl (waits (by decide +kernel)) rfl
  have := h.2.2 (amoTo lateReq 4 (at0 replied)) 0 (pk0 (amoTo lateReq 4 (at0 replied))) lateReq 4 true 5 0x8000000000000000
      me none 0 replied (.amoAdd 0 0 1 3 7 4) rfl rfl rfl (by decide +kernel) (by decide +kernel) rfl rfl
      (waits (by decide +kernel))
  trivial

theorem witness_FencesOrder (h : Obligations.FencesOrder) : True := by
  have := h.1 m0 0 0 p0 0 3 (execs (by decide +kernel))
  have := h.2 m0 0 0 p0 0 3 _ (.inl rfl) (execs (by decide +kernel))
  have := h.2 (at0 { p0 with sack := 1 }) 0 0 { p0 with sack := 1 } 0 3 _ (.inr rfl) (execs (by decide +kernel))
  trivial

theorem witness_TileTableSteps (h : Obligations.TileTableSteps) : True := by
  have := h.1 atomState 0 0 atomist 0 1 10 12 11 page1 _ (execs (by decide +kernel)) rfl (by decide +kernel)
      (by decide +kernel) (by decide +kernel) (by decide +kernel) (by decide +kernel) (by decide +kernel) rfl
  have := h.2.1 (stepOf 2) 0 (pk0 (stepOf 2)) req1 2 0 me 1 3 1 (arrived (by decide +kernel)) rfl rfl (by decide +kernel)
      (by decide +kernel) (by decide +kernel) (by decide +kernel) (by decide +kernel) (by decide +kernel) (by decide +kernel)
      (by decide +kernel) (by decide +kernel) (by decide +kernel)
  have := h.2.2.1 (stepOf 1) 0 (pk0 (stepOf 1)) req1 1 0 me 1 3 1 (arrived (by decide +kernel)) rfl rfl (by decide +kernel)
      (by decide +kernel) (by decide +kernel) (by decide +kernel) (by decide +kernel) (by decide +kernel) (by decide +kernel)
      (by decide +kernel) (by decide +kernel) (by decide +kernel)
  have := h.2.2.2 (answerTo (.nexttAns me 0 77) (at0 tabled)) 0 (pk0 (answerTo (.nexttAns me 0 77) (at0 tabled))) me 77 0
      tabled 0 1 10 12 11 (arrived (by decide +kernel)) rfl rfl rfl (waits (by decide +kernel))
  trivial

end W4

namespace W5

/-- A process with values in v2 and v3, of which slot 0 holds one whose timed instruction is over. -/
def vectors : Proc :=
  let v2 : VReg := 0x3F8000003F0000004000000040400000C0000000C0A000003FC0000041200000#256
  let v3 : VReg := 0x0000000700000006000000050000000400000003000000020000000100000009#256
  { p0 with v := (p0.v.set 2 v2).set 3 v3 }
def slow (i : Instr) : Proc := waiting i (.vecRun 0) vectors
/-- A process that waits for the vector divider or the sort network, which is free. -/
def vectorWaiter (i : Instr) (u : Nat) : Proc := waiting i (.vecQueue u)
def vectorState (i : Instr) (u : Nat) : State :=
  happens { c := 0, k := u } ((at0 (vectorWaiter i u)).modCore 0 fun co => { co with vdivq := [p0.uid], sortq := [p0.uid] })
theorem witness_IntegerVectorResults (h : Obligations.IntegerVectorResults) : True := by
  have := h (at0 vectors) 0 0 vectors (.vlut 0 2 3 8 4) _ rfl (execs (by decide +kernel))
  have := h (at0 vectors) 0 0 vectors (.viadd 0 2 3 2 4) _ rfl (execs (by decide +kernel))
  trivial

theorem witness_FloatVectorResults (h : Obligations.FloatVectorResults) : True := by
  have := h.1 (at0 vectors) 0 0 vectors (.vfma 0 2 3 2 4) _ rfl (execs (by decide +kernel))
  have := h.2 (at0 (slow (.vdiv 0 1 3 2 4))) (slow (.vdiv 0 1 3 2 4)) (.vdiv 0 1 3 2 4) _ 0 rfl (waits (by decide +kernel))
      (by decide +kernel) (by decide +kernel)
  trivial

theorem witness_LaneMoveResults (h : Obligations.LaneMoveResults) : True := by
  have := h.1 (at0 vectors) 0 0 vectors 0 0 1 3 2 0 1 (execs (by decide +kernel))
  have := h.2.1 (at0 vectors) 0 0 vectors 0 1 3 2 4 (execs (by decide +kernel))
  have := h.2.2.1 (at0 vectors) 0 0 vectors 0 0 31 2 4 (execs (by decide +kernel))
  have := h.2.2.2.1 (at0 vectors) 0 0 vectors 0 0 31 2 4 (execs (by decide +kernel))
  have := h.2.2.2.2 (at0 vectors) 0 0 vectors 0 0 2 8 2 4 _ rfl (by decide) (execs (by decide +kernel))
  trivial

theorem witness_TimedVectors (h : Obligations.TimedVectors) : True := by
  have := h.1.1 m0 0 0 p0 (.vdot 0 2 3 2 4) true [uv 3, uv 2, ux 4] 8 (by decide +kernel) (execs (by decide +kernel))
  have := h.1.2.1 m0 0 0 p0 (.vdiv 0 1 3 2 4) true [uv 3, uv 2, uv 4] 16 (by decide +kernel) (execs (by decide +kernel))
  have := h.1.2.2.1 m0 0 0 p0 (.vsort 0 0 0 2 0 2 4) true [uv 2, uv 4] 12 (by decide +kernel) (execs (by decide +kernel))
  have := h.1.2.2.2.1 (vectorState (.vdiv 0 1 3 2 4) 0) 0 (vectorWaiter (.vdiv 0 1 3 2 4) 0) (.vdiv 0 1 3 2 4) true
      [uv 3, uv 2, uv 4] 16 0 0 [] (by decide +kernel) rfl rfl (by decide +kernel) (waits (by decide +kernel))
  have := h.1.2.2.2.1 (vectorState (.vsort 0 0 0 2 0 2 4) 1) 0 (vectorWaiter (.vsort 0 0 0 2 0 2 4) 1)
      (.vsort 0 0 0 2 0 2 4) true [uv 2, uv 4] 12 1 0 [] (by decide +kernel) rfl rfl (by decide +kernel)
      (waits (by decide +kernel))
  have := h.1.2.2.2.2 (at0 (slow (.vdot 0 2 3 2 4))) (slow (.vdot 0 2 3 2 4)) (.vdot 0 2 3 2 4) 0 (.inl rfl)
      (waits (by decide +kernel)) (by decide +kernel)
  have := h.2.1 (at0 (slow (.vreds 0 2 2 4))) (slow (.vreds 0 2 2 4)) 0 0 2 2 4 (by decide +kernel)
      (waits (by decide +kernel)) (by decide +kernel) (by decide +kernel)
  have := h.2.2.1 (at0 (slow (.vdot 0 2 3 2 4))) (slow (.vdot 0 2 3 2 4)) 0 0 2 3 2 4 (by decide +kernel)
      (waits (by decide +kernel)) (by decide +kernel) (by decide +kernel)
  have := h.2.2.2.1 (at0 (slow (.vredm 0 2 1 2 4))) (slow (.vredm 0 2 1 2 4)) 0 0 2 1 2 4 (by decide +kernel)
      (waits (by decide +kernel)) (by decide +kernel) (by decide +kernel)
  have := h.2.2.2.2.1 (at0 (slow (.vscan 0 2 2 4))) (slow (.vscan 0 2 2 4)) 0 0 2 2 4 (by decide +kernel)
      (waits (by decide +kernel)) (by decide +kernel)
  have := h.2.2.2.2.2 (at0 (slow (.vsort 0 0 0 2 0 2 4))) (slow (.vsort 0 0 0 2 0 2 4)) 0 0 0 0 2 0 2 4 8
      (by decide +kernel) rfl (waits (by decide +kernel)) (by decide +kernel)
  have := h.2.2.2.2.2 (at0 (slow (.vsort 0 1 0 2 0 2 4))) (slow (.vsort 0 1 0 2 0 2 4)) 0 0 1 0 2 0 2 4 8
      (by decide +kernel) rfl (waits (by decide +kernel)) (by decide +kernel)
  trivial

end W5

namespace W6

/-- A process whose x5 is a ring word (four slots of 512 bytes from 0x1000), x6 one, x7 three and x8 a SLAB word (sink west). -/
def ringer : Proc :=
  { p0 with x := ((((p0.x.set 5 0x04020010).set 6 1).set 7 3).set 8 0x0701).set 9 0x10000 }
def ringState : State := withRing 0 3 (ringOfU p0.uid 3) (at0 ringer)
/-- The process has a posted store on its way. -/
def posted : Proc := { ringer with sack := 1 }
/-- Ring 3 has failed. -/
def failedRing : Ring := { ringOfU p0.uid 3 with ferr := true }
def failedState : State := withRing 0 3 failedRing (at0 ringer)
/-- Two cores of die 0 side by side: ring 3 of core 0 forwards east with one slot to go, and ring 3 of core 1 is its sink. -/
def sender : Proc := { ringer with vcore := 0 }
def receiver : Proc := { ringer with uid := 9, vcore := 1 }
def source : Ring := { ringOfU p0.uid 3 with dir := 1, unfwd := 1, tag := 7 }
def sink : Ring := { Ring.bound 9 3 with defd := true, ext := true, base := 16, ssize := 2, count := 4, sink := 1, tag := 7 }
def pair (src snk : Ring) : State := withRing 1 3 snk (withRing 0 3 src (at0 sender (putAt 1 0 receiver (mapped m0))))
def forwarding : State := happens { c := 0, n := 3 } (pair source sink)
def creditSource : Ring := { source with credit := some (ringPlace sink.name 0, false) }
def credited : State := happens { c := 0, n := 3 } (pair creditSource sink)
def lostSource : Ring := { source with lost := true }
def lostSink : State := happens { c := 0, n := 3 } (pair lostSource sink)
def arrivingSlot : State := packetTo 0 1 (.fwdData { core := 0, id := source.name } (ringPlace sink.name 0) [1, 2]) (pair source sink)
def arrivingAck : State := packetTo 1 0 (.fwdAck { core := 0, id := source.name }) credited
/-- Claims: ring 3 of core 1 is EXT; a copy of core 0 claims it. -/
def claimWord : Word := 0x600000
def claimer : Job := { core := 0, id := 5 }
def claimArrives (cls : Nat) : State := packetTo 0 1 (.ringClaim claimWord 0 512 cls false claimer false) (pair source sink)
def queued : Ring := { sink with queue := [(512, claimer, false)] }
def claimWaits : State := happens { c := 1, n := 3 } (pair source queued)
def copying : Copy :=
  { id := 5, uid := 0, ctx := 0, self := 0, d := Vector.replicate 6 0, wbase := 0, wsize := 0, armed := none, running := true, next := 0,
    flight := [], status := 0, stopped := false, wrote := [], dest := 1, fixups := [], phase := 0, claim := 2, slot := 0, tag := none,
    order := 0, pc := 0, once := [] }
def claimAnswer : State :=
  packetTo 1 0 (.ringAns claimer false 0 77) ((pair source sink).modCore 0 fun co => { co with copies := [copying] })
theorem witness_RingResults (h : Obligations.RingResults) : True := by
  have := h.1.1 (at0 ringer) 0 0 ringer 0 3 5 3 (Ring.bound 0 3) _ (execs (by decide +kernel)) rfl (by decide +kernel) rfl
      (by decide +kernel) (by decide +kernel) (by decide +kernel) (by decide +kernel) (by decide +kernel) (by decide +kernel)
      (.inl rfl)
  have := h.1.2.1 ringState 0 0 ringer 0 3 6 3 (ringOfU p0.uid 3) 1 (execs (by decide +kernel)) (by decide +kernel) rfl
      (by decide +kernel) rfl (by decide +kernel)
  have := h.1.2.2.1 ringState 0 0 ringer 0 3 6 3 (ringOfU p0.uid 3) 1 (execs (by decide +kernel)) (by decide +kernel) rfl
      rfl (by decide +kernel) rfl (by decide +kernel)
  have := h.1.2.2.1 (withRing 0 3 (ringOfU p0.uid 3) (at0 posted)) 0 0 posted 0 3 6 3 (ringOfU p0.uid 3) 1
      (execs (by decide +kernel)) (by decide +kernel) rfl rfl (by decide +kernel) rfl (by decide +kernel)
  have := h.1.2.2.2.1 ringState 0 0 ringer 0 3 4 3 (ringOfU p0.uid 3) (execs (by decide +kernel)) (by decide +kernel)
  have := (h.1.2.2.2.2 (at0 ringer) 0 0 ringer 0 3 6 (execs (by decide +kernel))).1 (by decide +kernel)
  have := ((h.1.2.2.2.2 failedState 0 0 ringer 0 3 6 (execs (by decide +kernel))).2).1 3 failedRing (by decide +kernel) rfl
  have := ((h.1.2.2.2.2 ringState 0 0 ringer 0 3 7 (execs (by decide +kernel))).2).2 3 (ringOfU p0.uid 3)
      (by decide +kernel) rfl (by decide +kernel)
  have := h.2 ringState 0 0 ringer (.rwaitTail 0 3 7 4) 0 3 7 4 3 (ringOfU p0.uid 3) _ _ true (.inr ⟨rfl, rfl⟩)
      (execs (by decide +kernel)) (by decide +kernel) rfl (fun _ => rfl) (by decide +kernel) rfl rfl
  trivial

theorem witness_RingForwarding (h : Obligations.RingForwarding) : True := by
  have := h.1.1 ringState 0 0 ringer 0 3 8 3 (ringOfU p0.uid 3) 0x0701 (by decide +kernel) (execs (by decide +kernel)) rfl
      rfl (by decide +kernel) (by decide +kernel)
  have := h.1.2 ringState 0 0 ringer 0 3 9 3 (ringOfU p0.uid 3) 0x10000 (by decide +kernel) (execs (by decide +kernel)) rfl
      rfl (by decide +kernel) (.inl (by decide))
  have := h.2.1.1 forwarding 3 1 3 source sink rfl rfl (by decide +kernel) (by decide +kernel) (by decide +kernel) rfl
      (by decide +kernel) rfl rfl (by decide +kernel) (by decide +kernel) (by decide +kernel)
  have := h.2.1.2.1 credited creditSource sender 1 (ringPlace sink.name 0) rfl rfl (by decide +kernel) (by decide +kernel)
  have := h.2.1.2.2.1 arrivingSlot 0 (pk0 arrivingSlot) { core := 0, id := source.name } (ringPlace sink.name 0) [1, 2] 1 3
      sink 0 receiver (arrived (by decide +kernel)) rfl rfl (by decide +kernel) (by decide +kernel)
  have := h.2.1.2.2.2.1 arrivingAck 0 (pk0 arrivingAck) { core := 0, id := source.name } 3 creditSource sender
      (ringPlace sink.name 0, false) (arrived (by decide +kernel)) rfl rfl (by decide +kernel) (by decide +kernel) rfl
  have := h.2.1.2.2.2.2 lostSink lostSource sender rfl (by decide +kernel) rfl (by decide +kernel) rfl rfl
  have := h.2.2.1 (claimArrives 2) 0 (pk0 (claimArrives 2)) claimWord 0 512 2 false claimer false 3 sink
      (arrived (by decide +kernel)) rfl rfl (by decide +kernel) (by decide +kernel) rfl
  have := h.2.2.2.1 (claimArrives 4) 0 (pk0 (claimArrives 4)) claimWord 0 512 4 false claimer false
      (arrived (by decide +kernel)) rfl rfl (by decide +kernel) (by decide +kernel)
  have := h.2.2.2.2.1 claimWaits queued 512 claimer false [] rfl rfl (by decide +kernel) rfl
  have := h.2.2.2.2.2 claimAnswer 0 (pk0 claimAnswer) claimer 77 copying (arrived (by decide +kernel)) rfl rfl
      (by decide +kernel) rfl rfl
  trivial

end W6

namespace W7

/-- A process with rings 1 and 2 defined, each with one filled slot of 1,024 bytes, whose z registers are zero. -/
def tileRing (j : Nat) : Ring :=
  { Ring.bound p0.uid j with defd := true, base := 16 * j, ssize := 4, count := 4, tail := 1, filled := 1, busy := 1 }
def tiled (p : Proc) : State := withRing 0 2 (tileRing 2) (withRing 0 1 (tileRing 1) (at0 p))
def mma : Instr := .tmma 0 6 0 2 1
def store : Instr := .tstore 0 8 0 2 0
/-- It waits for acceptance, or for the result of the accepted instruction. -/
def accepting (i : Instr) : State := (tiled (waiting i .tileWait)).modCore 0 fun co => { co with tilew := [p0.uid] }
def tileOp (i : Instr) (till : Option Nat) : TileOp :=
  { uid := p0.uid, instr := i, z := p0.z, slot := 1, start := 0, till := till, held := none }
def computing (i : Instr) (till : Option Nat) : State :=
  (tiled (waiting i .tileRun)).modCore 0 fun co => { co with tileq := [tileOp i till] }
def governed : State := (mapped m0).modCore 0 fun co => { co with tileq := [{ tileOp mma none with held := some 0 }] }
theorem witness_TileUnit (h : Obligations.TileUnit) : True := by
  have := h.1.1 m0 0 0 p0 0 1 2 (by decide +kernel) (execs (by decide +kernel))
  have := h.1.2 (tiled p0) 0 0 p0 mma 0 _ _ rfl (by decide +kernel) (execs (by decide +kernel)) rfl
      (fun a h => by cases h; decide +kernel) (by decide +kernel)
      (List.forall_mem_cons.2 ⟨⟨1, tileRing 1, by decide +kernel, by decide +kernel⟩, List.forall_mem_cons.2 ⟨⟨2, tileRing 2, by decide +kernel, by decide +kernel⟩, fun _ h => nomatch h⟩⟩)
      (fun r h => nomatch h)
  have := h.2.1.1 (accepting store) 0 0 (waiting store .tileWait) store [] _ rfl rfl (waits (by decide +kernel)) rfl
      (fun r h => nomatch h) (fun r h => by cases h; exact ⟨2, tileRing 2, by decide +kernel, by decide +kernel⟩)
      (by decide +kernel) (fun _ h => nomatch h)
  have := h.2.1.2.1 (computing mma none) 0 (tileOp mma none) [] rfl rfl rfl rfl (by decide +kernel) (by decide +kernel)
      (fun w h => nomatch h)
  have := h.2.1.2.2 governed 0 0 0 _ rfl (by decide +kernel) rfl (by decide +kernel)
  have := h.2.2.1 (computing mma (some 0)) 0 0 (waiting mma .tileRun) (tileOp mma (some 0)) [] 0 _ rfl rfl
      ⟨0, rfl, by decide⟩ rfl rfl (waits (by decide +kernel)) (everyOf (by decide +kernel))
  have := h.2.2.2 (computing mma (some 0)) 0 0 (waiting mma .tileRun) (tileOp mma (some 0)) [] 0 _ _ rfl rfl
      ⟨0, rfl, by decide⟩ rfl rfl (waits (by decide +kernel)) (everyOf (by decide +kernel)) rfl
  trivial

end W7

namespace W8

/-- A process that spawns the header at 0x10040 on vcore 1. -/
def spawner : Proc := { p0 with e := (p0.e.set 0 0x10040).set 1 0x0000000700000001 }
def spawnBody : Body := .spawnReq 0x10040 [1, 2, 3, 4] 7 0 1 [] false me
def spawnState : State := withPage 1 (mapped { m0 with hbm := headerMem })
def spawnArrives : State := packetTo 0 1 spawnBody spawnState
/-- The state after the read of the header. -/
def headerRead : State :=
  match spawnArrives.readHeader 1 0 0x10040 with
  | .ok _ u => u
  | _ => m0
def spawned : Proc := waiting (.spawn 0 1 4) .spawnAns
def record : Record :=
  { hdr := 0x10040, args := #v[1, 2, 3, 4], exact := false, index := 7, ctx := 0, prio := 1, launch := none, since := 0,
    header := some tinyHeader, exactHdr := none, tol := 0, glim := 0, reserved := false }
def starting : State := happens { c := 1 } ((mapped m0).modCore 1 fun co => { co with queue := [record] })
/-- A process whose window of 256 bytes is being cleared. -/
def fresh : Proc := { p0 with header := tinyHeader, wbase := 512, wsize := 256, rings := [], ports := [] }
def clearing : State := putAt 0 0 fresh m0 .starting
/-- A stage with an input of one message on port 0 and an output of one credit on port 1, ready to fire. -/
def stager : Proc :=
  { waiting (.quit 0) .stage with header := #v[0x40, 0x4040101020200001, 0x102, 0, 0x04010020, 0, 0, 0], ports := [0, 1] }
def inPort : Port :=
  { owner := p0.uid, state := 2, type := 0, buffered := true, depth := 4, tlen := 0, peer := 0, peerBuf := false, prev := 0, credits := 0,
    tileOff := none, owed := [], held := [{ sender := 0, words := [5], self := 0 }], queue := [], asked := false, refused := false,
    seq := 0, disp := none }
def staged : State :=
  (at0 stager).modCore 0 fun co => { co with ports := [(0, inPort), (1, { inPort with state := 3, credits := 1, held := [] })] }
/-- A process of launch 0 of die 0 without copies, ports or rings. -/
def leaf : Proc := { fresh with record := { fresh.record with launch := some 0 } }
/-- Sixteen blocked processes, one queued record, and the time to park one; and one that is being parked or restored. -/
def blockedAt (k : Nat) : Proc := { waiting (.recv 0 0 0 0 1) (.recv 0) fresh with uid := k, wbase := 256 * k }
def full16 : State :=
  let s := (slotNumbers.foldl (fun s k => putAt 1 k (blockedAt k) s .blocked) m0).modCore 1 fun co => { co with queue := [record] }
  happens { c := 1 } { s with now := 5000 }
def parking (back : Bool) : State := m0.setSlot 0 0 { Slot.reset with state := .parking, proc := some (blockedAt 0), back := back }
def spawnAnswered : State := packetTo 1 0 (.spawnAns me 4) (at0 spawned)
def yielded : State := m0.setSlot 0 0 { m0.slot 0 0 with yielding := some 0 }
/-- Every stage entry of the header finds its port, with a message held or a credit. -/
theorem stager_ready : ∀ e ∈ stageEntries stager.header, ∃ q po, stager.ports[stagePort e.2]? = some q ∧ staged.port 0 q = some po ∧
    if stageIn e.2 ≠ 0 then po.buffered = true ∧ stageIn e.2 ≤ po.held.length else stageOut e.2 ≤ po.credits := by
  have h : stageEntries stager.header = [(0, 0x20), (1, 0x401)] := by decide +kernel
  rw [h]
  refine List.forall_mem_cons.2 ⟨⟨0, inPort, ?_⟩, List.forall_mem_cons.2 ⟨⟨1, { inPort with state := 3, credits := 1, held := [] }, ?_⟩, ?_⟩⟩
  · decide +kernel
  · decide +kernel
  · simp
theorem witness_Spawns (h : Obligations.Spawns) : True := by
  have := h.1.1 (at0 spawner (mapped m0)) 0 0 spawner 0 1 4 1 0 1 (execs (by decide +kernel)) rfl rfl rfl
      (by decide +kernel) (by decide +kernel) (by decide +kernel) (.inl (by decide)) (by decide +kernel) (by decide +kernel)
      (by decide +kernel)
  have := h.1.2.1 spawnArrives 0 (pk0 spawnArrives) 0x10040 1 2 3 4 7 0 1 [] false me tinyHeader headerRead
      (arrived (by decide +kernel)) rfl rfl (by decide +kernel) (by decide +kernel) (by decide +kernel) rfl
  have := h.1.2.2 spawnAnswered 0 (pk0 spawnAnswered) me 4 0 spawned 0 4 (arrived (by decide +kernel)) rfl rfl rfl
      (waits (by decide +kernel)) (.inr (fun _ h => nomatch h))
  have := h.2.1 starting 1 record tinyHeader rfl (by decide +kernel) (by decide +kernel) (by decide +kernel)
      (fun _ h => nomatch h) rfl (by decide +kernel) rfl rfl rfl (by decide +kernel) (by decide +kernel) (by decide +kernel)
  have := h.2.2 clearing 0 0 fresh rfl rfl (by decide +kernel) (by decide +kernel) (by decide +kernel) (by decide +kernel)
      (by decide +kernel) (by decide +kernel)
  trivial

theorem witness_ProcessControl (h : Obligations.ProcessControl) : True := by
  have := h.1.1 m0 0 0 p0 0 _ (execs (by decide +kernel)) rfl
  have := h.1.1 (at0 leaf) 0 0 leaf 0 _ (execs (by decide +kernel)) rfl
  have := h.1.2 (putAt 0 0 leaf (mapped m0)) 0 0 leaf { kind := 1, tcause := 3, tval := 5, tpc := 7 } 0 4353
      (by decide +kernel) (by decide +kernel) (by decide +kernel) (by decide +kernel) rfl rfl rfl (by decide +kernel)
      (by decide +kernel)
  have := h.2.1.1 m0 0 0 p0 0 (execs (by decide +kernel))
  have := h.2.1.2.1 m0 0 0 p0 0 (execs (by decide +kernel))
  have := h.2.1.2.2.1 yielded 0 rfl (by decide +kernel)
  have := h.2.1.2.2.2 m0 0 0 p0 0 2 (execs (by decide +kernel))
  have := h.2.2.1 full16 1 0 (blockedAt 0) rfl (by decide +kernel) (by decide +kernel) (by decide +kernel)
  have := h.2.2.2.1 full16 1 0 (by decide +kernel)
  have := h.2.2.2.2.1 (parking false) 0 0 (blockedAt 0) rfl rfl (by decide +kernel) (by decide +kernel) (by decide +kernel)
      (by decide +kernel)
  have := h.2.2.2.2.2.1 (parking true) 0 0 (blockedAt 0) rfl rfl (by decide +kernel) (by decide +kernel) (by decide +kernel)
      (by decide +kernel)
  have := h.2.2.2.2.2.2 staged 0 0 stager 0 rfl rfl (waits (by decide +kernel)) stager_ready
  trivial

end W8

namespace W9

/-- A process with word `w` in x1, and one on core 1. -/
def speaker (w : Word) : Proc := { p0 with x := p0.x.set 1 w }

def hearer : Proc := { p0 with uid := 9, vcore := 1 }

/-- A port of process `u` in state `st`, and the two processes with ports in their port 2. -/
def portOf (u st type : Nat) (peer : Word) : Port := { Port.closed u with state := st, type := type, peer := peer }

def pair (p q : Proc) (a b : Port) : State :=
  { ((putAt 1 0 q (at0 p (mapped m0))).setPort 0 2 a).setPort 1 2 b with cur := (0, 0) }

def handleA (type : Nat) : Word := (mapped m0).handle p0 2 type

def handleB (type : Nat) : Word := (mapped m0).handle hearer 2 type

/-- Core port 2 of the speaker's core is `po`. -/
def atPort (p : Proc) (po : Port) : State := (at0 p (mapped m0)).setPort 0 2 po

def heldPort : Port := { portOf 0 1 0 0 with buffered := true, depth := 4, held := [{ sender := handleB 0, words := [5], self := 7 }] }

/-- A bound port of the speaker with one credit, to a rendezvous or a buffered peer. -/
def boundA (buf : Bool) : Port := { portOf 0 3 0 (handleB 0) with credits := 1, peerBuf := buf }

def owing : Proc := { speaker 5 with sack := 1 }

def tilePort : Port := { portOf 0 3 2 (handleB 2) with tlen := 1 }

def tileSpeaker : Proc := speaker (m0.localAddr 0 0)

def tileReady : Port := { tilePort with credits := 1, tileOff := some 256 }

/-- The tag of a message. -/
def tag0 : ChanTag := { index := 0, seq := 0 }

/-- A RECVT that takes a tile on port 2, and flits for it. -/
def taker : Proc := waiting (.recvt 0 1 2 1 3) (.tileData 2 true) (speaker (m0.localAddr 0 256))

def flit (last : Bool) : Body := .tileData (handleA 2) (handleB 2) 256 (List.replicate 64 7) last 9 tag0

def taking (last : Bool) : State := packetTo 1 0 (flit last) (atPort taker tilePort)

/-- A pager of die 0 that wakes the process of core 0. -/
def pager : Proc := { p0 with uid := 8, vcore := 4352 }

def hears (b : Body) (p q : Proc) (x y : Port) : State := packetTo 0 1 b (pair p q x y)

def answers (b : Body) (p : Proc) (x : Port) : State := packetTo 1 0 b (pair p hearer x (portOf 9 1 0 0))

def ask : Body := .creditReq (handleB 0) (handleA 0) 0 0 5 7 tag0

def openB : Port := { portOf 9 1 0 0 with buffered := true, depth := 4 }

def request : Req := { sender := handleA 0, data := 5, self := 7 }

def askedB : Port := { openB with queue := [request] }

def meetB : Port := { portOf 9 1 0 0 with queue := [request] }

def hearing : Proc := waiting (.recv 0 1 2 1 3) (.recv 2) hearer

def msg : Body := .chanMsg (handleB 0) (handleA 0) 0 [5] 7 tag0

def owedB : Port := { openB with owed := [handleA 0] }

def acked : Proc := waiting (.send 0 1 2 1 3) (.sendAck 2)

def binding : Proc := waiting (.chbind 0 1 2 1 3) (.bind 2)

def query : Body := .bindQuery (handleB 0) (handleA 0) 0 0 7 tag0

def giveBack : Body := .creditRet (handleB 0) (handleA 0) 1

def withdrawn : Body := .withdraw (handleB 0) (handleA 0)

/-- Two processes each of which waits for a credit of the other. -/
def stuckA : Proc := waiting (.send 0 1 2 1 3) (.credit 2)

def stuckB : Proc := waiting (.send 0 1 2 1 3) (.credit 2) hearer

def stuck : State := { pair stuckA stuckB (portOf 0 3 0 (handleB 0)) (portOf 9 3 0 (handleA 0)) with now := 2000000, ev := { c := 0, n := 0 } }

def otherHandle : Word := (mapped m0).handle { hearer with vcore := 2 } 2 0

def passing : State := packetTo 0 1 (.probe otherHandle [otherHandle] (handleB 0) tag0) stuck

def closing : State := packetTo 1 0 (.probe (handleA 0) [handleA 0, handleB 0] (handleA 0) tag0) stuck

def strangeHandle : Word := (mapped m0).handle { hearer with vcore := 2, record := { hearer.record with ctx := 5 } } 2 0

def strange : State := packetTo 0 1 (.probe strangeHandle [strangeHandle] (handleB 0) tag0) stuck

def tileHearer : Proc := waiting (.recvt 0 1 2 1 3) (.tileRecv 2) hearer

def meetTile : Port := { meetB with type := 2, tlen := 1 }

theorem witness_PortControl (h : Obligations.PortControl) : True := by
  have := h.1 (atPort (speaker 0x310) (portOf 0 0 0 0)) 0 0 (speaker 0x310) 0 1 2 1 3 2 (portOf 0 0 0 0) 0x310 4
      (execs (by decide +kernel)) ⟨by decide +kernel, by decide +kernel⟩ (by decide +kernel) (by decide +kernel)
      (by decide +kernel) (by decide +kernel) (by decide +kernel) (by decide +kernel) (by decide +kernel) (by decide +kernel)
      (by decide +kernel) (by decide +kernel) (by decide +kernel) (by decide +kernel)
  have := h.2.1 (atPort (speaker 0x310) (portOf 0 1 0 0)) 0 0 (speaker 0x310) 0 1 2 1 3 2 (portOf 0 1 0 0) 0x310
      (execs (by decide +kernel)) ⟨by decide +kernel, by decide +kernel⟩ (by decide +kernel) (by decide +kernel)
  have := h.2.2.1 (atPort (speaker (handleB 0)) (portOf 0 1 0 0)) 0 0 (speaker (handleB 0)) 0 1 2 1 3 2 (portOf 0 1 0 0)
      (handleB 0) 1 (execs (by decide +kernel)) ⟨by decide +kernel, by decide +kernel⟩ (by decide +kernel) (by decide +kernel)
      (by decide +kernel) (by decide +kernel) (by decide +kernel) (by decide +kernel) (by decide +kernel) (by decide +kernel)
      (by decide +kernel)
  have := h.2.2.2.1 (atPort p0 (portOf 0 1 0 0)) 0 0 p0 0 1 2 3 2 (portOf 0 1 0 0) (execs (by decide +kernel))
      ⟨by decide +kernel, by decide +kernel⟩
  have := h.2.2.2.2.1 (atPort p0 heldPort) 0 0 p0 0 2 0 3 2 heldPort (execs (by decide +kernel))
      ⟨by decide +kernel, by decide +kernel⟩ (by decide +kernel) (by decide +kernel) (by decide +kernel) (by decide +kernel)
      (by decide +kernel)
  have := h.2.2.2.2.1 (atPort p0 heldPort) 0 0 p0 0 2 1 3 2 heldPort (execs (by decide +kernel))
      ⟨by decide +kernel, by decide +kernel⟩ (by decide +kernel) (by decide +kernel) (by decide +kernel) (by decide +kernel)
      (by decide +kernel)
  have := h.2.2.2.2.1 (atPort p0 heldPort) 0 0 p0 0 2 2 3 2 heldPort (execs (by decide +kernel))
      ⟨by decide +kernel, by decide +kernel⟩ (by decide +kernel) (by decide +kernel) (by decide +kernel) (by decide +kernel)
      (by decide +kernel)
  have := h.2.2.2.2.1 (atPort p0 heldPort) 0 0 p0 0 2 8 3 2 heldPort (execs (by decide +kernel))
      ⟨by decide +kernel, by decide +kernel⟩ (by decide +kernel) (by decide +kernel) (by decide +kernel) (by decide +kernel)
      (by decide +kernel)
  have := h.2.2.2.2.2 (atPort p0 heldPort) 0 0 p0 0 1 2 3 2 heldPort (execs (by decide +kernel))
      ⟨by decide +kernel, by decide +kernel⟩ (by decide +kernel)
  have := h.2.2.2.2.2 (atPort p0 (portOf 0 0 0 0)) 0 0 p0 0 1 2 3 2 (portOf 0 0 0 0) (execs (by decide +kernel))
      ⟨by decide +kernel, by decide +kernel⟩ (by decide +kernel)
  have := h.2.2.2.2.2 (atPort p0 (portOf 0 1 0 0)) 0 0 p0 0 1 2 3 2 (portOf 0 1 0 0) (execs (by decide +kernel))
      ⟨by decide +kernel, by decide +kernel⟩ (by decide +kernel)
  trivial

theorem witness_Messages (h : Obligations.Messages) : True := by
  have := h.1 (atPort (speaker 5) (portOf 0 0 0 0)) 0 0 (speaker 5) (.send 0 1 2 1 3) _ 2 (portOf 0 0 0 0) rfl
      (execs (by decide +kernel)) ⟨by decide +kernel, by decide +kernel⟩ (by decide +kernel) (by decide +kernel)
  have := h.1 (atPort (speaker 5) (boundA true)) 0 0 (speaker 5) (.send 0 1 2 1 3) _ 2 (boundA true) rfl
      (execs (by decide +kernel)) ⟨by decide +kernel, by decide +kernel⟩ (by decide +kernel) (by decide +kernel)
  have := h.1 (atPort (speaker 5) (boundA false)) 0 0 (speaker 5) (.cSend 2 1) _ 2 (boundA false) rfl
      (execs (by decide +kernel)) ⟨by decide +kernel, by decide +kernel⟩ (by decide +kernel) (by decide +kernel)
  have := h.1 (atPort (speaker 5) (portOf 0 3 0 (handleB 0))) 0 0 (speaker 5) (.send 0 1 2 1 3) _ 2
      (portOf 0 3 0 (handleB 0)) rfl (execs (by decide +kernel)) ⟨by decide +kernel, by decide +kernel⟩ (by decide +kernel)
      (by decide +kernel)
  have := h.1 (atPort p0 { boundA true with type := 1 }) 0 0 p0 (.sendv 0 1 2 1 3) _ 2 { boundA true with type := 1 } rfl
      (execs (by decide +kernel)) ⟨by decide +kernel, by decide +kernel⟩ (by decide +kernel) (by decide +kernel)
  have := h.1 (atPort owing (boundA true)) 0 0 owing (.send 0 1 2 1 3) _ 2 (boundA true) rfl (execs (by decide +kernel))
      ⟨by decide +kernel, by decide +kernel⟩ (by decide +kernel) (by decide +kernel)
  have := h.2.1 (atPort p0 heldPort) 0 0 p0 (.recv 0 1 2 1 3) _ 2 heldPort rfl (execs (by decide +kernel))
      ⟨by decide +kernel, by decide +kernel⟩
  have := h.2.1 (atPort p0 { heldPort with type := 1 }) 0 0 p0 (.recvv 0 0 2 1 3) _ 2 { heldPort with type := 1 } rfl
      (execs (by decide +kernel)) ⟨by decide +kernel, by decide +kernel⟩
  have := h.2.1 (atPort p0 { heldPort with buffered := false }) 0 0 p0 (.cRecv 2 3) _ 2 { heldPort with buffered := false }
      rfl (execs (by decide +kernel)) ⟨by decide +kernel, by decide +kernel⟩
  have := h.2.2.1 (atPort tileSpeaker tilePort) 0 0 tileSpeaker 0 1 2 1 3 2 tilePort 0 (execs (by decide +kernel))
      ⟨by decide +kernel, by decide +kernel⟩ (by decide +kernel) (by decide +kernel) (by decide +kernel)
  have := h.2.2.2.1 (atPort tileSpeaker tileReady) 0 0 tileSpeaker 0 1 2 1 3 2 tileReady 0 256 1 (execs (by decide +kernel))
      ⟨by decide +kernel, by decide +kernel⟩ (by decide +kernel) (by decide +kernel) (by decide +kernel) (by decide +kernel)
      (by decide +kernel) (by decide +kernel) (by decide +kernel) (by decide +kernel) (by decide +kernel) (by decide +kernel)
  have := h.2.2.2.2.1 (taking false) 0 (pk0 (taking false)) (handleA 2) (handleB 2) 256 (List.replicate 64 7) false 9 tag0
      true taker 2 2 tilePort (arrived (by decide +kernel)) rfl rfl (by decide +kernel) (by decide +kernel)
      (by decide +kernel) (by decide +kernel) (⟨_, rfl, rfl⟩) (by decide +kernel) (by decide +kernel) (by decide +kernel) rfl
  have := h.2.2.2.2.2.1 m0 0 256 (List.replicate 64 7) 300 (by decide +kernel) (by decide +kernel)
  have := h.2.2.2.2.2.2.1 (taking true) 0 (pk0 (taking true)) (handleA 2) (handleB 2) 256 (List.replicate 64 7) 9 tag0 true
      taker 0 2 2 tilePort 1 0 1 3 2 (arrived (by decide +kernel)) rfl rfl (by decide +kernel) (by decide +kernel)
      (by decide +kernel) (by decide +kernel) (by decide +kernel) (waits (by decide +kernel)) (by decide +kernel)
      (by decide +kernel) (by decide +kernel) (by decide +kernel) (by decide +kernel) (by decide +kernel)
  have := h.2.2.2.2.2.2.2 (putAt 4352 0 pager (mapped m0)) 4352 0 pager 0 1 1 3 1 (Port.closed 8) 0 0
      (execs (by decide +kernel)) ⟨by decide +kernel, by decide +kernel⟩ (by decide +kernel) (by decide +kernel)
      (by decide +kernel) (by decide +kernel) (by decide +kernel) (by decide +kernel)
  have := (h.2.1 (atPort p0 heldPort) 0 0 p0 (.recv 0 1 2 1 3) _ 2 heldPort rfl (execs (by decide +kernel))
      ⟨by decide +kernel, by decide +kernel⟩).2.2.2 { sender := handleB 0, words := [5], self := 7 } [] 1 (by decide +kernel)
      (by decide +kernel) (by decide +kernel) (by decide +kernel) (by decide +kernel) (by decide +kernel)
  have := (h.2.1 (atPort p0 { heldPort with type := 1 }) 0 0 p0 (.recvv 0 0 2 1 3) _ 2 { heldPort with type := 1 } rfl
      (execs (by decide +kernel)) ⟨by decide +kernel, by decide +kernel⟩).2.2.2
      { sender := handleB 0, words := [5], self := 7 } [] 1 (by decide +kernel) (by decide +kernel) (by decide +kernel)
      (by decide +kernel) (by decide +kernel) (by decide +kernel)
  have := (h.2.1 (atPort p0 { heldPort with buffered := false }) 0 0 p0 (.cRecv 2 3) _ 2 { heldPort with buffered := false }
      rfl (execs (by decide +kernel)) ⟨by decide +kernel, by decide +kernel⟩).2.2.2
      { sender := handleB 0, words := [5], self := 7 } [] 1 (by decide +kernel) (by decide +kernel) (by decide +kernel)
      (by decide +kernel) (by decide +kernel) (by decide +kernel)
  trivial

theorem witness_ChannelTraffic (h : Obligations.ChannelTraffic) : True := by
  have := h.1.1 (hears ask p0 hearer (boundA true) openB) 0 (pk0 (hears ask p0 hearer (boundA true) openB)) (handleB 0)
      (handleA 0) 0 0 5 7 tag0 0 (arrived (by decide +kernel)) rfl rfl (by decide +kernel) (by decide +kernel)
  have := h.1.1 (hears ask p0 hearer (boundA true) (portOf 9 0 0 0)) 0
      (pk0 (hears ask p0 hearer (boundA true) (portOf 9 0 0 0))) (handleB 0) (handleA 0) 0 0 5 7 tag0 0
      (arrived (by decide +kernel)) rfl rfl (by decide +kernel) (by decide +kernel)
  have := h.1.2.2.1 (pair p0 hearer (boundA true) openB) 1 (handleB 0) (handleA 0) openB hearer (by decide +kernel)
      (by decide +kernel)
  have := h.1.2.2.1 (pair p0 hearer (boundA true) (portOf 9 0 0 0)) 1 (handleB 0) (handleA 0) (portOf 9 0 0 0) hearer
      (by decide +kernel) (by decide +kernel)
  have := h.1.2.2.1 (pair p0 hearer (boundA true) (portOf 9 3 0 77)) 1 (handleB 0) (handleA 0) (portOf 9 3 0 77) hearer
      (by decide +kernel) (by decide +kernel)
  have := h.1.2.2.2.1 (happens { c := 1, n := 2 } (pair p0 hearer (boundA true) askedB)) 1 2 askedB hearer request [] 0 rfl
      rfl (by decide +kernel) (by decide +kernel) (by decide +kernel) (by decide +kernel) (by decide +kernel)
      (by decide +kernel) (by decide +kernel)
  have := h.1.2.2.2.2.1 (happens { c := 1, n := 2 } (pair p0 hearing (boundA true) meetB)) 1 2 0 meetB hearing request [] 0
      (.recv 0 1 2 1 3) 2 rfl rfl (by decide +kernel) (by decide +kernel) (by decide +kernel) (by decide +kernel)
      (by decide +kernel) (by decide +kernel) (waits (by decide +kernel)) (by decide +kernel) (by decide +kernel) (by simp)
      (by decide +kernel) (by decide +kernel)
  have := h.1.2.2.2.2.2.2.1 (hears msg p0 hearer (boundA true) owedB) 0 (pk0 (hears msg p0 hearer (boundA true) owedB))
      (handleB 0) (handleA 0) 0 [5] 7 tag0 owedB (arrived (by decide +kernel)) rfl rfl (by decide +kernel) (by decide +kernel)
      (by decide +kernel)
  have := h.1.2.2.2.2.2.2.2.1 (answers (.chanAns (handleA 0) (handleB 0) 0 0 0 true 5 7) p0 (boundA true)) 0
      (pk0 (answers (.chanAns (handleA 0) (handleB 0) 0 0 0 true 5 7) p0 (boundA true))) (handleB 0) (handleA 0) 0 true
      (boundA true) p0 5 7 (arrived (by decide +kernel)) rfl rfl (by decide +kernel) (by decide +kernel) (by decide +kernel)
      (by decide +kernel) (by decide +kernel)
  have := h.1.2.2.2.2.2.2.2.2.1 (answers (.chanAns (handleA 0) (handleB 0) 3 4 0 false 5 7) acked (boundA false)) 0
      (pk0 (answers (.chanAns (handleA 0) (handleB 0) 3 4 0 false 5 7) acked (boundA false))) (handleB 0) (handleA 0) 4
      (boundA false) acked 5 7 0 (.send 0 1 2 1 3) 2 _ (arrived (by decide +kernel)) rfl rfl (by decide +kernel)
      (by decide +kernel) (by decide +kernel) (waits (by decide +kernel)) (by decide +kernel) rfl (by decide +kernel)
  have := h.1.2.2.2.2.2.2.2.2.2.1 (answers (.chanAns (handleA 0) (handleB 0) 2 0 0 true 5 7) binding (portOf 0 2 0 0)) 0
      (pk0 (answers (.chanAns (handleA 0) (handleB 0) 2 0 0 true 5 7) binding (portOf 0 2 0 0))) (handleB 0) (handleA 0) 0
      true (portOf 0 2 0 0) binding 5 7 0 0 1 2 1 3 (arrived (by decide +kernel)) rfl (by decide +kernel) (by decide +kernel)
      rfl (by decide +kernel) (by decide +kernel) (waits (by decide +kernel)) (by decide +kernel)
  have := h.1.2.2.2.2.2.2.2.2.2.1
      (answers (.chanAns (handleA 0) (handleB 0) 2 4 0 true 5 7) binding { portOf 0 2 0 0 with prev := 1 }) 0
      (pk0 (answers (.chanAns (handleA 0) (handleB 0) 2 4 0 true 5 7) binding { portOf 0 2 0 0 with prev := 1 })) (handleB 0)
      (handleA 0) 4 true { portOf 0 2 0 0 with prev := 1 } binding 5 7 0 0 1 2 1 3 (arrived (by decide +kernel)) rfl
      (by decide +kernel) (by decide +kernel) rfl (by decide +kernel) (by decide +kernel) (waits (by decide +kernel))
      (by decide +kernel)
  have := h.1.2.2.2.2.2.2.2.2.2.2.1 (hears query p0 hearer (portOf 0 2 0 0) openB) 0
      (pk0 (hears query p0 hearer (portOf 0 2 0 0) openB)) (handleB 0) (handleA 0) 0 0 7 tag0 0 (arrived (by decide +kernel))
      rfl rfl (by decide +kernel) (by decide +kernel) openB (by decide +kernel) (by decide +kernel)
  have := h.1.2.2.2.2.2.2.2.2.2.2.2.1 (hears giveBack p0 hearer (boundA true) owedB) 0
      (pk0 (hears giveBack p0 hearer (boundA true) owedB)) (handleB 0) (handleA 0) owedB hearer (arrived (by decide +kernel))
      rfl rfl (by decide +kernel) (by decide +kernel) (by decide +kernel)
  have := h.1.2.2.2.2.2.2.2.2.2.2.2.2 (hears withdrawn p0 hearer (boundA true) askedB) 0
      (pk0 (hears withdrawn p0 hearer (boundA true) askedB)) (handleB 0) (handleA 0) askedB hearer
      (arrived (by decide +kernel)) rfl rfl (by decide +kernel) (by decide +kernel) (by decide +kernel)
  have := h.2.1 stuck 0 0 stuckA 0 1 2 1 3 2 (portOf 0 3 0 (handleB 0)) 1 rfl rfl (by decide +kernel) (⟨_, rfl, rfl⟩)
      (by decide +kernel) (by decide +kernel) (by decide +kernel) (by decide +kernel) (by decide +kernel) (by decide +kernel)
      (by decide +kernel) (by decide +kernel) (by decide +kernel)
  have := h.2.2.1 passing 0 (pk0 passing) otherHandle [otherHandle] (handleB 0) tag0 (portOf 9 3 0 (handleA 0)) stuckB
      { instr := .send 0 1 2 1 3, kind := .credit 2 } 0 1 2 1 3 2 (portOf 9 3 0 (handleA 0)) 0 (arrived (by decide +kernel))
      rfl rfl (by decide +kernel) (by decide +kernel) (by decide +kernel) (by decide +kernel) (by decide +kernel)
      (by decide +kernel) rfl rfl (by decide +kernel) (by decide +kernel) (by decide +kernel) (by decide +kernel)
      (by decide +kernel)
  have := h.2.2.2.2 closing 0 (pk0 closing) (handleA 0) [handleA 0, handleB 0] (handleA 0) tag0 (portOf 0 3 0 (handleB 0))
      stuckA (arrived (by decide +kernel)) rfl rfl (by decide +kernel) (by decide +kernel) (by decide +kernel)
      (by decide +kernel) (by decide +kernel) (by decide +kernel) (by decide +kernel) (by decide +kernel) (by decide +kernel)
      (by decide +kernel) (everyOf (by decide +kernel)) (by decide +kernel) (by decide +kernel)
  have := (h.1.1 (hears ask p0 hearer (boundA true) openB) 0 (pk0 (hears ask p0 hearer (boundA true) openB)) (handleB 0)
      (handleA 0) 0 0 5 7 tag0 0 (arrived (by decide +kernel)) rfl rfl (by decide +kernel) (by decide +kernel)).1 openB
      (by decide +kernel) (by decide +kernel) (by decide +kernel)
  have := (h.1.1 (hears ask p0 hearer (boundA true) (portOf 9 0 0 0)) 0
      (pk0 (hears ask p0 hearer (boundA true) (portOf 9 0 0 0))) (handleB 0) (handleA 0) 0 0 5 7 tag0 0
      (arrived (by decide +kernel)) rfl rfl (by decide +kernel) (by decide +kernel)).2 4 (by decide +kernel)
      (by decide +kernel)
  have := h.2.2.2.1 strange 0 (pk0 strange) strangeHandle [strangeHandle] (handleB 0) tag0 (portOf 9 3 0 (handleA 0)) stuckB
      (arrived (by decide +kernel)) rfl rfl (by decide +kernel) (by decide +kernel) (by decide +kernel)
  have := h.1.2.1 (happens { c := 1, n := 2 } (pair p0 hearer (boundA true) askedB))
  have := h.1.2.2.2.2.2.1 (happens { c := 1, n := 2 } (pair p0 tileHearer (boundA true) meetTile)) 1 2 0 meetTile tileHearer
      request [] 0 2 0 1 2 1 3 rfl rfl (by decide +kernel) (by decide +kernel) (by decide +kernel) (by decide +kernel)
      (by decide +kernel) (by decide +kernel) (waits (by decide +kernel)) (by decide +kernel) (by decide +kernel)
      (by decide +kernel) (by decide +kernel) (by decide +kernel)
  trivial

end W9

namespace W10

/-- A process with words `a` and `b` in e0 and e1. -/
def chooser (a b : Word) : Proc := { p0 with e := (p0.e.set 0 a).set 1 b }

/-- ALT of the word at byte 0x10000, and the process that waits in it since cycle 0. -/
def altWord : Word := 0x4000000000010000

def altAsks (b : Word) : State := withPage 0 (at0 (chooser altWord b))

def altHolds (a b : Word) : Proc := { waiting (.alt 0 1 3) .alt (chooser a b) with altEnd := some 0 }

def altBlocked (a b : Word) (now : Nat) : State :=
  happens { c := 0, k := 0 } { withPage 0 (putAt 0 0 (altHolds a b) m0 .blocked) with now := now }

def timed : Proc := { waiting (.alt 0 0 3) .alt (chooser 0x7000000000000005 0) with altEnd := some 0 }

def altTimed : State := happens { c := 0, k := 0 } { putAt 0 0 timed m0 .blocked with now := 100 }

def noted : Body := .watchNote me 0x10000

theorem witness_AltResults (h : Obligations.AltResults) : True := by
  have := h.1.1 (at0 (chooser 0x8000000000000000 0)) 0 0 (chooser 0x8000000000000000 0) 0 0 3 (0, 8, 0x8000000000000000)
      (execs (by decide +kernel)) (by decide +kernel) (by decide +kernel)
  have := h.1.2.1 (at0 (chooser 0x7000000000000000 0)) 0 0 (chooser 0x7000000000000000 0) 0 0 3 _ _
      (execs (by decide +kernel)) rfl (by decide +kernel) (by decide +kernel) rfl
  have := h.1.2.1 (at0 (chooser 0x7000000000000005 0)) 0 0 (chooser 0x7000000000000005 0) 0 0 3 _ _
      (execs (by decide +kernel)) rfl (by decide +kernel) (by decide +kernel) rfl
  have := h.1.2.1 (at0 (chooser 0x7000000000000005 0x2000000000000010)) 0 0 (chooser 0x7000000000000005 0x2000000000000010)
      0 1 3 _ _ (execs (by decide +kernel)) rfl (by decide +kernel) (by decide +kernel) rfl
  have := h.1.2.1 (at0 (chooser 0x0000000000000002 0x1000000000000003)) 0 0 (chooser 0x0000000000000002 0x1000000000000003)
      0 1 3 _ _ (execs (by decide +kernel)) rfl (by decide +kernel) (by decide +kernel) rfl
  have := h.1.2.1 (at0 (chooser 0x5000000300000001 0x3000000000000010)) 0 0 (chooser 0x5000000300000001 0x3000000000000010)
      0 1 3 _ _ (execs (by decide +kernel)) rfl (by decide +kernel) (by decide +kernel) rfl
  have := h.1.2.2.1 m0 0 p0 0 2 2 2 (Port.closed 0) rfl ⟨by decide +kernel, by decide +kernel⟩ (by decide +kernel)
  have := h.1.2.2.2.2.2.1 (at0 { p0 with altEnd := some 0 }) 0 { p0 with altEnd := some 0 } 0 0x7000000000000005 0 rfl
  have := h.1.2.2.2.2.2.2 (altAsks 7) 0 0 (chooser altWord 7) 0 3 altWord page1 0x10000 (execs (by decide +kernel)) rfl
      (by decide +kernel) (by decide +kernel) (by decide +kernel) (by decide +kernel) (by decide +kernel) (by decide +kernel)
      (by decide +kernel) (by decide +kernel) (by decide +kernel) (by decide +kernel) (by decide +kernel) (by decide +kernel)
      (by decide +kernel)
  have := h.1.2.2.2.2.2.2 (altAsks 0) 0 0 (chooser altWord 0) 0 3 altWord page1 0x10000 (execs (by decide +kernel)) rfl
      (by decide +kernel) (by decide +kernel) (by decide +kernel) (by decide +kernel) (by decide +kernel) (by decide +kernel)
      (by decide +kernel) (by decide +kernel) (by decide +kernel) (by decide +kernel) (by decide +kernel) (by decide +kernel)
      (by decide +kernel)
  have := h.2.1 altTimed 0 0 timed 0 0 3 0 0x7000000000000005 rfl rfl (waits (by decide +kernel)) (by decide +kernel)
      (⟨_, rfl, by decide +kernel⟩)
  have := h.2.2.1 (packetTo 4096 0 noted (altBlocked altWord 7 5)) 0 (pk0 (packetTo 4096 0 noted (altBlocked altWord 7 5)))
      0 0 (altHolds altWord 7) 0 3 altWord page1 0x10000 0x10000 (arrived (by decide +kernel)) rfl rfl
      (waits (by decide +kernel)) (by decide +kernel) rfl (by decide +kernel) (by decide +kernel) (by decide +kernel)
      (by decide +kernel) (by decide +kernel) (by decide +kernel) (by decide +kernel) (by decide +kernel) (by decide +kernel)
      (by decide +kernel)
  have := h.2.2.2 (altBlocked altWord 7 1024) 0 0 (altHolds altWord 7) 0 3 altWord page1 0x10000 rfl rfl
      (waits (by decide +kernel)) (by decide +kernel) rfl (by decide +kernel) (by decide +kernel) (by decide +kernel)
      (by decide +kernel) (by decide +kernel) (by decide +kernel) (by decide +kernel) (by decide +kernel) (by decide +kernel)
      (by decide +kernel) (by decide +kernel) (by decide +kernel)
  trivial

end W10

namespace W11

/-- A process with the words of e0 and e1 and of x1 and x2. -/
def launcher (e0 e1 x1 x2 : Word) : Proc := { p0 with e := (p0.e.set 0 e0).set 1 e1, x := (p0.x.set 1 x1).set 2 x2 }

/-- A launch of one record per core on `n` cores from vcore 0, and the operand words of its record. -/
def span (n : Nat) (hold : Bool) : Word := BitVec.ofNat 64 (n * 2 ^ 13 + (if hold then 2 ^ 34 else 0))

def recOf (graph : Bool) (seq born : Nat) (hold : Bool) : LaunchRec :=
  LaunchRec.fresh graph (BitVec.ofNat 23 seq) [] 0 none 0 born #v[0x10040, span 1 hold, 1, 2, 3, 4, 0, 0]

/-- The pool of die 0 holds `a` at place 5 and `b` at place 6. -/
def pooled (a b : LaunchRec) (s : State := mapped m0) : State := s.modDie 0 fun d => { d with pool := [(5, a), (6, b)] }

def recA : LaunchRec := recOf false 3 2 true

def recB : LaunchRec := recOf false 2 1 true

def idA : Nat := 3 * 2048 + 5

def idB : Nat := 2 * 2048 + 6

def graphA : LaunchRec := recOf true 3 2 false

def idG : Nat := 2 ^ 46 + idA

def xAB : Proc := launcher 0 0 (BitVec.ofNat 64 idA) (BitVec.ofNat 64 idB)

def xG : Proc := launcher 0 0 (BitVec.ofNat 64 idG) 0

def doneA : LaunchRec := { recA with state := 5, outcome := 1 }

def asked : Proc := waiting (.launch 0 1 3 4) .launchAns

def asking : State :=
  packetTo 0 4353 (.launchReq [0x10040, span 1 false, 1, 2, 3, 4, 0, 0] 0 [] true none me) (withPage 4353 (mapped { m0 with hbm := headerMem }))

def headRead : State :=
  match asking.launchHead 4353 0 0x10040 (span 1 false) with
  | .ok _ _ _ _ _ _ u => u
  | _ => m0

def freeA : LaunchRec := recOf false 3 2 false

def runA : LaunchRec := { freeA with state := 2, counter := 2 }

def waking : State := packetTo 4353 0 (.wakeLaunch idA 0) (pooled runA recB (withPage 0 (mapped { m0 with hbm := headerMem })))

def wokenHeader : State :=
  match waking.readHeader 0 0 0x10040 with
  | .ok _ u => u
  | _ => m0

def endingA (n : Nat) : LaunchRec := { freeA with state := 3, counter := n }

def told (n : Nat) : State := packetTo 0 4353 (.ended idA { kind := 0 }) (pooled (endingA n) recB)

def queuedA : Record :=
  { hdr := 0x10040, args := #v[1, 2, 3, 4], exact := false, index := 7, ctx := 0, prio := 1, launch := some idA, since := 0,
    header := some tinyHeader, exactHdr := none, tol := 0, glim := 0, reserved := false }

def cancelled : State :=
  packetTo 4353 1 (.cancel idA) ((pooled runA recB).modCore 1 fun co => { co with queue := [queuedA, { queuedA with launch := none }] })

def ofA : Proc := { p0 with uid := 9, vcore := 1, record := { p0.record with launch := some idA } }

def cancelling : State := packetTo 4353 1 (.cancel idA) (putAt 1 0 ofA (pooled runA recB))

def joining : State := packetTo 65536 4353 (.launchJoin idA 0 9 me) (opened (pooled runA recB))

theorem witness_Launches (h : Obligations.Launches) : True := by
  have := h.1.1 (at0 (launcher 0x10040 (span 2 false) 0 0) (mapped m0)) 0 0 (launcher 0x10040 (span 2 false) 0 0) 0 1 3 4
      4353 (execs (by decide +kernel)) (by decide +kernel) (by decide +kernel) (by decide +kernel) (by decide +kernel)
      (by decide +kernel) (by decide +kernel) (by decide +kernel) (by decide +kernel) (.inl (by decide +kernel))
      (by decide +kernel) (by decide +kernel) (by decide +kernel) (by decide +kernel)
  have := h.1.2.1 (pooled recA recB (at0 xAB (mapped m0))) 0 0 xAB 0 1 3 1 4 recA (execs (by decide +kernel))
      (by decide +kernel) (by decide +kernel) (by decide +kernel) (by decide +kernel)
  have := h.1.2.1 (pooled doneA recB (at0 xAB (mapped m0))) 0 0 xAB 0 1 3 1 4 doneA (execs (by decide +kernel))
      (by decide +kernel) (by decide +kernel) (by decide +kernel) (by decide +kernel)
  have := h.1.2.2.1 (pooled recA recB (at0 xAB (mapped m0))) 0 0 xAB 0 1 1 4 recA (execs (by decide +kernel))
      (by decide +kernel) (by decide +kernel) (by decide +kernel)
  have := h.1.2.2.2.1 (pooled recA recB (at0 xAB (mapped m0))) 0 0 xAB 0 1 2 1 4 recA recB (execs (by decide +kernel))
      (by decide +kernel) (by decide) (by decide +kernel) (by decide +kernel) (by decide +kernel) (by decide +kernel)
      (by decide +kernel) (by decide +kernel) (by decide +kernel) (by decide +kernel) (by decide +kernel) (by decide +kernel)
      (by decide +kernel) (by decide +kernel) (by decide +kernel)
  have := h.1.2.2.2.2.1 (pooled recA recB (at0 xAB (mapped m0))) 0 0 xAB 0 1 1 4 recA (execs (by decide +kernel))
      (by decide +kernel) (by decide +kernel) (by decide +kernel) (by decide +kernel) (by decide +kernel) (by decide +kernel)
      (by decide +kernel) (by decide +kernel) (by decide +kernel)
  have := h.1.2.2.2.2.2.1 (at0 p0 (mapped m0)) 0 0 p0 0 0 0 4 (execs (by decide +kernel)) (by decide +kernel)
      (by decide +kernel) (by decide +kernel) (by decide +kernel) rfl (fun l h => by cases h)
  have := h.1.2.2.2.2.2.2.1 (pooled graphA recB (at0 xG (mapped m0))) 0 0 xG 0 1 1 4 graphA (execs (by decide +kernel))
      (by decide +kernel) (by decide +kernel) (by decide +kernel) (by decide +kernel) (by decide +kernel) (by decide +kernel)
  have := h.1.2.2.2.2.2.2.2.1 (at0 (launcher 0 0 7 0) (mapped m0)) 0 0 (launcher 0 0 7 0) 0 1 1 4 (by decide +kernel)
      (execs (by decide +kernel)) (by decide +kernel) (by decide +kernel)
  have := h.1.2.2.2.2.2.2.2.2 (packetTo 4353 0 (.launchAns me 0 7) (at0 asked)) 0
      (pk0 (packetTo 4353 0 (.launchAns me 0 7) (at0 asked))) me 7 0 asked 0 1 3 4 (arrived (by decide +kernel)) rfl rfl rfl
      (waits (by decide +kernel))
  have := h.2.1 asking 0 (pk0 asking) [0x10040, span 1 false, 1, 2, 3, 4, 0, 0] 0 true me 0 false 0 0x10040 headRead
      (arrived (by decide +kernel)) rfl rfl (by decide +kernel) (by decide +kernel) (by decide +kernel) (by decide +kernel)
      (by decide +kernel) (by decide +kernel)
  have := h.2.2.1 (happens { n := idA } (pooled freeA recB)) idA freeA 0 rfl (by decide +kernel) (by decide +kernel)
      (by decide +kernel) (by decide +kernel) (by decide +kernel) (by decide +kernel) (by decide +kernel) (by decide +kernel)
      (by decide +kernel) (by decide +kernel) (by decide +kernel) (by decide +kernel) (by decide +kernel)
  have := h.2.2.2.1 waking 0 (pk0 waking) idA 0 runA (some tinyHeader) wokenHeader (arrived (by decide +kernel)) rfl rfl
      (by decide +kernel) (by decide +kernel) (by decide +kernel) (by decide +kernel)
  have := h.2.2.2.2.1 (told 2) 0 (pk0 (told 2)) idA { kind := 0 } (endingA 2) (arrived (by decide +kernel)) rfl rfl
      (by decide +kernel) rfl (by decide +kernel)
  have := h.2.2.2.2.2.1 (told 1) 0 (pk0 (told 1)) idA { kind := 0 } (endingA 1) 0 (arrived (by decide +kernel)) rfl rfl
      (by decide +kernel) rfl (by decide +kernel) (by decide +kernel) (by decide +kernel) (by decide +kernel)
      (by decide +kernel) (by decide +kernel) (by decide +kernel) (by decide +kernel) (by decide +kernel) rfl
  have := h.2.2.2.2.2.2.1 cancelled 0 (pk0 cancelled) idA (arrived (by decide +kernel)) rfl rfl (by decide +kernel)
      (by decide +kernel) (by decide +kernel) (by decide +kernel) (by decide +kernel)
  have := h.2.2.2.2.2.2.2.2 cancelling 0 (pk0 cancelling) idA 0 ofA (arrived (by decide +kernel)) rfl rfl
      (by decide +kernel) (by decide +kernel) (by decide +kernel) (by decide +kernel) (by decide +kernel) (by decide +kernel)
      (by decide +kernel) (by decide +kernel) (by decide +kernel) (by decide +kernel) (by decide +kernel)
  have := h.2.2.2.2.2.2.2.1 joining 0 (pk0 joining) idA 0 9 me runA (arrived (by decide +kernel)) rfl rfl
      (by decide +kernel)
  trivial

end W11

namespace W12

/-- Word 1 of R240. -/
def groupWord (parent child oper type wm1 mode lsend lrecv : Nat) : Word :=
  BitVec.ofNat 64 (parent + child * 2 ^ 4 + oper * 2 ^ 13 + type * 2 ^ 16 + wm1 * 2 ^ 19 + mode * 2 ^ 22 + lsend * 2 ^ 24 + lrecv * 2 ^ 29)

def entry (w : Word) (seqs : List Sequence) : Combine := { valid := true, ctx := 0, base := 0, word := w, seqs := seqs, creds := 1 }

/-- Group 3 of core 0 is `e`. -/
def grouped (e : Combine) (p : Proc := p0) : State := (at0 p (mapped m0)).setGroup 0 3 e

/-- A root for sums of 64-bit integers with two local senders and one local receiver, and one for four words. -/
def rootWord : Word := groupWord 0 0 0 3 0 0 2 1

def wideWord : Word := groupWord 0 0 0 3 3 0 2 1

def seqOf (locs : List (Nat × Nat × List Word)) : Sequence := { Sequence.opened 0 with loc := locs }

def summed (ws : List Word) : Sequence := { seqOf [(5, 0, [1]), (6, 1, [2])] with sent := true, result := some (ws, 0) }

def owing : Proc := { p0 with sack := 1 }

def fullSeqs : List Sequence := [0, 1, 2, 3].map fun n => { seqOf [(5, 0, [1]), (6, 1, [2])] with seq := n, sent := true }

def blockMem (a b : Word) : Mem := (Mem.putNat [] 0 8 a.toNat).putNat 8 8 b.toNat

/-- A process with the address of byte 0 of its window in x1 and `w` in x4, whose block there holds `a` and `b`. -/
def configures (w : Word) : Proc := { p0 with x := (p0.x.set 1 (m0.localAddr 0 0)).set 4 w }

def blockAt (a b : Word) : State := (at0 (configures 0) (mapped m0)).modCore 0 fun co => { co with spad := blockMem a b }

/-- A router with a child to the north, which is a root or sends its value to the south. -/
def rootOver : Word := groupWord 0 2 0 3 0 0 2 1

def sendsOver : Word := groupWord 3 2 0 3 0 1 2 1

def gotten : Sequence := { seqOf [(5, 0, [1]), (6, 1, [2])] with kids := [(1, [4])] }

def routed (b : Body) (e : Combine) : State := packetTo 1 0 b (grouped e)

def rowed : State := { grouped (entry sendsOver [gotten]) with ev := { c := 0, n := 3 } }

/-- The core maps with vcore 64, which lies south of vcore 0. -/
def rowed2 : State := { rowed with dies := rowed.dies.map fun d => { d with map := d.map ++ [(32, 0x8020)] } }

def plainUp : Word := groupWord 3 2 0 3 0 0 2 1

def rowed0 : State := { rowed2.setGroup 0 3 (entry plainUp [gotten]) with ev := { c := 0, n := 3 } }

/-- A router that sends its value to the switches by the first reduction entry of I/O die 0. -/
def beyond : Word := groupWord 5 2 0 3 0 1 2 1

def reducing : Reduction := { w0 := BitVec.ofNat 64 (2 ^ 63 + 3 * 2 ^ 30), w1 := 0, w2 := 0 }

def rowedOut : State := { (opened rowed).setGroup 0 3 (entry beyond [gotten]) with reductions := [(0, reducing)] }

def rooted : State := { grouped (entry rootOver [gotten]) with ev := { c := 0, n := 3 } }

def leafWord : Word := groupWord 1 0 0 3 0 1 2 1

def handleC : Word := (mapped m0).handle { p0 with uid := 9, vcore := 1 } 2 3

def handleS : Word := (mapped m0).handle p0 2 3

def sinkWord : Word := BitVec.ofNat 64 (4 * 2 ^ 18 + 256)

def closedAt : State := (blockAt 0x2000000000000000 sinkWord).setPort 0 2 (Port.closed 0)

def senderPort : Port := { Port.closed 0 with state := 1, type := 3, disp := some (Dispatch.sender 0 [handleC] 0 0) }

def sending : State := (at0 (configures 0) (mapped m0)).setPort 0 2 senderPort

def hearer : Proc := { p0 with uid := 9, vcore := 1 }

def sinkPort (granted : Nat) : Port :=
  { Port.closed 9 with state := 1, type := 3, buffered := true, disp := some { Dispatch.sinkOf 4 256 with granted := granted } }

def sinking (granted : Nat) (b : Body) : State := packetTo 0 1 b ((putAt 1 0 hearer (mapped m0)).setPort 1 2 (sinkPort granted))

def claims : Body := .claimRow handleC handleS me

def rowAnswer : Answer := { status := 512, value := 0, row := List.replicate 64 7 }

def claiming : Proc := { waiting (.dsend 0 1 2 1 4) (.claim 0 false) (configures 0) with answer := some rowAnswer }

def claimed (b : Body) (p : Proc) : State := packetTo 1 0 b ((at0 p (mapped m0)).setPort 0 2 senderPort)

def rowBody : Body := .row handleC handleS 1 (List.replicate 64 7) me

def rowing : Proc := { waiting (.dsend 0 1 2 1 4) (.row 0 false) (configures 0) with answer := some rowAnswer }

theorem witness_Combining (h : Obligations.Combining) : True := by
  have := (h.1.1 (grouped Combine.reset) 0 0 p0 (.gsendScalar 0 1 3 1 4) 0 1 3 1 4 _ _ Combine.reset
      (.inl ⟨rfl, rfl, rfl, by decide +kernel⟩) (execs (by decide +kernel)) (by decide +kernel) (by decide +kernel)).1
      (by decide +kernel)
  have := (h.1.1 (grouped { entry rootWord [] with ctx := 7 }) 0 0 p0 (.gsendScalar 0 1 3 1 4) 0 1 3 1 4 _ _
      { entry rootWord [] with ctx := 7 } (.inl ⟨rfl, rfl, rfl, by decide +kernel⟩) (execs (by decide +kernel))
      (by decide +kernel) (by decide +kernel)).2.1 (by decide +kernel) (by decide +kernel)
  have := (h.1.1 (grouped (entry rootWord []) owing) 0 0 owing (.gsendScalar 0 1 3 1 4) 0 1 3 1 4 _ _ (entry rootWord [])
      (.inl ⟨rfl, rfl, rfl, by decide +kernel⟩) (execs (by decide +kernel)) (by decide +kernel) (by decide +kernel)).2.2.1
      (by decide +kernel) (by decide +kernel) (by decide +kernel) (by decide +kernel)
  have := (h.1.1 (grouped (entry rootWord [])) 0 0 p0 (.gsendScalar 0 1 3 1 4) 0 1 3 1 4 _ _ (entry rootWord [])
      (.inl ⟨rfl, rfl, rfl, by decide +kernel⟩) (execs (by decide +kernel)) (by decide +kernel) (by decide +kernel)).2.2.2.1
      (by decide +kernel) (by decide +kernel) (by decide +kernel) (by decide +kernel) (by decide +kernel) (by decide +kernel)
  have := (h.1.1 (grouped (entry wideWord [])) 0 0 p0 (.gsendVector 0 1 3 1 4) 0 1 3 1 4 _ _ (entry wideWord [])
      (.inr ⟨rfl, rfl, rfl, by decide +kernel, by decide +kernel⟩) (execs (by decide +kernel)) (by decide +kernel)
      (by decide +kernel)).2.2.2.1 (by decide +kernel) (by decide +kernel) (by decide +kernel) (by decide +kernel)
      (by decide +kernel) (by decide +kernel)
  have := (h.1.1 (grouped (entry rootWord [seqOf [(5, 0, [1])]])) 0 0 p0 (.gsendScalar 0 0 3 1 4) 0 0 3 1 4 _ _
      (entry rootWord [seqOf [(5, 0, [1])]]) (.inl ⟨rfl, rfl, rfl, by decide +kernel⟩) (execs (by decide +kernel))
      (by decide +kernel) (by decide +kernel)).2.2.2.2.1 (seqOf [(5, 0, [1])]) (by decide +kernel) (by decide +kernel)
      (by decide +kernel) (by decide +kernel) (by decide +kernel) rfl (by decide +kernel) (by decide +kernel)
      (by decide +kernel)
  have := (h.1.1 (grouped (entry rootWord fullSeqs)) 0 0 p0 (.gsendScalar 0 0 3 1 4) 0 0 3 1 4 _ _ (entry rootWord fullSeqs)
      (.inl ⟨rfl, rfl, rfl, by decide +kernel⟩) (execs (by decide +kernel)) (by decide +kernel) (by decide +kernel)).2.2.2.2.2
      (by decide +kernel) (by decide +kernel) (by decide +kernel) (by decide +kernel) (by decide +kernel) (by decide +kernel)
  have := (h.1.2.1 (grouped (entry rootWord [])) 0 0 p0 0 1 3 1 4 (entry rootWord []) (execs (by decide +kernel))
      (by decide +kernel) (by decide +kernel) (by decide +kernel) (by decide +kernel) (by decide +kernel)
      (by decide +kernel)).1 (by decide +kernel)
  have := (h.1.2.1 (grouped (entry rootWord [summed [3]])) 0 0 p0 0 1 3 1 4 (entry rootWord [summed [3]])
      (execs (by decide +kernel)) (by decide +kernel) (by decide +kernel) (by decide +kernel) (by decide +kernel)
      (by decide +kernel) (by decide +kernel)).2 (summed [3]) [3] rfl rfl (by decide +kernel) (by decide +kernel)
  have := (h.1.2.2.1 (grouped (entry wideWord [])) 0 0 p0 0 1 3 1 4 (entry wideWord []) (execs (by decide +kernel))
      (by decide +kernel) (by decide +kernel) (by decide +kernel) (by decide +kernel) (by decide +kernel) (by decide +kernel)
      (by decide +kernel)).1 (by decide +kernel)
  have := (h.1.2.2.1 (grouped (entry wideWord [summed [3, 4, 5, 6]])) 0 0 p0 0 1 3 1 4
      (entry wideWord [summed [3, 4, 5, 6]]) (execs (by decide +kernel)) (by decide +kernel) (by decide +kernel)
      (by decide +kernel) (by decide +kernel) (by decide +kernel) (by decide +kernel) (by decide +kernel)).2
      (summed [3, 4, 5, 6]) [3, 4, 5, 6] rfl rfl (by decide +kernel) (by decide +kernel)
  have := h.1.2.2.2 (blockAt 1 rootWord) 0 0 (configures 0) 0 3 1 0 _ rootWord 1 1 (execs (by decide +kernel))
      (by decide +kernel) (by decide +kernel) (by decide +kernel) rfl (by decide +kernel) (by decide +kernel)
      (by decide +kernel) (by decide +kernel) (by decide +kernel) (by decide +kernel) (by decide +kernel)
      (allZero (by decide +kernel)) (by decide +kernel)
  have := h.2.1 (routed (.combine 3 1 0 [4]) (entry rootOver [seqOf []])) 0
      (pk0 (routed (.combine 3 1 0 [4]) (entry rootOver [seqOf []]))) 3 1 0 [4] (entry rootOver [seqOf []]) (seqOf [])
      (by decide +kernel) (by decide +kernel) rfl rfl (by decide +kernel) (by decide +kernel) (by decide +kernel) rfl rfl
      (by decide +kernel) (.inl (by decide +kernel))
  have := (h.2.2.1 rowed2 0 3 (entry sendsOver [gotten]) gotten 32 rfl rfl (by decide +kernel) (by decide +kernel) rfl
      (by decide +kernel) (by decide +kernel) (by decide +kernel) (by decide +kernel) (by decide +kernel)
      (by decide +kernel)).1 (by decide +kernel) rfl
  have := (h.2.2.1 rowed0 0 3 (entry plainUp [gotten]) gotten 32 rfl rfl (by decide +kernel) (by decide +kernel) rfl
      (by decide +kernel) (by decide +kernel) (by decide +kernel) (by decide +kernel) (by decide +kernel)
      (by decide +kernel)).2 _ (by decide +kernel) rfl
  have := h.2.2.2.1 rowedOut 0 3 (entry beyond [gotten]) gotten 0 reducing rfl rfl (by decide +kernel) (by decide +kernel)
      rfl (by decide +kernel) (by decide +kernel) (by decide +kernel) (by decide +kernel) (by decide +kernel)
      (by decide +kernel) (by decide +kernel)
  have := h.2.2.2.2.1 rooted 0 3 (entry rootOver [gotten]) gotten rfl rfl (by decide +kernel) (by decide +kernel) rfl
      (by decide +kernel) (by decide +kernel) (by decide +kernel) (by decide +kernel) (by decide +kernel)
  have := h.2.2.2.2.2.1 (entry rootWord []) (seqOf [(5, 0, [1]), (6, 1, [2])]) 5 6 0 1 1 2 (by decide +kernel)
      (by decide +kernel) (by decide +kernel) (by decide +kernel) rfl
  have := h.2.2.2.2.2.2.1 (routed (.combineRes 3 0 [7] 0) (entry leafWord [{ seqOf [] with sent := true }])) 0
      (pk0 (routed (.combineRes 3 0 [7] 0) (entry leafWord [{ seqOf [] with sent := true }]))) 3 0 [7] 0
      (entry leafWord [{ seqOf [] with sent := true }]) { seqOf [] with sent := true } (by decide +kernel) (by decide +kernel)
      rfl rfl (by decide +kernel) (by decide +kernel) (by decide +kernel) rfl (by decide +kernel) (by decide +kernel)
      (by decide +kernel)
  have := h.2.2.2.2.2.2.2 (routed (.combineCred 3 1) (entry leafWord [])) 0
      (pk0 (routed (.combineCred 3 1) (entry leafWord []))) 3 1 (entry leafWord []) (by decide +kernel) (by decide +kernel)
      rfl rfl (by decide +kernel) (by decide +kernel) (by decide +kernel)
  trivial

theorem witness_Dispatch (h : Obligations.Dispatch) : True := by
  have := h.1 closedAt 0 0 (configures 0) 0 2 1 2 (Port.closed 0) 0 _ 4 256 (execs (by decide +kernel))
      ⟨by decide +kernel, by decide +kernel⟩ (by decide +kernel) (by decide +kernel) (by decide +kernel) (by decide +kernel)
      rfl (by decide +kernel) (by decide +kernel) (by decide +kernel) (by decide +kernel) (by decide +kernel)
      (by decide +kernel) (by decide +kernel) (by decide +kernel) (allZero (by decide +kernel))
  have := h.2.1 sending 0 0 (configures 0) 0 1 2 1 4 2 senderPort (Dispatch.sender 0 [handleC] 0 0) 0 0 handleC 1
      (execs (by decide +kernel)) ⟨by decide +kernel, by decide +kernel⟩ (by decide +kernel) (by decide +kernel) rfl
      (by decide +kernel) (by decide +kernel) (by decide +kernel) rfl (by decide +kernel) (by decide +kernel)
      (by decide +kernel) (by decide +kernel) (by decide +kernel)
  have := h.2.2.1 sending 0 0 (configures 0) 0 2 1 4 2 senderPort (execs (by decide +kernel))
      ⟨by decide +kernel, by decide +kernel⟩
  have := h.2.2.2.1 (sinking 1 claims) 0 (pk0 (sinking 1 claims)) handleC handleS me (sinkPort 1)
      { Dispatch.sinkOf 4 256 with granted := 1 } (arrived (by decide +kernel)) rfl rfl (by decide +kernel)
      (by decide +kernel) rfl
  have := h.2.2.2.1 (sinking 4 claims) 0 (pk0 (sinking 4 claims)) handleC handleS me (sinkPort 4)
      { Dispatch.sinkOf 4 256 with granted := 4 } (arrived (by decide +kernel)) rfl rfl (by decide +kernel)
      (by decide +kernel) rfl
  have := h.2.2.2.2.1 (claimed (.claimAns me 0 1 2) claiming) 0 (pk0 (claimed (.claimAns me 0 1 2) claiming)) me 1 2 0
      claiming 0 1 2 1 4 0 2 senderPort (Dispatch.sender 0 [handleC] 0 0) handleC 1 rowAnswer (arrived (by decide +kernel))
      rfl rfl rfl (waits (by decide +kernel)) ⟨by decide +kernel, by decide +kernel⟩ rfl (by decide +kernel) rfl
      (by decide +kernel) (by decide +kernel) rfl
  have := h.2.2.2.2.2.1 (sinking 2 rowBody) 0 (pk0 (sinking 2 rowBody)) handleC handleS 1 (List.replicate 64 7) me
      (sinkPort 2) { Dispatch.sinkOf 4 256 with granted := 2 } hearer (arrived (by decide +kernel)) rfl rfl
      (by decide +kernel) (by decide +kernel) rfl (by decide +kernel) (by decide +kernel) (by decide +kernel)
  have := h.2.2.2.2.2.2.1 (claimed (.claimAns me 3 0 0) rowing) 0 (pk0 (claimed (.claimAns me 3 0 0) rowing)) me 0 0 rowing
      0 1 2 1 4 0 2 senderPort (Dispatch.sender 0 [handleC] 0 0) (arrived (by decide +kernel)) rfl rfl rfl
      (waits (by decide +kernel)) ⟨by decide +kernel, by decide +kernel⟩ rfl
  have := h.2.2.2.2.2.2.2 (claimed (.claimAns me 1 0 2) claiming) 0 (pk0 (claimed (.claimAns me 1 0 2) claiming)) me 2 0
      claiming 0 2 1 4 0 2 senderPort (Dispatch.sender 0 [handleC] 0 0) (arrived (by decide +kernel)) rfl rfl rfl
      (waits (by decide +kernel)) ⟨by decide +kernel, by decide +kernel⟩ rfl (by decide +kernel) (by decide +kernel)
  trivial

end W12

namespace W13

/-- A process with the words of a descriptor (R317) and `w` in x1. -/
def copier (d : Desc) (w : Word := 0) : Proc :=
  { p0 with e := ((((((p0.e.set 0 d[0]).set 1 d[1]).set 2 d[2]).set 3 d[3]).set 4 d[4]).set 5 d[5]), x := p0.x.set 1 w }

/-- Sixteen bytes from `a` to `b`. -/
def sixteen (a b e5 : Word) : Desc := #v[a, b, 0x0001000100000010, 0, 0, e5]

def globals : Desc := sixteen 0x10000 0x20000 0

def counts : Desc := sixteen 0x10000 0x20000 0x98000000

def intoWindow : Desc := sixteen 0x10000 (m0.localAddr 0 0) 0

def copies : Proc := copier globals

/-- Counter 3 of core 0 belongs to context 0. -/
def counted (p : Proc) : State := (at0 p (mapped m0)).modCore 0 fun co => { co with ctrOwner := co.ctrOwner.set 3 (some 0) }

def queuing : Proc := waiting (.copy 0 1 4) .copyQueue copies

def copyOf (d : Desc) : Copy :=
  { id := 0, uid := 0, ctx := 0, self := (mapped m0).selfWord 0 p0, d := d, wbase := p0.wbase, wsize := p0.wsize, armed := none,
    running := true, next := 0, flight := [], status := 0, stopped := false, wrote := [], dest := 0, fixups := [], phase := 0,
    claim := 0, slot := 0, tag := none, order := 5, pc := 0x44, once := [] }

def holding (cp : Copy) : State := (mapped m0).modCore 0 fun co => { co with copies := [cp] }

def locals : Desc := sixteen (m0.localAddr 0 0) (m0.localAddr 1 256) 0

def sendsUnit : State := happens { c := 0 } (holding (copyOf locals))

def readBody : Body := .copyRead { core := 0, id := 0 } 0 16 5 (.spad 0 0) (.spad 1 256) 0 none

def writeBody : Body := .copyWrite { core := 0, id := 0 } 0 (List.replicate 16 7) (.spad 1 256)

def flying : Copy := { copyOf counts with next := 16, flight := [(0, 16)], wrote := [0] }

def acking : State := packetTo 1 0 (.copyAck { core := 0, id := 0 } 0 16 0) (holding flying)

def aRing : Ring := ringOfU 0 1

def pushing (b : Body) : State := packetTo 4096 0 b (withRing 0 1 aRing (at0 p0 (mapped m0)))

def pushBody : Body := .ringData (ringPlace aRing.name 1) 0 (List.replicate 16 7) true { core := 4096, id := 0 } true

def expects : Word := 0x8000200000000040

def aBar (posted : Bool) (n : Nat) : Barrier :=
  { Barrier.reset with owner := some 0, expa := #v[BitVec.ofNat 12 n, 0], posted := #v[posted, false] }

def barred (b : Barrier) : State := (at0 p0 (mapped m0)).modCore 0 fun co => { co with tb := co.tb.set 2 b }

theorem witness_Copies (h : Obligations.Copies) : True := by
  have := (h.1.1 (at0 (copier (sixteen 0x10000 0x20000 1)) (mapped m0)) 0 0 (copier (sixteen 0x10000 0x20000 1))
      (.copy 0 1 4) 0 1 4 _ none (.inl ⟨rfl, rfl, rfl⟩) (by decide +kernel) (execs (by decide +kernel))
      (sixteen 0x10000 0x20000 1) (by decide +kernel)).1 (by decide +kernel)
  have := (h.1.1 (at0 (copier counts) (mapped m0)) 0 0 (copier counts) (.copy 0 1 4) 0 1 4 _ none (.inl ⟨rfl, rfl, rfl⟩)
      (by decide +kernel) (execs (by decide +kernel)) counts (by decide +kernel)).2.1 (by decide +kernel) (by decide +kernel)
      (by decide +kernel) (.inl (by decide +kernel))
  have := (h.1.1 (at0 copies (mapped m0)) 0 0 copies (.copy 0 1 4) 0 1 4 _ none (.inl ⟨rfl, rfl, rfl⟩) (by decide +kernel)
      (execs (by decide +kernel)) globals (by decide +kernel)).2.2.1 (by decide +kernel) (by decide +kernel)
      (by decide +kernel) (by decide +kernel) (by decide +kernel) (by decide +kernel) (by decide +kernel) (by decide +kernel)
      (by decide +kernel) (by intro j w h; cases h) (by decide +kernel) (by decide +kernel) (by decide +kernel)
      (by decide +kernel)
  have := (h.1.1 (counted (copier globals 5)) 0 0 (copier globals 5) (.copya 0 1 3 1 4) 0 1 4 _ (some (3, 5))
      (.inr ⟨3, 1, rfl, rfl, by decide +kernel⟩) (by decide +kernel) (execs (by decide +kernel)) globals
      (by decide +kernel)).2.2.1 (by decide +kernel) (by decide +kernel) (by decide +kernel) (by decide +kernel)
      (by decide +kernel) (by decide +kernel) (by decide +kernel) (by decide +kernel) (by decide +kernel)
      (by intro j w h; cases h; decide +kernel) (by decide +kernel) (by decide +kernel) (by decide +kernel)
      (by decide +kernel)
  have := (h.1.1 (at0 (copier intoWindow) (mapped m0)) 0 0 (copier intoWindow) (.copy 0 1 4) 0 1 4 _ none
      (.inl ⟨rfl, rfl, rfl⟩) (by decide +kernel) (execs (by decide +kernel)) intoWindow (by decide +kernel)).2.2.2
      (by decide +kernel) (by decide +kernel) (by decide +kernel) (by decide +kernel) (by decide +kernel) (by decide +kernel)
      (by decide +kernel) (by decide +kernel) (by decide +kernel) (by decide +kernel) rfl (by decide +kernel)
      (by decide +kernel) (by decide +kernel) (by decide +kernel) (by decide +kernel)
  have := h.1.2 (happens { c := 0, k := 0 } (putAt 0 0 queuing (mapped m0) .blocked)) 0 0 queuing 0 1 4 globals rfl rfl
      (waits (by decide +kernel)) (by decide +kernel) (by decide +kernel) (by decide +kernel) (by decide +kernel)
      (by decide +kernel) (by decide +kernel) (by decide +kernel) (by decide +kernel) (by decide +kernel) (by decide +kernel)
      (by decide +kernel) (by decide +kernel) (by decide +kernel)
  have := h.2.1 sendsUnit 0 (copyOf locals) 0 0 1 256 _ rfl (by decide +kernel) (by decide +kernel) (by decide +kernel)
      (by decide +kernel) (by decide +kernel) (by decide +kernel) (by decide +kernel) (by decide +kernel) (by decide +kernel)
      (by decide +kernel) rfl (by decide +kernel) (by decide +kernel)
  have := h.2.2.1 (packetTo 0 0 readBody (holding (copyOf locals))) 0
      (pk0 (packetTo 0 0 readBody (holding (copyOf locals)))) { core := 0, id := 0 } 0 16 5 0 0 1 256 0 none
      (arrived (by decide +kernel)) rfl rfl (by decide +kernel) (by decide +kernel)
  have := h.2.2.2.1 (packetTo 0 1 writeBody (holding (copyOf locals))) 0
      (pk0 (packetTo 0 1 writeBody (holding (copyOf locals)))) { core := 0, id := 0 } 0 (List.replicate 16 7) 1 256 _
      (arrived (by decide +kernel)) rfl rfl (by decide +kernel) (by decide +kernel) rfl
  have := h.2.2.2.2.1 acking 0 (pk0 acking) { core := 0, id := 0 } 0 16 flying (arrived (by decide +kernel)) rfl rfl
      (by decide +kernel) (by decide +kernel) (by decide +kernel) (by decide +kernel) (by decide +kernel) (by decide +kernel)
      (by decide +kernel) (by decide +kernel) (by decide +kernel) (by decide +kernel) (by decide +kernel) (by decide +kernel)
      (by decide +kernel)
  have := h.2.2.2.2.2 (pushing pushBody) 0 (pk0 (pushing pushBody)) (ringPlace aRing.name 1) 0 (List.replicate 16 7)
      { core := 4096, id := 0 } 0 1 aRing 1 p0 (arrived (by decide +kernel)) rfl rfl (by decide +kernel) (by decide +kernel)
  trivial

theorem witness_CountersAndBarriers (h : Obligations.CountersAndBarriers) : True := by
  have := (h.1 (at0 (copier globals 5) (mapped m0)) 0 0 (copier globals 5) 0 1 3 1 4 (execs (by decide +kernel))).1
      (by decide +kernel)
  have := (h.1 (counted (copier globals 5)) 0 0 (copier globals 5) 0 1 3 1 4 (execs (by decide +kernel))).2
      (by decide +kernel) (by decide +kernel)
  have := h.2.1 (counted (copier globals 5)) 0 0 (copier globals 5) 0 1 0 4 1 4 (execs (by decide +kernel))
      (by decide +kernel)
  have := (h.2.2.1 (counted { p0 with cfail := 2, cstatus := 1 }) 0 0 { p0 with cfail := 2, cstatus := 1 } 0 3 4
      (execs (by decide +kernel))).1
  have := (h.2.2.1 (counted { p0 with cfail := 2, cstatus := 1 }) 0 0 { p0 with cfail := 2, cstatus := 1 } 0 3 4
      (execs (by decide +kernel))).2 (by decide +kernel) (by decide +kernel) (by decide +kernel)
  have := h.2.2.2.1 (at0 (copier globals expects) (mapped m0)) 0 0 (copier globals expects) 0 1 2 1 4 expects
      (execs (by decide +kernel)) (by decide +kernel) (by decide +kernel) (by decide +kernel) (by decide +kernel)
      (by decide +kernel) (by decide +kernel) (by decide +kernel)
  have := (h.2.2.2.2 (barred Barrier.reset) 0 0 p0 0 1 2 4 Barrier.reset (execs (by decide +kernel)) (by decide +kernel)
      (by decide +kernel)).1 (by decide +kernel)
  have := (h.2.2.2.2 (barred (aBar true 1)) 0 0 p0 0 1 2 4 (aBar true 1) (execs (by decide +kernel)) (by decide +kernel)
      (by decide +kernel)).2.1 (by decide +kernel) (by decide +kernel) (by decide +kernel) (by decide +kernel)
      (by decide +kernel) (by decide +kernel)
  have := (h.2.2.2.2 (barred (aBar true 2)) 0 0 p0 0 1 2 4 (aBar true 2) (execs (by decide +kernel)) (by decide +kernel)
      (by decide +kernel)).2.2 (by decide +kernel) (by decide +kernel) (.inr (.inl (by decide +kernel)))
  have := (h.2.2.2.2 (barred (aBar false 1)) 0 0 p0 0 1 2 4 (aBar false 1) (execs (by decide +kernel)) (by decide +kernel)
      (by decide +kernel)).2.2 (by decide +kernel) (by decide +kernel) (.inl (by decide +kernel))
  trivial

end W13

namespace W14

def wordIn (a b d : Word) : Proc := { p0 with x := ((p0.x.set 1 a).set 2 b).set 4 d }

/-- A draft's verdict in one state of its galley, with one home that it has written to. -/
def verdict (st : GalleyState) (homes : List Nat) (acks nproof : Nat) : Draft :=
  { failed := false, quota := false, stfull := false, nproof := nproof, gused := 16, state := st, cause := 0, fate := 0, homes := homes,
    acks := acks, lapse := false, tcause := 0, tpc := 0, tval := 0 }

def draftIn (st : GalleyState) (homes : List Nat) (acks nproof : Nat) : Proc :=
  { p0 with draft := some (verdict st homes acks nproof), header := p0.header.set 2 4,
            record := { p0.record with exactHdr := some 0x10040 } }

def aProof : Proc := { draftIn .opened [] 0 65535 with x := p0.x.set 1 0x3FF0000000000000 }

def tagA : Nat × Nat := (7, 3)

def homeReq : HomeReq := { self := none, pa := 0x10000, ap := 0, peer := 0, exp := 1000, ctx := 0, va := 0x10000 }

def kept : Galley := { tag := tagA, seg := 1024, data := [(3, 5)], exp := 1000 }

def lapsedGalley : Galley := { kept with exp := 0xFFFFFFFFF000 }

def galleyBody : Body := .galley homeReq tagA [7, 8] me 0 { core := 0, id := 0 } 0

def stored (b : Body) (l : List Galley) : State := packetTo 1024 4160 b ((mapped m0).modHome 4160 fun h => { h with galley := l })

def fullStore : List Galley := List.replicate 2048 { kept with tag := (8, 3) }

def settling (p : Proc) : State := happens { c := 0, k := 0 } (putAt 0 0 p (mapped m0))

def prep : Body := .galleyPrep tagA me

def answered (b : Body) (p : Proc) : State := packetTo 4096 0 b (putAt 0 0 p (mapped m0))

def publish : Body := .galleyPub tagA me true

def dropAck : Body := .galleyDropAck me

def lastAck : State := packetTo 4096 0 dropAck (withPage 0 (putAt 0 0 (draftIn .discarding [4160] 1 1) (mapped { m0 with hbm := headerMem })))

def exactRead : State :=
  match (lastAck.drop 0).readHeader 0 0 0x10040 with
  | .ok _ u => u
  | _ => m0

/-- A process of memory core 4096 with address `a` in x1, length `n` in x2 and address `d` in x4. -/
def hp (a n d : Word) : Proc := { wordIn a n d with uid := 9, vcore := 4096 }

def local4 (off : Nat) : Word := m0.localAddr 4096 off

def hostPage (va : Nat) : Tlb := { page1 with va := va }

def onMem (p : Proc) (tlb : List Tlb := [page1]) : State :=
  (putAt 4096 0 p (mapped m0)).modCore 4096 fun co => { co with boot := false, dtlb := tlb }

def hld : Instr := .hload 0 2 1 4

def hst : Instr := .hstore 0 2 1 4

def aRing : Ring := ringOfU 0 1

def aMemop (op : Nat) (tag : Option (Nat × Nat)) : MemOp :=
  { id := 0, uid := 9, ctx := 0, self := 0, op := op, globl := 0x10000, loc := 512, len := 64, ring := 0, todo := if op = 2 then [] else [0],
    status := 0, stage := 2, slot := ringPlace aRing.name 1, wbase := 0, wsize := 1024, cookie := none, tag := tag, owned := [], order := 5,
    pc := 0x40, once := [] }

def eight : List MemOp := (List.range 8).map fun i => { aMemop 0 none with id := i }

def crowded : State := (onMem (hp 0x10000 64 (local4 0))).modCore 4096 fun co => { co with memops := eight }

def pushWaits : Proc := waiting (.hpush 0 2 1 4) .memop (hp (local4 0) 64 0)

def lineOf (m : MemOp) : State := happens { c := 4096, n := 0 } ((onMem p0).modCore 4096 fun co => { co with memops := [m] })

def reached (m : MemOp) : State :=
  match (lineOf m).lineReach 4096 m 0 with
  | .ok _ u => u
  | _ => m0

def pushes : State := withRing 0 1 aRing (lineOf (aMemop 2 none))

def failed : MemOp := { aMemop 0 none with todo := [], status := 5 }

theorem witness_ProofsAndGalleys (h : Obligations.ProofsAndGalleys) : True := by
  have := h.1.1 (at0 p0) 0 0 p0 0 1 _ (execs (by decide +kernel)) rfl
  have := h.1.1 (at0 aProof) 0 0 aProof 0 1 _ (execs (by decide +kernel)) rfl
  have := h.1.2 (at0 aProof) 0 0 aProof 0 4 (execs (by decide +kernel))
  have := h.1.2 (at0 p0) 0 0 p0 0 4 (execs (by decide +kernel))
  have := h.2.1 (stored galleyBody [kept]) 0 (pk0 (stored galleyBody [kept])) homeReq tagA [7, 8] me { core := 0, id := 0 }
      0 homeReq ((stored galleyBody [kept]).drop 0) [{ kept with data := [(0, 7), (1, 8), (3, 5)] }]
      (arrived (by decide +kernel)) rfl rfl (by decide +kernel) (by decide +kernel)
  have := h.2.2.1 (stored galleyBody fullStore) 0 (pk0 (stored galleyBody fullStore)) homeReq tagA [7, 8] me
      { core := 0, id := 0 } 0 homeReq ((stored galleyBody fullStore).drop 0) (arrived (by decide +kernel)) rfl rfl
      (by decide +kernel) (by decide +kernel)
  have := h.2.2.2.1 tagA 1000 [7, 8] 0x10000 [kept] [{ kept with data := [(0, 7), (1, 8), (3, 5)] }] (by decide +kernel)
  have := h.2.2.2.2.1 tagA 1000 [7, 8] 0x10000 fullStore (by decide +kernel)
  have := h.2.2.2.2.2 tagA 1000 7 0x10040 [kept] (by decide +kernel) (by decide +kernel)
  trivial

theorem witness_DraftResolution (h : Obligations.DraftResolution) : True := by
  have := h.1 (settling (draftIn .settling [] 0 1)) 0 0 (draftIn .settling [] 0 1) (verdict .settling [] 0 1) 0 rfl rfl
      (by decide +kernel) rfl (by decide +kernel) (by decide +kernel) (by decide +kernel) (by decide +kernel)
      (by decide +kernel) (by decide +kernel) (by decide +kernel)
  have := h.1 (settling (draftIn .settling [4160] 0 1)) 0 0 (draftIn .settling [4160] 0 1) (verdict .settling [4160] 0 1) 0
      rfl rfl (by decide +kernel) rfl (by decide +kernel) (by decide +kernel) (by decide +kernel) (by decide +kernel)
      (by decide +kernel) (by decide +kernel) (by decide +kernel)
  have := h.1 (settling (draftIn .settling [4160] 0 0)) 0 0 (draftIn .settling [4160] 0 0) (verdict .settling [4160] 0 0) 2
      rfl rfl (by decide +kernel) rfl (by decide +kernel) (by decide +kernel) (by decide +kernel) (by decide +kernel)
      (by decide +kernel) (by decide +kernel) (by decide +kernel)
  have := (h.2.1 (stored prep [lapsedGalley]) 0 (pk0 (stored prep [lapsedGalley])) tagA me (arrived (by decide +kernel)) rfl
      rfl).1 (by decide +kernel)
  have := (h.2.1 (stored prep [kept]) 0 (pk0 (stored prep [kept])) tagA me (arrived (by decide +kernel)) rfl rfl).2
      (by decide +kernel)
  have := h.2.2.1 (answered (.galleyPrepAns me true) (draftIn .preparing [4160] 1 1)) 0
      (pk0 (answered (.galleyPrepAns me true) (draftIn .preparing [4160] 1 1))) me (draftIn .preparing [4160] 1 1)
      (verdict .preparing [4160] 1 1) (arrived (by decide +kernel)) rfl rfl (by decide +kernel) rfl (by decide +kernel)
      (by decide +kernel)
  have := h.2.2.2.1 (stored publish [kept]) 0 (pk0 (stored publish [kept])) tagA me true (arrived (by decide +kernel)) rfl
      rfl
  have := h.2.2.2.2.1 (answered (.galleyPubAck me) (draftIn .publishing [4160] 1 1)) 0
      (pk0 (answered (.galleyPubAck me) (draftIn .publishing [4160] 1 1))) me (draftIn .publishing [4160] 1 1)
      (verdict .publishing [4160] 1 1) (arrived (by decide +kernel)) rfl rfl (by decide +kernel) rfl (by decide +kernel)
  have := h.2.2.2.2.1 (answered (.galleyPubAck me) (draftIn .publishing [4160] 2 1)) 0
      (pk0 (answered (.galleyPubAck me) (draftIn .publishing [4160] 2 1))) me (draftIn .publishing [4160] 2 1)
      (verdict .publishing [4160] 2 1) (arrived (by decide +kernel)) rfl rfl (by decide +kernel) rfl (by decide +kernel)
  have := h.2.2.2.2.2.1 (stored (.galleyDrop tagA me) [kept]) 0 (pk0 (stored (.galleyDrop tagA me) [kept])) tagA me
      (arrived (by decide +kernel)) rfl rfl
  have := (h.2.2.2.2.2.2 (answered dropAck (draftIn .discarding [4160] 2 1)) 0
      (pk0 (answered dropAck (draftIn .discarding [4160] 2 1))) me (draftIn .discarding [4160] 2 1)
      (verdict .discarding [4160] 2 1) (arrived (by decide +kernel)) rfl rfl (by decide +kernel) rfl (by decide +kernel)).1
      (by decide +kernel)
  have := (h.2.2.2.2.2.2 lastAck 0 (pk0 lastAck) me (draftIn .discarding [4160] 1 1) (verdict .discarding [4160] 1 1)
      (arrived (by decide +kernel)) rfl rfl (by decide +kernel) rfl (by decide +kernel)).2 0x10040 (some tinyHeader) exactRead
      (by decide +kernel) (by decide +kernel) (by decide +kernel) (by decide +kernel)
  trivial

theorem witness_MemoryCoreOperations (h : Obligations.MemoryCoreOperations) : True := by
  have := (h.1.1 (onMem (hp 0x10000 64 0x100)) 4096 0 (hp 0x10000 64 0x100) hld 0 2 1 4 0 _ _ 64 (.inl ⟨rfl, rfl, rfl, rfl⟩)
      (by decide +kernel) (by decide +kernel) (execs (by decide +kernel))).1 (by decide +kernel)
  have := (h.1.1 (onMem (hp 0x10000 64 (local4 8))) 4096 0 (hp 0x10000 64 (local4 8)) hld 0 2 1 4 0 _ _ 64
      (.inl ⟨rfl, rfl, rfl, rfl⟩) (by decide +kernel) (by decide +kernel) (execs (by decide +kernel))).2.1 (by decide +kernel)
      (by decide +kernel)
  have := (h.1.1 (onMem (hp 0x10008 64 (local4 0))) 4096 0 (hp 0x10008 64 (local4 0)) hld 0 2 1 4 0 _ _ 64
      (.inl ⟨rfl, rfl, rfl, rfl⟩) (by decide +kernel) (by decide +kernel) (execs (by decide +kernel))).2.2.1
      (by decide +kernel) (by decide +kernel) (by decide +kernel)
  have := (h.1.1 (onMem (hp 0x10000 8 (local4 0))) 4096 0 (hp 0x10000 8 (local4 0)) hld 0 2 1 4 0 _ _ 8
      (.inl ⟨rfl, rfl, rfl, rfl⟩) (by decide +kernel) (by decide +kernel) (execs (by decide +kernel))).2.2.2.1
      (by decide +kernel) (by decide +kernel) (by decide +kernel) (.inr (.inl (by decide +kernel)))
  have := ((h.1.1 (onMem (hp 0x10000 0 (local4 0))) 4096 0 (hp 0x10000 0 (local4 0)) hld 0 2 1 4 0 _ _ 0
      (.inl ⟨rfl, rfl, rfl, rfl⟩) (by decide +kernel) (by decide +kernel) (execs (by decide +kernel))).2.2.2.2 0
      (by decide +kernel) (by decide +kernel) (by decide +kernel) (by decide +kernel) (by decide +kernel) (by decide +kernel)
      (by decide +kernel)).1 (by decide +kernel)
  have := ((h.1.1 crowded 4096 0 (hp 0x10000 64 (local4 0)) hld 0 2 1 4 0 _ _ 64 (.inl ⟨rfl, rfl, rfl, rfl⟩)
      (by decide +kernel) (by decide +kernel) (execs (by decide +kernel))).2.2.2.2 0 (by decide +kernel) (by decide +kernel)
      (by decide +kernel) (by decide +kernel) (by decide +kernel) (by decide +kernel) (by decide +kernel)).2.1
      (by decide +kernel) (by decide +kernel)
  have := ((h.1.1 (onMem (hp 0x10000 64 (local4 0)) []) 4096 0 (hp 0x10000 64 (local4 0)) hld 0 2 1 4 0 _ _ 64
      (.inl ⟨rfl, rfl, rfl, rfl⟩) (by decide +kernel) (by decide +kernel) (execs (by decide +kernel))).2.2.2.2 0
      (by decide +kernel) (by decide +kernel) (by decide +kernel) (by decide +kernel) (by decide +kernel) (by decide +kernel)
      (by decide +kernel)).2.2.1 (by decide +kernel) (by decide +kernel) (by decide +kernel) (by decide +kernel)
  have := ((h.1.1 (onMem (hp 0x10000 64 (local4 0))) 4096 0 (hp 0x10000 64 (local4 0)) hld 0 2 1 4 0 _ _ 64
      (.inl ⟨rfl, rfl, rfl, rfl⟩) (by decide +kernel) (by decide +kernel) (execs (by decide +kernel))).2.2.2.2 0
      (by decide +kernel) (by decide +kernel) (by decide +kernel) (by decide +kernel) (by decide +kernel) (by decide +kernel)
      (by decide +kernel)).2.2.2 (by decide +kernel) (by decide +kernel) (by decide +kernel) (by decide +kernel)
      (by decide +kernel) (everyOf (by decide +kernel)) (by decide +kernel)
  have := ((h.1.1 (onMem (hp (local4 0) 64 0x10000)) 4096 0 (hp (local4 0) 64 0x10000) hst 0 2 1 4 1 _ _ 64
      (.inr ⟨rfl, rfl, rfl, rfl⟩) (by decide +kernel) (by decide +kernel) (execs (by decide +kernel))).2.2.2.2 0
      (by decide +kernel) (by decide +kernel) (by decide +kernel) (by decide +kernel) (by decide +kernel) (by decide +kernel)
      (by decide +kernel)).2.2.2 (by decide +kernel) (by decide +kernel) (by decide +kernel) (by decide +kernel)
      (by decide +kernel) (everyOf (by decide +kernel)) (by decide +kernel)
  have := (h.1.2.1 (onMem (hp (local4 8) 64 0)) 4096 0 (hp (local4 8) 64 0) 0 2 1 4 64 (by decide +kernel)
      (by decide +kernel) (execs (by decide +kernel)) (by decide +kernel) (by decide +kernel)).1 (by decide +kernel)
  have := (h.1.2.1 (onMem (hp (local4 0) 0 0)) 4096 0 (hp (local4 0) 0 0) 0 2 1 4 0 (by decide +kernel) (by decide +kernel)
      (execs (by decide +kernel)) (by decide +kernel) (by decide +kernel)).2.1 (by decide +kernel) (.inl rfl)
  have := (h.1.2.1 (onMem (hp (local4 0) 64 0)) 4096 0 (hp (local4 0) 64 0) 0 2 1 4 64 (by decide +kernel)
      (by decide +kernel) (execs (by decide +kernel)) (by decide +kernel) (by decide +kernel)).2.2 0 0 (by decide +kernel)
      (by decide +kernel) (by decide +kernel) (by decide +kernel) (by decide +kernel) (by decide +kernel) (by decide +kernel)
      (by decide +kernel) (by decide +kernel) (by decide +kernel) (by decide +kernel)
  have := h.1.2.2.1 (happens { c := 4096, k := 0 } (putAt 4096 0 pushWaits (mapped m0) .blocked)) 4096 0 pushWaits 0 2 1 4 0
      0 rfl rfl (waits (by decide +kernel)) (by decide +kernel) (by decide +kernel) (by decide +kernel) (by decide +kernel)
      (by decide +kernel) (by decide +kernel) (by decide +kernel) (by decide +kernel) (by decide +kernel) (by decide +kernel)
      (by decide +kernel)
  have := (h.1.2.2.2.1 crowded 4096 0 (hp 0x10000 64 (local4 0)) 0 4 (by decide +kernel) (execs (by decide +kernel))).1
      (by decide +kernel)
  have := (h.1.2.2.2.1 (onMem (hp 0x10000 64 (local4 0))) 4096 0 (hp 0x10000 64 (local4 0)) 0 4 (by decide +kernel)
      (execs (by decide +kernel))).2 (by decide +kernel) (by decide +kernel) (by decide +kernel) (by decide +kernel)
  have := (h.1.2.2.2.2 (onMem (hp 0x10000 0x8000000000000000 0)) 4096 0 (hp 0x10000 0x8000000000000000 0) 0 2 1 4
      (by decide +kernel) (execs (by decide +kernel))).1 (by decide +kernel)
  have := (h.1.2.2.2.2 (onMem (hp 0x10000 0x1000 0)) 4096 0 (hp 0x10000 0x1000 0) 0 2 1 4 (by decide +kernel)
      (execs (by decide +kernel))).2.1 (by decide +kernel) (.inl (by decide +kernel))
  have := ((h.1.2.2.2.2 (onMem (hp 0x20000 0 0)) 4096 0 (hp 0x20000 0 0) 0 2 1 4 (by decide +kernel)
      (execs (by decide +kernel))).2.2 0 (by decide +kernel) (by decide +kernel) (by decide +kernel) (by decide +kernel)).1
      (by decide +kernel)
  have := ((h.1.2.2.2.2 (onMem (hp 0x10000 0 0)) 4096 0 (hp 0x10000 0 0) 0 2 1 4 (by decide +kernel)
      (execs (by decide +kernel))).2.2 0 (by decide +kernel) (by decide +kernel) (by decide +kernel) (by decide +kernel)).2
      page1 (by decide +kernel) (by decide +kernel) (by decide +kernel)
  have := h.2.1 (lineOf (aMemop 0 none)) 4096 (aMemop 0 none) 0 homeReq (reached (aMemop 0 none)) rfl rfl rfl
      (by decide +kernel) (by decide +kernel) (by decide +kernel) (by decide +kernel)
  have := (h.2.2.1 (lineOf (aMemop 1 none)) 4096 (aMemop 1 none) 0 homeReq (reached (aMemop 1 none)) rfl rfl rfl
      (by decide +kernel) (by decide +kernel) (by decide +kernel)).1 rfl (by decide +kernel) (by decide +kernel)
  have := (h.2.2.1 (lineOf (aMemop 1 (some tagA))) 4096 (aMemop 1 (some tagA)) 0 homeReq (reached (aMemop 1 (some tagA)))
      rfl rfl rfl (by decide +kernel) (by decide +kernel) (by decide +kernel)).2 tagA rfl (by decide +kernel)
      (by decide +kernel)
  have := h.2.2.2.1 pushes 4096 (aMemop 2 none) 0 rfl (by decide +kernel) rfl rfl (by decide +kernel) (by decide +kernel)
  have := h.2.2.2.2 (lineOf { aMemop 0 none with todo := [] }) 4096 { aMemop 0 none with todo := [] } rfl
      (by decide +kernel) (by decide +kernel)
  have := h.2.2.2.2 (lineOf failed) 4096 failed rfl (by decide +kernel) (by decide +kernel)
  trivial

end W14

namespace W15

/-- HBM with the descriptor of context 0 at 0 and four levels of tables at 0x1000 to 0x4000, whose last entry for 0x10000 is `w`. -/
def tables (w : Word) : Mem :=
  ((((Mem.putNat [] 0 8 0x1F01).putNat 0x1000 8 0x2001).putNat 0x2000 8 0x3001).putNat 0x3000 8 0x4001).putNat 0x4008 8 w.toNat

def walked (w : Word) : State := { mapped m0 with hbm := tables w }

/-- A leaf of class 5 that permits everything, for frame 1. -/
def leafW : Word := 0x400051F

def tlbOf (leaf : Word) (drec : Bool) : Tlb := { ctx := 0, va := 1, level := 3, leaf := leaf, drec := drec, exp := 256 }

/-- A process that waits for a walk of 0x10000 since cycle 0. -/
def walker : Proc := waiting (.alt 0 1 3) (.walk 0x10000 needR 1)

/-- The walk of that page, which a walker of its cluster makes since cycle 0. -/
def oneWalk : Walk := { core := 0, ctx := 0, page := 1, run := some (0, 0) }

def walkWaits (w : Word) (now : Nat) : State :=
  happens { c := 0, k := 0 } { withPage 0 (putAt 0 0 walker (walked w) .blocked) with now := now, walkers := [(clusterOf 0, [oneWalk])] }

def walkEnds (w : Word) : State :=
  match (walkWaits w 5).walk 0 0x10000 needR 0 with
  | .ok _ _ u => u
  | _ => m0

def walkFails : State :=
  match (walkWaits 0 5).walk 0 0x10000 needR 0 with
  | .fault _ _ u => u
  | _ => m0

def expiring : State := { happens { n := 0 } (withPage 0 m0) with l2 := [(0, [{ page1 with exp := 0 }, page1])] }

def lineJob : MemOp :=
  { id := 0, uid := 9, ctx := 0, self := 0, op := 0, globl := 0x10000, loc := 512, len := 64, ring := 0, todo := [0], status := 0,
    stage := 0, slot := 0, wbase := 0, wsize := 1024, cookie := none, tag := none, owned := [], order := 5, pc := 0x40, once := [] }

def renewing (w : Word) (t : Tlb) : State :=
  happens { c := 4096, n := 0 } ((walked w).modCore 4096 fun co => { co with boot := false, dtlb := [t], memops := [lineJob] })

def renewed (w : Word) (t : Tlb) : State :=
  match (renewing w t).renewWalk 4096 0 0x10000 needR with
  | .same u => u
  | .changed u => u
  | _ => m0

def unrenewed (t : Tlb) : State :=
  match (renewing 0 t).renewWalk 4096 0 0x10000 needR with
  | .fault _ _ u => u
  | _ => m0

def unwalked (t : Tlb) : State :=
  match (renewing 0 t).walk 0 0x10000 needR ((renewing 0 t).clockOf 4096) with
  | .fault _ _ u => u
  | _ => m0

def oldTlb (leaf : Word) : Tlb := { tlbOf leaf false with exp := 3 }

def watching : Proc := { waiting (.alt 0 1 3) .alt with e := p0.e.set 0 0x4000000000010000 }

def aWatch : Watch := { who := me, va := 0x10000, ap := 0, pa := 0x10000, leaf := leafW, exp := 3 }

def watched : State :=
  happens { c := 0, n := 2 ^ 32 } ((withPage 0 (putAt 0 0 watching (walked leafW) .blocked)).modHome 4160 fun h => { h with watches := [aWatch] })

def watchWalked : State :=
  match watched.walk 0 0x10000 needR 0 with
  | .ok _ _ u => u
  | _ => m0

def aFault (source obj stage : Nat) : Outstanding := { cookie := 5, uid := 0, source := source, obj := obj, msg := [1, 2, 0x10000, 0x40], stage := stage, next := 1024 }

def pagerP : Proc := { p0 with uid := 8, vcore := 4352 }

def pagerBox : Port := { Port.closed 8 with state := 1, type := 1, buffered := true, depth := 4 }

def faulted (stage : Nat) (s : State := mapped m0) : State :=
  { happens { c := 0, n := 0 } (s.modCore 0 fun co => { co with faults := [aFault 0 0 stage] }) with now := 1024 }

def paged : State := (putAt 4352 0 pagerP (mapped m0)).setPort 4352 0 pagerBox

def wakeWords (action : Nat) : List Word := [BitVec.ofNat 64 (action * 2 ^ 40 + 5), 2, 0, 0]

def suspendedP : Proc := waiting (.alt 0 1 3) (.walk 0x10000 needR 1)

def woken (action source obj : Nat) (p : Proc := suspendedP) (c : Nat := 0) : State :=
  packetTo 4352 c (.wake (wakeWords action)) ((putAt c 0 p (mapped m0) .suspended).modCore c fun co =>
    { co with faults := [aFault source obj 2], memops := [{ lineJob with cookie := some 5 }] })

def forgot (action source obj : Nat) (p : Proc := suspendedP) (c : Nat := 0) : State :=
  (((woken action source obj p c).drop 0).traceWake c (aFault source obj 2) action).modCore c fun co => co.forget (aFault source obj 2)

def queued : Proc := { suspendedP with replay := [{ va := 0x10000, data := 7, wide := true, cookie := 5, go := false, pc := 0x40, born := 0 }] }

def queuedGo : Proc := { suspendedP with replay := [{ va := 0x10000, data := 7, wide := true, cookie := 5, go := true, pc := 0x40, born := 0 }] }

def hloader : Proc := waiting (.hload 0 2 1 4) (.walk 0x10000 needR 4)

theorem witness_Translations (h : Obligations.Translations) : True := by
  have := h.1.1 m0 0 0x10000000000000 2 0 (by decide +kernel)
  have := h.1.2.1 m0 0 0x10000 2 0 (by decide +kernel) (by decide +kernel) (by decide +kernel) (by decide +kernel)
  have := (h.1.2.2.1 (walked 0) 0 0x10000 needR 0 0x1F01 0x1000 0x2000 0x3000 0x4008 0x2001 0x3001 0x4001 0 0
      (by decide +kernel) (by decide +kernel) (by decide +kernel) (by decide +kernel) (by decide +kernel) (by decide +kernel)
      (by decide +kernel) (by decide +kernel) (by decide +kernel) (by decide +kernel) (by decide +kernel) (by decide +kernel)
      (by decide +kernel) (by decide +kernel) (by decide +kernel) (by decide +kernel) (everyOf (by decide +kernel))
      (everyOf (by decide +kernel)) (by decide +kernel)).1 (by decide +kernel)
  have := (h.1.2.2.1 (walked 1) 0 0x10000 needR 0 0x1F01 0x1000 0x2000 0x3000 0x4008 0x2001 0x3001 0x4001 1 0
      (by decide +kernel) (by decide +kernel) (by decide +kernel) (by decide +kernel) (by decide +kernel) (by decide +kernel)
      (by decide +kernel) (by decide +kernel) (by decide +kernel) (by decide +kernel) (by decide +kernel) (by decide +kernel)
      (by decide +kernel) (by decide +kernel) (by decide +kernel) (by decide +kernel) (everyOf (by decide +kernel))
      (everyOf (by decide +kernel)) (by decide +kernel)).2.1 (by decide +kernel) (by decide +kernel)
  have := (h.1.2.2.1 (walked 0x4003) 0 0x10000 needR 0 0x1F01 0x1000 0x2000 0x3000 0x4008 0x2001 0x3001 0x4001 0x4003 0
      (by decide +kernel) (by decide +kernel) (by decide +kernel) (by decide +kernel) (by decide +kernel) (by decide +kernel)
      (by decide +kernel) (by decide +kernel) (by decide +kernel) (by decide +kernel) (by decide +kernel) (by decide +kernel)
      (by decide +kernel) (by decide +kernel) (by decide +kernel) (by decide +kernel) (everyOf (by decide +kernel))
      (everyOf (by decide +kernel)) (by decide +kernel)).2.2.1 (by decide +kernel) (by decide +kernel)
      (.inr (.inl (by decide +kernel)))
  have := ((h.1.2.2.1 (walked 0x4000503) 0 0x10000 needR 0 0x1F01 0x1000 0x2000 0x3000 0x4008 0x2001 0x3001 0x4001 0x4000503
      5 (by decide +kernel) (by decide +kernel) (by decide +kernel) (by decide +kernel) (by decide +kernel)
      (by decide +kernel) (by decide +kernel) (by decide +kernel) (by decide +kernel) (by decide +kernel) (by decide +kernel)
      (by decide +kernel) (by decide +kernel) (by decide +kernel) (by decide +kernel) (by decide +kernel)
      (everyOf (by decide +kernel)) (everyOf (by decide +kernel)) (by decide +kernel)).2.2.2 (by decide +kernel)
      (by decide +kernel) (by decide +kernel) (by decide +kernel) (by decide +kernel) (by decide +kernel)).1
      (by decide +kernel)
  have := ((h.1.2.2.1 (walked 0x4000503) 0 0x10000 needR 0 0x1F01 0x1000 0x2000 0x3000 0x4008 0x2001 0x3001 0x4001 0x4000503
      5 (by decide +kernel) (by decide +kernel) (by decide +kernel) (by decide +kernel) (by decide +kernel)
      (by decide +kernel) (by decide +kernel) (by decide +kernel) (by decide +kernel) (by decide +kernel) (by decide +kernel)
      (by decide +kernel) (by decide +kernel) (by decide +kernel) (by decide +kernel) (by decide +kernel)
      (everyOf (by decide +kernel)) (everyOf (by decide +kernel)) (by decide +kernel)).2.2.2 (by decide +kernel)
      (by decide +kernel) (by decide +kernel) (by decide +kernel) (by decide +kernel) (by decide +kernel)).2.1
      (by decide +kernel)
  have := ((h.1.2.2.1 (walked 0x4000503) 0 0x10000 needR 0 0x1F01 0x1000 0x2000 0x3000 0x4008 0x2001 0x3001 0x4001 0x4000503
      5 (by decide +kernel) (by decide +kernel) (by decide +kernel) (by decide +kernel) (by decide +kernel)
      (by decide +kernel) (by decide +kernel) (by decide +kernel) (by decide +kernel) (by decide +kernel) (by decide +kernel)
      (by decide +kernel) (by decide +kernel) (by decide +kernel) (by decide +kernel) (by decide +kernel)
      (everyOf (by decide +kernel)) (everyOf (by decide +kernel)) (by decide +kernel)).2.2.2 (by decide +kernel)
      (by decide +kernel) (by decide +kernel) (by decide +kernel) (by decide +kernel) (by decide +kernel)).2.2.1
      (by decide +kernel)
  have := ((h.1.2.2.1 (walked leafW) 0 0x10000 needR 0 0x1F01 0x1000 0x2000 0x3000 0x4008 0x2001 0x3001 0x4001 leafW 5
      (by decide +kernel) (by decide +kernel) (by decide +kernel) (by decide +kernel) (by decide +kernel) (by decide +kernel)
      (by decide +kernel) (by decide +kernel) (by decide +kernel) (by decide +kernel) (by decide +kernel) (by decide +kernel)
      (by decide +kernel) (by decide +kernel) (by decide +kernel) (by decide +kernel) (everyOf (by decide +kernel))
      (everyOf (by decide +kernel)) (by decide +kernel)).2.2.2 (by decide +kernel) (by decide +kernel) (by decide +kernel)
      (by decide +kernel) (by decide +kernel) (by decide +kernel)).2.2.2.1 (by decide +kernel)
  have := ((h.1.2.2.1 (walked leafW) 0 0x10000 needR 0 0x1F01 0x1000 0x2000 0x3000 0x4008 0x2001 0x3001 0x4001 leafW 5
      (by decide +kernel) (by decide +kernel) (by decide +kernel) (by decide +kernel) (by decide +kernel) (by decide +kernel)
      (by decide +kernel) (by decide +kernel) (by decide +kernel) (by decide +kernel) (by decide +kernel) (by decide +kernel)
      (by decide +kernel) (by decide +kernel) (by decide +kernel) (by decide +kernel) (everyOf (by decide +kernel))
      (everyOf (by decide +kernel)) (by decide +kernel)).2.2.2 (by decide +kernel) (by decide +kernel) (by decide +kernel)
      (by decide +kernel) (by decide +kernel) (by decide +kernel)).2.2.2.2 (by decide +kernel)
  have := h.1.2.2.2 page1 0 0x10000 needR 0 (by decide +kernel)
  have := (h.2.1.1 (walkWaits leafW 5) 0 walker (.alt 0 1 3) 0x10000 needR 1 oneWalk 0 0 rfl (by decide +kernel)
      (by decide +kernel) rfl (by decide +kernel) (by decide +kernel)).1 (tlbOf 0x400055F false) true (walkEnds leafW)
      (by decide +kernel) (by decide +kernel)
  have := (h.2.1.1 (walkWaits 0 5) 0 walker (.alt 0 1 3) 0x10000 needR 1 oneWalk 0 0 rfl (by decide +kernel)
      (by decide +kernel) rfl (by decide +kernel) (by decide +kernel)).2 1 false (walkFails) (by decide +kernel)
      (by decide +kernel) (by decide +kernel) (by decide +kernel) (by decide +kernel) (by simp) (by decide +kernel)
  have := h.2.1.2.1 (walkWaits leafW 1280) 0 walker (.alt 0 1 3) 0x10000 needR 1 oneWalk 0 0 rfl (by decide +kernel)
      (by decide +kernel) rfl (by decide +kernel) (by decide +kernel)
  have := h.2.1.2.2.1 expiring 0 rfl
  have := (h.2.1.2.2.2.1 (renewing leafW (oldTlb leafW)) 4096 lineJob 0 needR rfl (by decide +kernel) (by decide +kernel)
      (by decide +kernel) (by decide +kernel) (by decide +kernel)).1 (renewed leafW (oldTlb leafW)) (by decide +kernel)
  have := (h.2.1.2.2.2.1 (renewing 0x800051F (oldTlb leafW)) 4096 lineJob 0 needR rfl (by decide +kernel)
      (by decide +kernel) (by decide +kernel) (by decide +kernel) (by decide +kernel)).2.1 (renewed 0x800051F (oldTlb leafW))
      (by decide +kernel)
  have := (h.2.1.2.2.2.1 (renewing 0 (oldTlb leafW)) 4096 lineJob 0 needR rfl (by decide +kernel) (by decide +kernel)
      (by decide +kernel) (by decide +kernel) (by decide +kernel)).2.2 1 false (unrenewed (oldTlb leafW)) (by decide +kernel)
  have := (h.2.1.2.2.2.2.1 (renewing leafW page1) 4096 0 0x10000 needR page1 (by decide +kernel)).1 (by decide +kernel)
  have := (h.2.1.2.2.2.2.1 (renewing 0 (oldTlb leafW)) 4096 0 0x10000 needR (oldTlb leafW) (by decide +kernel)).2
      (by decide +kernel) (by decide +kernel) 1 false (unwalked (oldTlb leafW)) (by decide +kernel)
  have := h.2.1.2.2.2.2.2 watched 0 0 watching aWatch (tlbOf 0x400055F false) watchWalked rfl (by decide +kernel)
      (by decide +kernel) (by decide +kernel) (by decide +kernel) (by decide +kernel) (by decide +kernel) (by decide +kernel)
      (by decide +kernel) (by decide +kernel)
  have := h.2.2.1 { happens { n := 1 } m0 with now := 1280 } (by decide +kernel) (by decide +kernel) (by decide +kernel)
  have := h.2.2.1 { happens { n := 15 } (m0.modDie 2 fun d => { d with clock := 0xFFFFFFFFFFF0 }) with now := 1280 }
      (by decide +kernel) (by decide +kernel) (by decide +kernel)
  have := h.2.2.2.1 { happens { n := 1 } m0 with now := 1279 } (by decide +kernel) (by decide +kernel) (by decide +kernel)
  have := h.2.2.2.2.1 (happens { n := 65 } m0) 0 (by decide +kernel) (by decide +kernel) (by decide +kernel)
      (by decide +kernel) (by decide +kernel) (by decide +kernel)
  have := h.2.2.2.2.2.1 (happens { n := 1 } (m0.modDie 1 fun d => { d with skewed := true })) 1 rfl (by decide +kernel)
      (by decide +kernel)
  have := h.2.2.2.2.2.2 { happens { n := 5 } m0 with ioClocks := #v[(0, false), (7, true)] } 1 rfl (by decide +kernel)
      (by decide +kernel)
  trivial

theorem witness_FaultsAndWakes (h : Obligations.FaultsAndWakes) : True := by
  have := (h.1 (faulted 0 paged) 0 (aFault 0 0 0) rfl rfl rfl).1 pagerBox pagerP (by decide +kernel) (by decide +kernel)
  have := (h.1 (faulted 0) 0 (aFault 0 0 0) rfl rfl rfl).2 (by decide +kernel)
  have := h.2.1 (faulted 1) 0 (aFault 0 0 1) rfl rfl rfl (by decide +kernel)
  have := (h.2.2.1 (woken 1 0 0) 0 (pk0 (woken 1 0 0)) (wakeWords 1) (aFault 0 0 2) (forgot 1 0 0)
      (arrived (by decide +kernel)) rfl rfl (by decide +kernel) (by decide +kernel) rfl).1 (.inl rfl)
  have := (h.2.2.1 (woken 1 2 0 queued) 0 (pk0 (woken 1 2 0 queued)) (wakeWords 1) (aFault 2 0 2) (forgot 1 2 0 queued)
      (arrived (by decide +kernel)) rfl rfl (by decide +kernel) (by decide +kernel) rfl).2.1 queuedGo (by decide +kernel)
      (by decide +kernel)
  have := (h.2.2.1 (woken 1 3 0) 0 (pk0 (woken 1 3 0)) (wakeWords 1) (aFault 3 0 2) (forgot 1 3 0)
      (arrived (by decide +kernel)) rfl rfl (by decide +kernel) (by decide +kernel) rfl).2.2.1 (by decide +kernel)
  have := (h.2.2.1 (woken 1 4 1) 0 (pk0 (woken 1 4 1)) (wakeWords 1) (aFault 4 1 2) (forgot 1 4 1)
      (arrived (by decide +kernel)) rfl rfl (by decide +kernel) (by decide +kernel) rfl).2.2.2 (by decide +kernel)
      (by decide +kernel)
  have := h.2.2.2.1 (woken 2 0 0) 0 (pk0 (woken 2 0 0)) (wakeWords 2) (aFault 0 0 2) 0 suspendedP
      { instr := .alt 0 1 3, kind := .walk 0x10000 needR 1 } (arrived (by decide +kernel)) rfl rfl (by decide +kernel)
      (by decide +kernel) (.inl rfl) (by decide +kernel) (by decide +kernel) (by decide +kernel) rfl (by decide +kernel)
      (by decide +kernel)
  have := (h.2.2.2.2.1 (woken 3 4 1) 0 (pk0 (woken 3 4 1)) (wakeWords 3) (aFault 4 1 2) (arrived (by decide +kernel)) rfl
      rfl (by decide +kernel) (by decide +kernel)).1 { lineJob with cookie := some 5 } (by decide +kernel) (by decide +kernel)
      (by decide +kernel)
  have := (h.2.2.2.2.1 (woken 3 4 0 hloader 4096) 0 (pk0 (woken 3 4 0 hloader 4096)) (wakeWords 3) (aFault 4 0 2)
      (arrived (by decide +kernel)) rfl rfl (by decide +kernel) (by decide +kernel)).2 0 hloader (.hload 0 2 1 4) 0 2 1 4
      (.walk 0x10000 needR 4) (by decide +kernel) (by decide +kernel) (by decide +kernel) (by decide +kernel)
      (by decide +kernel) (by decide +kernel) rfl (.inl rfl)
  have := h.2.2.2.2.2 (woken 0 0 0) 0 (pk0 (woken 0 0 0)) (wakeWords 0) (arrived (by decide +kernel)) rfl rfl
      (.inr (.inl (by decide +kernel)))
  have := h.2.2.2.2.2 (woken 4 0 0) 0 (pk0 (woken 4 0 0)) (wakeWords 4) (arrived (by decide +kernel)) rfl rfl
      (.inr (.inr (by decide +kernel)))
  trivial

end W15

namespace W16

/-- HBM whose tables map the virtual pages 1 to 8 of context 0 onto the frames 1 to 8. -/
def saveTables : Mem :=
  (List.range 8).foldl (fun m i => Mem.putNat m (0x4008 + 8 * i) 8 (0x400011F + 0x4000000 * i))
    ((((Mem.putNat [] 0 8 0x1F01).putNat 0x1000 8 0x2001).putNat 0x2000 8 0x3001).putNat 0x3000 8 0x4001)

/-- A descriptor of context 5 on vcore 1, and a process that names it, with the save area at 0x10000. -/
def saveWord : Word := 5 + 2 ^ 12 + 2 ^ 25

def preempter (w : Word) : Proc := { p0 with x := p0.x.set 4 w, e := p0.e.set 0 0x10000 }

def ofFive : Proc := { p0 with uid := 9, vcore := 1, record := { p0.record with ctx := 5 } }

def onFive (p : Proc) (s : State) : State := { putAt 1 0 p s with cur := (0, 0) }

def preempts (w : Word) : State := at0 (preempter w) (mapped { m0 with hbm := saveTables })

def mappedArea (s : State) : State :=
  match s.saveMapped (some 0) (savePages saveWord 0x10000) with
  | .at _ u => u
  | _ => m0

def atOf : SaveAt → Option (Nat × State)
  | .at a u => some (a, u)
  | _ => none

theorem isAt {x : SaveAt} {a : Nat} {u : State} (h : atOf x = some (a, u)) : x = .at a u := by
  cases x <;> simp_all [atOf]

def isLater : SaveAt → Bool
  | .later => true
  | _ => false

theorem noneLater {f : Nat → SaveAt} {n : Nat} (h : (List.range n).all (fun i => !isLater (f i)) = true) : ∀ i, i < n → f i ≠ .later := by
  intro i hi e
  have := List.all_eq_true.1 h i (List.mem_range.2 hi)
  simp [e, isLater] at this

def begun (s : State) : State := (((mappedArea s).modCore 0 fun co => { co with walks := co.walks + 8 }).beginSave saveWord 0x10000 (some 0) me).getD m0

def answeredP : Proc := { preempter saveWord with answer := some { status := 0, value := 0 } }

def busyCore : State := onFive ofFive (preempts saveWord)

def savedEntry (procs : List (Proc × Bool × List (Nat × Ring))) (windows : List (Nat × List Byte × List Nat)) : Saved :=
  { ctx := 5, base := 0x10000, procs := procs, taken := [], foreign := [], records := [], ctrs := [], tbs := [], copies := [], windows := windows }

def resumes : State := (preempts saveWord).modCore 1 fun co => { co with saved := [savedEntry [] []] }

def begunResume : State := (resumes.beginResume saveWord 0x10000 (some 0) me).getD m0

def aJob (save : Bool) : SaveJob :=
  { ctx := 5, base := 0x10000, save := save, region := 0x10000, octx := some 0, who := { core := hostUnit, uid := 1 } }

/-- A committed process of context 5 without rings, whose window is 256 bytes. -/
def committed : Proc := { ofFive with cmt := true, rings := [], wbase := 512, wsize := 256, header := p0.header.set 2 0 }

def saving (p : Proc) : State :=
  happens { c := 1 } ((onFive p (mapped { m0 with hbm := saveTables })).modCore 1 fun co =>
    { co with jobs := [aJob true], saved := [savedEntry [] []], waits := [] })

def uncommitted : Proc := { committed with cmt := false }

def restoring : State :=
  happens { c := 1 } ((mapped m0).modCore 1 fun co =>
    { co with jobs := [aJob false], saved := [savedEntry [(committed, false, [])] [(512, List.replicate 256 7, [33])]] })

def fencer (w : Word) : Proc := { p0 with x := p0.x.set 4 w }

def bareCore : State := (mapped m0).setCore 1 Core.reset

def fencedMap : State :=
  (mapped m0).modDie 0 fun d => { d with map := [(0, 0x8000), (1, 0xC001)], salvages := [1], restarts := [{ vcore := 1, item := p0.record, go := false }] }

def cmapWord : Word := 0x8004 + 4 * 2 ^ 16

def draftP : Proc := { p0 with uid := 9, vcore := 1, header := p0.header.set 2 4 }

def salvaging (flag : Bool) : State :=
  happens { n := 1, flag := flag } ((putAt 1 0 draftP fencedMap).modCore 1 fun co => { co with queue := [p0.record] })

def watched : State := happens { c := 1 } ((mapped m0).modCore 1 fun co => { co with wdCount := 16777216 })

def oldPacket : Packet := { src := 0, dst := 1, vc := 1, since := 0, body := .withdraw 0 0 }

def linkWatched : State := { happens { n := 0 } (mapped m0) with net := [oldPacket], now := 16777216 }

def blockedP : Proc := waiting (.recv 0 0 0 0 1) (.recv 0)

theorem witness_Preemption (h : Obligations.Preemption) : True := by
  have := (h.1 (at0 answeredP) 0 0 answeredP (.preemptSave 0 4) 0 4 true (.inl ⟨rfl, rfl⟩) (by decide +kernel)
      (by decide +kernel) (by decide +kernel) (execs (by decide +kernel))).1 { status := 0, value := 0 } (by decide +kernel)
  have := (h.1 (preempts 0) 0 0 (preempter 0) (.preemptResume 0 4) 0 4 false (.inr ⟨rfl, rfl⟩) (by decide +kernel)
      (by decide +kernel) (by decide +kernel) (execs (by decide +kernel))).2.1 (by decide +kernel)
      (.inr (.inl (by decide +kernel)))
  have := ((h.1 (preempts saveWord) 0 0 (preempter saveWord) (.preemptSave 0 4) 0 4 true (.inl ⟨rfl, rfl⟩)
      (by decide +kernel) (by decide +kernel) (by decide +kernel) (execs (by decide +kernel))).2.2.1 0
      (mappedArea (preempts saveWord)) (begun (preempts saveWord)) (by decide +kernel) (by decide +kernel) (by decide +kernel)
      (by decide +kernel) (isAt (by decide +kernel)) (by decide +kernel)).2 (everyOf (by decide +kernel)) (by decide +kernel)
  have := ((h.1 busyCore 0 0 (preempter saveWord) (.preemptSave 0 4) 0 4 true (.inl ⟨rfl, rfl⟩) (by decide +kernel)
      (by decide +kernel) (by decide +kernel) (execs (by decide +kernel))).2.2.1 0 (mappedArea busyCore) (begun busyCore)
      (by decide +kernel) (by decide +kernel) (by decide +kernel) (by decide +kernel) (isAt (by decide +kernel))
      (by decide +kernel)).1 (someOf (by decide +kernel))
  have := (h.1 resumes 0 0 (preempter saveWord) (.preemptResume 0 4) 0 4 false (.inr ⟨rfl, rfl⟩) (by decide +kernel)
      (by decide +kernel) (by decide +kernel) (execs (by decide +kernel))).2.2.2 begunResume (by decide +kernel)
      (by decide +kernel) (by decide +kernel) (by decide +kernel) (by decide +kernel)
  have := (h.2.1 (saving uncommitted) 1 (aJob true) rfl rfl).1 0 uncommitted (by decide +kernel) (by decide +kernel)
      (by decide +kernel)
  have := ((h.2.1 (saving committed) 1 (aJob true) rfl rfl).2 (everyOf (by decide +kernel))
      (noneLater (by decide +kernel))).2 0 committed (by decide +kernel) (by decide +kernel) (by decide +kernel)
      (by decide +kernel) (by decide +kernel) (by decide +kernel) (savedEntry [] []) (by decide +kernel) (by decide +kernel)
      (by decide +kernel) (by decide +kernel) (by decide +kernel)
  have := h.2.2 restoring 1 (aJob false) (savedEntry [(committed, false, [])] [(512, List.replicate 256 7, [33])]) committed
      false 512 (List.replicate 256 7) [33] 0 _ rfl (by decide +kernel) rfl rfl rfl rfl rfl rfl rfl rfl (by decide +kernel)
      (by decide +kernel)
  trivial

theorem witness_FencingAndErrors (h : Obligations.FencingAndErrors) : True := by
  have := (h.1.1 (at0 (fencer 5000) (mapped m0)) 0 0 (fencer 5000) (.fencecFence 0 4) 0 4 5000 (.inl rfl)
      (by decide +kernel) (by decide +kernel) (by decide +kernel) (execs (by decide +kernel)) (by decide +kernel)).1
      (.inl (by decide +kernel))
  have := (h.1.1 (at0 (fencer 9) (mapped m0)) 0 0 (fencer 9) (.fencecFence 0 4) 0 4 9 (.inl rfl) (by decide +kernel)
      (by decide +kernel) (by decide +kernel) (execs (by decide +kernel)) (by decide +kernel)).2 (by decide +kernel)
      (by decide +kernel) (.inl ⟨rfl, .inl (by decide +kernel)⟩)
  have := (h.1.1 (at0 (fencer 1) (mapped m0)) 0 0 (fencer 1) (.fencecAbandon 0 4) 0 4 1 (.inr rfl) (by decide +kernel)
      (by decide +kernel) (by decide +kernel) (execs (by decide +kernel)) (by decide +kernel)).2 (by decide +kernel)
      (by decide +kernel) (.inr ⟨rfl, by decide +kernel⟩)
  have := h.1.2.1 (at0 (fencer 1) bareCore) 0 0 (fencer 1) 0 4 1 1 (by decide +kernel) (by decide +kernel)
      (by decide +kernel) (execs (by decide +kernel)) (by decide +kernel) (by decide +kernel) (by decide +kernel)
      (by decide +kernel) (by decide +kernel) (by decide +kernel) (by decide +kernel) (by decide +kernel) (by decide +kernel)
      (by decide +kernel)
  have := h.1.2.2.1 (at0 (fencer 1) fencedMap) 0 0 (fencer 1) 0 4 1 (by decide +kernel) (by decide +kernel)
      (by decide +kernel) (execs (by decide +kernel)) (by decide +kernel) (by decide +kernel) (by decide +kernel)
      (by decide +kernel)
  have := (h.1.2.2.2.1 (at0 (fencer cmapWord) ((mapped m0).modCore 0 fun co => { co with boot := false })) 0 0
      (fencer cmapWord) 0 4 cmapWord 0 4 0x8004 (by decide +kernel) (by decide +kernel) (by decide +kernel)
      (execs (by decide +kernel)) (by decide +kernel) (by decide +kernel) (by decide +kernel) (by decide +kernel)).2
      (by decide +kernel) (by decide +kernel) (by decide +kernel) (by decide +kernel) (by decide +kernel) (by decide +kernel)
      (by decide +kernel) (by decide +kernel) (by decide +kernel) (by decide +kernel)
  have := (h.1.2.2.2.1 (at0 (fencer 0x8001) (mapped m0)) 0 0 (fencer 0x8001) 0 4 0x8001 0 0 0x8001 (by decide +kernel)
      (by decide +kernel) (by decide +kernel) (execs (by decide +kernel)) (by decide +kernel) (by decide +kernel)
      (by decide +kernel) (by decide +kernel)).1 (.inr (.inr (.inr (.inr (by decide +kernel)))))
  have := h.1.2.2.2.2.1 (salvaging false) 1 1 0 1 rfl rfl (by decide +kernel) (by decide +kernel) (by decide +kernel)
      (by decide +kernel)
  have := h.1.2.2.2.2.2 (salvaging true) 1 1 rfl rfl (by decide +kernel) (by decide +kernel)
  have := h.2.1 watched 1 rfl (by decide +kernel) (by decide +kernel) (by decide +kernel)
  have := h.2.2.1 linkWatched oldPacket 1 0 (by decide +kernel) (by decide +kernel) (by decide +kernel) (by decide +kernel)
      (by decide +kernel) (everyOf (by decide +kernel)) (by decide +kernel) (by decide +kernel)
  have := h.2.2.2.2.1 (happens { c := 0, n := 0, k := 0 } (putAt 0 0 blockedP (mapped m0) .blocked)) 0 0 blockedP
      { instr := .recv 0 0 0 0 1, kind := .recv 0 } rfl rfl rfl (by decide +kernel) (by decide +kernel) (by decide +kernel)
      (by decide +kernel) rfl (by decide +kernel) (by decide +kernel)
  have := h.2.2.2.2.2.1 (happens { c := 0, n := 7 } m0) rfl
  have := h.2.2.2.2.2.2 (happens { c := 0, n := 9 } m0) rfl
  trivial

end W16

namespace W17

/-- Core 0 of the tests, halted, with its process in slot 0 in slot state `st`. -/
def debugged (st : SlotState) (e : Ev) (s : State := m0) : State :=
  happens e ((putAt 0 0 p0 (mapped s) st).modCore 0 fun co => { co with dbgctl := 3, dbgdata := 0x1235 })

/-- A DBGACC word: register class, slot and index. -/
def accWord (cls slot idx : Nat) : Word := BitVec.ofNat 64 (slot * 2 ^ 59 + cls * 2 ^ 56 + idx * 2 ^ 44)

def evenData : State := (debugged .halted { w := accWord 4 0 0 }).modCore 0 fun co => { co with dbgdata := 0x1234 }

def tracing (b : Nat) : State := m0.modCore 0 fun co => { co with trcctl := BitVec.ofNat 64 b }

def marker : Proc := { p0 with x := p0.x.set 4 0xFF010203 }

def aCapture (n : Nat) : Capture := { ev := #v[3, 2, 1, 255], cnt := #v[1, 2, 3, 4], pend := #v[1, 0, 0, 1], pendAt := 4, nsusp := n, start := 5 }

def capturing (n : Nat) : Proc := { p0 with capture := some (aCapture n) }

def aRecord : List Word := [1, 2, 3, 4]

/-- HBM with a trace ring of 16 records at 0, WRPTR = `wr` and RDPTR = `rd`. -/
def ringMem (wr rd : Nat) : Mem := ((Mem.putNat [] 0 8 16).putNat 8 8 wr).putNat 0x10 8 rd

def drains (wr lost : Nat) : State :=
  happens { c := 0 } { (m0.modCore 0 fun co => { co with trace := [aRecord], lossT := lost }) with hbm := ringMem wr 0 }

def ringPacket : State := packetTo 0 8100 (.trace aRecord) { m0 with hbm := ringMem 17 3 }

def pollsRing (wr rd : Nat) : State := happens { n := 0 } { m0 with hbm := ringMem wr rd }

def captures (start : Bool) (s : State) : State := packetTo 8200 0 (.capture start 16777215 9 2) s

def counted (cnt : Nat) : LinkCapture := { idx := 7, len := 9, count := cnt, done := 0, start := 0 }

def counting (cnt : Nat) : State :=
  happens { c := 0 } { (m0.modCore 0 fun co => { co with capture := some (counted cnt), walks := 3 }) with now := 9 }

theorem witness_DebugControl (h : Obligations.DebugControl) : True := by
  have := h.1 (happens {} (mapped m0)) 0 (by decide +kernel) rfl (by decide +kernel)
  have := h.2.1 (debugged .halted {}) 0 (by decide +kernel) rfl (by decide +kernel)
  have := h.2.2.1 (debugged .halted {}) 0 0 (by decide +kernel) rfl rfl (by decide +kernel) (by decide +kernel)
      (by decide +kernel)
  have := h.2.2.2.1 (debugged .blocked {}) 0 0 (by decide +kernel) rfl rfl (by decide +kernel) (.inr (by decide +kernel))
  have := h.2.2.2.1 (happens {} (mapped m0)) 0 0 (by decide +kernel) rfl rfl (by decide +kernel) (.inl (by decide +kernel))
  have := h.2.2.2.2.1 (debugged .blocked { w := accWord 0 0 31 }) 0 (accWord 0 0 31) 0 p0 (by decide +kernel) rfl rfl
      (by decide +kernel) (by decide +kernel) (by decide +kernel) (.inr (.inl (by decide +kernel)))
  have := h.2.2.2.2.1 (debugged .halted { w := accWord 1 0 0x7C3 }) 0 (accWord 1 0 0x7C3) 0 p0 (by decide +kernel) rfl rfl
      (by decide +kernel) (by decide +kernel) (by decide +kernel) (.inl (by decide +kernel))
  have := h.2.2.2.2.1 (debugged .suspended { w := accWord 2 0 7 }) 0 (accWord 2 0 7) 0 p0 (by decide +kernel) rfl rfl
      (by decide +kernel) (by decide +kernel) (by decide +kernel) (.inr (.inr (by decide +kernel)))
  have := h.2.2.2.2.1 (debugged .halted { w := accWord 3 0 7 }) 0 (accWord 3 0 7) 0 p0 (by decide +kernel) rfl rfl
      (by decide +kernel) (by decide +kernel) (by decide +kernel) (.inl (by decide +kernel))
  have := h.2.2.2.2.1 (debugged .halted { w := accWord 4 0 0 }) 0 (accWord 4 0 0) 0 p0 (by decide +kernel) rfl rfl
      (by decide +kernel) (by decide +kernel) (by decide +kernel) (.inl (by decide +kernel))
  have := h.2.2.2.2.1 (debugged .halted { w := accWord 7 0 0 }) 0 (accWord 7 0 0) 0 p0 (by decide +kernel) rfl rfl
      (by decide +kernel) (by decide +kernel) (by decide +kernel) (.inl (by decide +kernel))
  have := (h.2.2.2.2.2.1 (debugged .halted { w := accWord 0 0 31 }) 0 (accWord 0 0 31) 0 p0 0x1235 (by decide +kernel) rfl
      rfl (by decide +kernel) (by decide +kernel) (by decide +kernel) (by decide +kernel) (by decide +kernel)).1
      (by decide +kernel) (by decide +kernel)
  have := (h.2.2.2.2.2.1 (debugged .halted { w := accWord 2 0 7 }) 0 (accWord 2 0 7) 0 p0 0x1235 (by decide +kernel) rfl rfl
      (by decide +kernel) (by decide +kernel) (by decide +kernel) (by decide +kernel) (by decide +kernel)).2.1
      (by decide +kernel) (by decide +kernel)
  have := (h.2.2.2.2.2.1 (debugged .halted { w := accWord 3 0 7 }) 0 (accWord 3 0 7) 0 p0 0x1235 (by decide +kernel) rfl rfl
      (by decide +kernel) (by decide +kernel) (by decide +kernel) (by decide +kernel) (by decide +kernel)).2.2.1
      (by decide +kernel) (by decide +kernel)
  have := (h.2.2.2.2.2.1 evenData 0 (accWord 4 0 0) 0 p0 0x1234 (by decide +kernel) rfl rfl (by decide +kernel)
      (by decide +kernel) (by decide +kernel) (by decide +kernel) (by decide +kernel)).2.2.2.1 (by decide +kernel)
      (by decide +kernel)
  have := h.2.2.2.2.1 (debugged .halted { w := accWord 5 0 0 }) 0 (accWord 5 0 0) 0 p0 (by decide +kernel) rfl rfl
      (by decide +kernel) (by decide +kernel) (by decide +kernel) (.inl (by decide +kernel))
  have := h.2.2.2.2.1 (debugged .halted { w := accWord 6 0 3 }) 0 (accWord 6 0 3) 0 p0 (by decide +kernel) rfl rfl
      (by decide +kernel) (by decide +kernel) (by decide +kernel) (.inl (by decide +kernel))
  have := (h.2.2.2.2.2.1 (debugged .halted { w := accWord 5 0 (SysReg.number .tpc).toNat }) 0
      (accWord 5 0 (SysReg.number .tpc).toNat) 0 p0 0x1235 (by decide +kernel) rfl rfl (by decide +kernel) (by decide +kernel)
      (by decide +kernel) (by decide +kernel) (by decide +kernel)).2.2.2.2.1 .tpc (by decide +kernel) (by decide +kernel)
  have := (h.2.2.2.2.2.1 (debugged .halted { w := accWord 6 0 3 }) 0 (accWord 6 0 3) 0 p0 0x1235 (by decide +kernel) rfl rfl
      (by decide +kernel) (by decide +kernel) (by decide +kernel) (by decide +kernel) (by decide +kernel)).2.2.2.2.2 3
      (by decide +kernel) (by decide +kernel) (by decide +kernel)
  have := h.2.2.2.2.2.2 (debugged .blocked { w := accWord 0 0 31 }) 0 (accWord 0 0 31) 0 (by decide +kernel) rfl rfl
      (by decide +kernel) (.inr (.inl (by decide +kernel)))
  have := h.2.2.2.2.2.2 (happens { w := accWord 0 0 1 } (mapped m0)) 0 (accWord 0 0 1) 0 (by decide +kernel) rfl rfl
      (by decide +kernel) (.inl (by decide +kernel))
  have := h.2.2.2.2.2.2 (debugged .halted { w := accWord 7 0 31 }) 0 (accWord 7 0 31) 0 (by decide +kernel) rfl rfl
      (by decide +kernel) (.inr (.inr (.inl (by decide +kernel))))
  have := h.2.2.2.2.2.2 (debugged .halted { w := accWord 4 0 0 }) 0 (accWord 4 0 0) 0 (by decide +kernel) rfl rfl
      (by decide +kernel) (.inr (.inr (.inr (by decide +kernel))))
  trivial

theorem witness_TraceAndCounts (h : Obligations.TraceAndCounts) : True := by
  have := h.1.1 (at0 p0 (tracing 0)) 0 0 p0 0 1 2 255 (execs (by decide +kernel))
  have := h.1.1 (at0 p0 (tracing 1)) 0 0 p0 0 1 2 255 (execs (by decide +kernel))
  have := h.1.2.1 (at0 marker) 0 0 marker 0 4 #v[3, 2, 1, 255] (execs (by decide +kernel)) (by decide +kernel)
  have := (h.1.2.2 (at0 p0) 0 0 p0 0 4 31 (execs (by decide +kernel))).1 (by decide +kernel)
  have := (h.1.2.2 (at0 (capturing 65535)) 0 0 (capturing 65535) 0 4 31 (execs (by decide +kernel))).2 (aCapture 65535) _ _
      _ (by decide +kernel) rfl (by decide +kernel) rfl rfl
  have := h.2.1 (drains 15 0) 0 aRecord [] rfl (by decide +kernel) (by decide +kernel)
  have := h.2.1 (drains 15 9) 0 aRecord [] rfl (by decide +kernel) (by decide +kernel)
  have := h.2.2.1 (drains 16 0) 0 rfl (by decide +kernel)
  have := h.2.2.2.1 ringPacket 0 (pk0 ringPacket) aRecord [] 0 16 17 rfl rfl (by decide +kernel) rfl (by decide +kernel)
      (by decide +kernel) (by decide +kernel) (by decide +kernel) (by decide +kernel)
  have := h.2.2.2.2.1 (pollsRing 16 16) 0 0 16 16 rfl (by decide +kernel) rfl (by decide +kernel) (by decide +kernel)
      (by decide +kernel) (by decide +kernel) (by decide +kernel)
  have := h.2.2.2.2.1 (pollsRing 16 17) 0 0 17 16 rfl (by decide +kernel) rfl (by decide +kernel) (by decide +kernel)
      (by decide +kernel) (by decide +kernel) (by decide +kernel)
  have := h.2.2.2.2.1 (pollsRing 17 0) 0 0 0 17 rfl (by decide +kernel) rfl (by decide +kernel) (by decide +kernel)
      (by decide +kernel) (by decide +kernel) (by decide +kernel)
  have := h.2.2.2.2.2.1 (captures true (mapped m0)) (pk0 (captures true (mapped m0))) 0 16777215 9 2 (by decide +kernel) rfl
      rfl
  have := h.2.2.2.2.2.2.1 (counting 1) 0 (counted 1) rfl (by decide +kernel) (by decide +kernel)
  have := h.2.2.2.2.2.2.1 (counting 2) 0 (counted 2) rfl (by decide +kernel) (by decide +kernel)
  have := h.2.2.2.2.2.2.2 (captures false (counting 2)) (pk0 (captures false (counting 2))) 0 16777215 9 2 (counted 2)
      (by decide +kernel) rfl rfl (by decide +kernel) (by decide +kernel)
  trivial

end W17

namespace W18

/-- Every bridge of the module with its modules up and module `m` under service, in service state `st`. -/
def bridged (st m : Nat) (e : Ev) : State :=
  happens e { m0 with bridges := Vector.replicate 8 { Bridge.raise Bridge.reset with state := st, mod := m } }

def bridgeIn (st m : Nat) : Bridge := { Bridge.raise Bridge.reset with state := st, mod := m }

/-- A flow from package 7 to this one, its first packet in one slot, and the flit that carries it. -/
def inFlow : Flow := { srcPkg := 7, srcIo := 0, dstPkg := 0, dstIo := 0, vc := 1, cls := 0 }

def sample : Packet := { src := 65536 * 8, dst := 1, vc := 1, since := 0, body := .withdraw 0 0 }

def carried : FlowPkt := { flow := inFlow, fseq := 0, rid := 0, len := 1, body := .data sample }

def flitOf (seq kind : Nat) (slots : List LinkSlot) : LinkFlit :=
  { seq := seq, ack := 4095, credits := #v[0, 0, 0, 0], kind := kind, slots := slots }

def oneSlot : LinkSlot := { vc := 1, first := some carried }

def flitComes (f : LinkFlit) (p : Nat) : State := happens { n := p, flag := true, flit := some f } (mapped m0)

def replays : State := happens { n := 5, m := 3 } { m0 with links := m0.links.set 5 { Link.reset with buffer := [(2, flitOf 2 1 []), (3, flitOf 3 1 [])] } }

def outFlowA : Flow := { srcPkg := 0, srcIo := 0, dstPkg := 7, dstIo := 0, vc := 1, cls := 0 }

def sentA (n : Nat) : FlowPkt := { carried with flow := outFlowA, fseq := n }

def flowA (resends : Nat) : FlowState := { FlowState.start outFlowA with unacked := [sentA 4, sentA 5], resends := resends }

def flowing (x : FlowState) (n now : Nat) : State :=
  { happens { n := n, flow := x.flow } m0 with
      flows := [x], now := now, routes := [(7, { w0 := BitVec.ofNat 64 (2 ^ 63 + 7 * 2 ^ 32), w1 := 0, w2 := 0, w3 := 0 })] }

def toSeven : FlowState := { flowA 8 with flow := { outFlowA with dstPkg := 7 } }

/-- Every link of the tests is idle. -/
theorem idleLink {s : State} (h : s.links = Vector.replicate 64 Link.reset) (p : Nat) : Link.reset = s.link p := by
  unfold State.link; rw [h]; by_cases hp : p < 64 <;> simp [hp]

def single : FlowState := { flowA 0 with unacked := [sentA 4] }

def owing1 : FlowState := { FlowState.start outFlowA with owed := 3, ackAt := some 2500 }

/-- Frames 0 and 1 are lent to package 7 for reads. -/
def lendE : Lend := { w0 := BitVec.ofNat 64 (2 ^ 63 + 2 ^ 56 + 7 * 2 ^ 46), w1 := 2, inUse := 3 }

def lendReq : HomeReq := { self := none, pa := 0x1FFFF, ap := 3, peer := 0, exp := 1000, ctx := 0, va := 0x10000 }

def borrow (ls : KMap Lend) (op : Nat) : State :=
  let pk : Packet := { src := 65536 * 8, dst := 4160, vc := 1, since := 0, body := .amo lendReq op true 0 0 me false none, via := some inFlow }
  { opened (mapped m0) with net := [pk], ev := {}, lends := ls }

theorem notLent : ∀ f, (pk0 (borrow [(0, lendE)] 1)).via = some f → ∀ e ∈ (borrow [(0, lendE)] 1).lends,
    e.1 / 256 = agentDie (pk0 (borrow [(0, lendE)] 1)).dst / 2 → e.2.covers (lendReq.pa / 65536) f.srcPkg 57 = false := by
  intro f hf e he _
  have : f = inFlow := (Option.some.inj hf).symm
  have : e = (0, lendE) := List.mem_singleton.1 he
  subst f; subst e; decide +kernel

def draining (n : Nat) : Lend := { w0 := 0x4000000000000000, w1 := 2, inUse := n }

def drained (n : Nat) : State := { happens { n := 0 } m0 with lends := [(0, draining n)] }

def reductionE : Reduction := { w0 := BitVec.ofNat 64 (2 ^ 63 + 3 * 2 ^ 30 + 9), w1 := 0x10000, w2 := 0 }

def reduces : State :=
  { happens { n := 9, m := 5, words := [7], bytes := List.replicate 128 1 } (mapped m0) with reductions := [(0, reductionE)] }

def course (type psn ackpsn : Nat) (pkts : List Packet) : OutPkt :=
  { src := 7, dst := 0, vc := 0, type := type, ece := false, psn := psn, ackpsn := ackpsn, nflits := 1, srcDom := 0, dstDom := 0, pkts := pkts }

def courseComes (o : OutPkt) (l : List OutFlow := []) : State := { happens { out := some o } (mapped m0) with outflows := l }

def sentO (psn : Nat) : OutPkt := { course 0 psn 0 [sample] with src := 0, dst := 7 }

def flowO (l : List OutPkt) (expiries : Nat) : OutFlow := { OutFlow.start 7 0 with unacked := l, expiries := expiries }

theorem firstNaked : ∀ (q : OutPkt) rest, (flowO [sentO 4] 3).unacked = q :: rest → q.psn = (course 2 0 4 []).ackpsn := by
  intro q rest h; cases h; rfl

def expires (x : OutFlow) : State :=
  { happens { n := 0 } m0 with
      outflows := [x], now := 125000, routes := [(7, { w0 := BitVec.ofNat 64 (2 ^ 63 + 7 * 2 ^ 32), w1 := 0, w2 := 0, w3 := 0 })] }

theorem witness_BridgesAndFlows (h : Obligations.BridgesAndFlows) : True := by
  have := h.1 (bridged 0 0 {}) 0 (bridgeIn 0 0) 0 rfl (by decide +kernel) (by decide +kernel) rfl
  have := h.1 (bridged 2 0 { n := 7, m := 9 }) 7 (bridgeIn 2 0) 9 rfl (by decide +kernel) (by decide +kernel) rfl
  have := h.1 (bridged 2 0 { n := 7, m := 10 }) 7 (bridgeIn 2 0) 10 rfl (by decide +kernel) (by decide +kernel) rfl
  have := ((h.1 (bridged 3 9 { n := 4, m := 4, k := 0 }) 4 (bridgeIn 3 9) 4 rfl (by decide +kernel) (by decide +kernel)
      rfl).2.2.2.2.2.2.1 4 0 4 ((bridgeIn 3 9).module 9) rfl (by decide +kernel) rfl (by decide +kernel) rfl rfl
      (by decide +kernel)).1 (by decide +kernel)
  have := ((h.1 (bridged 3 9 { n := 4, m := 4, k := 1 }) 4 (bridgeIn 3 9) 4 rfl (by decide +kernel) (by decide +kernel)
      rfl).2.2.2.2.2.2.1 4 1 5 ((bridgeIn 3 9).module 9) rfl (by decide +kernel) rfl (by decide +kernel) rfl rfl
      (by decide +kernel)).1 (by decide +kernel)
  have := ((h.1 (bridged 4 9 { n := 4, m := 2, k := 2 }) 4 (bridgeIn 4 9) 2 rfl (by decide +kernel) (by decide +kernel)
      rfl).2.2.2.2.2.2.1 2 2 4 ((bridgeIn 4 9).module 9) rfl (by decide +kernel) rfl (by decide +kernel) rfl rfl
      (by decide +kernel)).2 (by decide +kernel)
  have := ((h.1 (bridged 4 9 { n := 4, m := 32, k := 4 }) 4 (bridgeIn 4 9) 32 rfl (by decide +kernel) (by decide +kernel)
      rfl).2.2.2.2.2.2.1 32 4 36 ((bridgeIn 4 9).module 9) rfl (by decide +kernel) rfl (by decide +kernel) rfl rfl
      (by decide +kernel)).2 (by decide +kernel)
  have := ((h.1 (bridged 4 9 { n := 4, m := 5, k := 5 }) 4 (bridgeIn 4 9) 5 rfl (by decide +kernel) (by decide +kernel)
      rfl).2.2.2.2.2.2.1 5 5 10 ((bridgeIn 4 9).module 9) rfl (by decide +kernel) rfl (by decide +kernel) rfl rfl
      (by decide +kernel)).2 (by decide +kernel)
  have := (h.1 (bridged 0 0 { n := 4, m := 9 }) 4 (bridgeIn 0 0) 9 rfl (by decide +kernel) (by decide +kernel)
      rfl).2.2.2.2.2.2.2 ((bridgeIn 0 0).module 9) (by decide +kernel) rfl (by decide +kernel)
  have := (h.1 (bridged 0 0 { n := 4, m := 9, flag := true }) 4 (bridgeIn 0 0) 9 rfl (by decide +kernel) (by decide +kernel)
      rfl).2.2.2.2.2.2.2 ((bridgeIn 0 0).module 9) (by decide +kernel) rfl (by decide +kernel)
  have := h.2.1 (happens { n := 63 } m0) 63 Link.reset (flitOf 0 2 []) rfl (by decide +kernel) rfl (by decide +kernel) rfl
      rfl rfl rfl rfl
  have := h.2.2.1 (flitComes (flitOf 0 0 [oneSlot]) 5) 5 Link.reset (flitOf 0 0 [oneSlot]) oneSlot carried sample
      (FlowState.start inFlow) 1 rfl (by decide +kernel) rfl rfl (by decide +kernel) rfl rfl rfl rfl rfl (by decide +kernel)
      rfl (by decide +kernel) rfl rfl rfl (by decide +kernel) (everyOf (by decide +kernel)) (by decide +kernel)
      (by decide +kernel)
  have := h.2.2.2.1 (flitComes (flitOf 9 1 []) 5) 5 Link.reset (flitOf 9 1 []) rfl (by decide +kernel) rfl rfl
      (by decide +kernel) rfl (by decide +kernel) (by decide +kernel)
  have := h.2.2.2.2.1 (flitComes (flitOf 3 2 []) 5) (flitOf 3 2 []) (by decide +kernel) rfl rfl rfl
  have := h.2.2.2.2.2.1 replays 5 [(3, flitOf 3 1 [])] rfl (by decide +kernel) (by decide +kernel)
  have := (h.2.2.2.2.2.2.1 (flowing (flowA 0) 5 0) outFlowA (flowA 0) rfl (by decide +kernel) rfl).1
      (someOf (by decide +kernel))
  have := (h.2.2.2.2.2.2.1 (flowing (flowA 0) 6 0) outFlowA (flowA 0) rfl (by decide +kernel) rfl).2
      (everyOf (by decide +kernel))
  have := (h.2.2.2.2.2.2.2.1 (flowing (flowA 7) 4 0) outFlowA (flowA 7) rfl (by decide +kernel)).1 (sentA 4) [sentA 5] rfl
      rfl rfl (by decide +kernel)
  have := (h.2.2.2.2.2.2.2.1 (flowing (flowA 7) 6 0) outFlowA (flowA 7) rfl (by decide +kernel)).2
      (everyOf (by decide +kernel))
  have := (h.2.2.2.2.2.2.2.2.1 (flowing (flowA 7) 0 1250000) outFlowA (flowA 7) rfl (by decide +kernel) (by decide +kernel)
      (by decide +kernel)).1 (by decide +kernel)
  have := (h.2.2.2.2.2.2.2.2.1 (flowing toSeven 0 1250000) outFlowA toSeven rfl (by decide +kernel) (by decide +kernel)
      (by decide +kernel)).2 7 [] (by decide +kernel) (by decide +kernel)
  have := h.2.2.2.2.2.2.2.2.2.1 (flowing single 0 0) outFlowA single (sentA 4) Link.reset _ (by decide +kernel) rfl
      (idleLink rfl _) rfl (by decide +kernel) (by decide +kernel) (by decide +kernel) rfl
  have := h.2.2.2.2.2.2.2.2.2.2 (flowing owing1 0 2500) outFlowA owing1 2500 rfl (by decide +kernel) (by decide +kernel) rfl
      (by decide +kernel)
  trivial

theorem witness_LendingAndScaleOut (h : Obligations.LendingAndScaleOut) : True := by
  have := h.1.1 (borrow [(0, lendE)] 0) 0 (pk0 (borrow [(0, lendE)] 0)) inFlow lendReq 0 true 0 0 me false none 56 0 lendE
      (by decide +kernel) rfl rfl rfl (by decide +kernel) (by decide +kernel) rfl (by decide +kernel) rfl (by decide +kernel)
  have := h.1.2.1 (borrow [] 1) 0 (pk0 (borrow [] 1)) lendReq 1 true 0 0 me false none 57 (by decide +kernel) rfl rfl
      (by decide +kernel) (by decide +kernel) rfl rfl (fun _ _ _ h => by cases h)
  have := h.1.2.1 (borrow [(0, lendE)] 1) 0 (pk0 (borrow [(0, lendE)] 1)) lendReq 1 true 0 0 me false none 57
      (by decide +kernel) rfl rfl (by decide +kernel) (by decide +kernel) rfl rfl notLent
  have := h.1.2.2.2.1 (happens { n := 511, w := 0xFFFFFFFFFFFFFFFF, w2 := 0xFFFFFFFFFFFFFFFF } m0) 511 rfl
      (by decide +kernel)
  have := h.1.2.2.2.1 { happens { n := 0 } m0 with lends := [(0, lendE)] } 0 rfl (by decide +kernel)
  have := (h.1.2.2.2.2.1 (drained 0) 0 rfl (by decide +kernel)).1 (by decide +kernel)
  have := (h.1.2.2.2.2.1 (drained 1) 0 rfl (by decide +kernel)).2 (by decide +kernel)
  have := h.1.2.2.2.2.2 reduces 0 reductionE 0 0x10080 (by decide +kernel) (by decide +kernel) (by decide +kernel)
      (by decide +kernel) (by decide +kernel)
  have := h.2.1 m0 1 0 0 false 0 0 0 [] _ _ rfl rfl
  have := (h.2.2.1 (courseComes (course 0 0 0 [sample])) (course 0 0 0 [sample]) (OutFlow.start 7 0) sample 1 rfl rfl rfl
      rfl (by decide +kernel)).1 rfl rfl (by decide +kernel) (by decide +kernel) (by decide +kernel)
  have := (h.2.2.1 (courseComes (course 0 1 0 [sample])) (course 0 1 0 [sample]) (OutFlow.start 7 0) sample 1 rfl rfl rfl
      rfl (by decide +kernel)).2 (by decide +kernel)
  have := (h.2.2.1 (courseComes (course 0 4294967295 0 [sample])) (course 0 4294967295 0 [sample]) (OutFlow.start 7 0)
      sample 1 rfl rfl rfl rfl (by decide +kernel)).2 (by decide +kernel)
  have := h.2.2.2.1 (courseComes (course 1 0 0 []) [flowO [sentO 4294967295] 3]) (course 1 0 0 [])
      (flowO [sentO 4294967295] 3) (sentO 4294967295) rfl rfl rfl rfl (by decide +kernel) rfl rfl (by decide +kernel)
      (by decide +kernel)
  have := h.2.2.2.2.1 (courseComes (course 2 0 4 []) [flowO [sentO 4] 3]) (course 2 0 4 []) (flowO [sentO 4] 3) rfl rfl rfl
      rfl (by decide +kernel) rfl firstNaked (by decide +kernel) rfl (by decide +kernel) (by decide +kernel)
  have := h.2.2.2.2.2.1 (courseComes { course 0 0 0 [] with dst := 5 }) { course 0 0 0 [] with dst := 5 } rfl
      (.inl (by decide +kernel))
  have := h.2.2.2.2.2.1 (courseComes { course 0 0 0 [] with version := 2 }) { course 0 0 0 [] with version := 2 } rfl
      (.inr (by decide +kernel))
  have := (h.2.2.2.2.2.2 (expires (flowO [sentO 4] 8)) (flowO [sentO 4] 8) rfl (by decide +kernel) (by decide +kernel)).1
      (by decide +kernel)
  have := (h.2.2.2.2.2.2 (expires (flowO [sentO 4] 9)) (flowO [sentO 4] 9) rfl (by decide +kernel) (by decide +kernel)).2
      (by decide +kernel)
  trivial

end W18

namespace W19

/-- The host accesses `n` bytes at `a`: it begins, or a packet of it has come to their home. -/
def offeredTo (s : State) : State := { s with dies := s.dies.map fun x => { x with powered := true } }

def hostAt (e : Ev) : State := happens e (offeredTo (opened m0))

def piece (a n : Nat) (d : Option (List Byte)) (locked : Bool := false) : State :=
  { packetTo hostUnit (homeOf a) (.hostAccess a n d)
      ((opened m0).modHome (homeOf a) fun h => { h with locked := if locked then [(lineOf a, (0, 0))] else [] }) with ev := { k := 1 } }

def read64 : State := m0.modHome (homeOf 0x1000) fun h => { h with host := [0x40] }

/-- A ring in host memory at 0x1000 with 16 entries, and the package with it at place 3. -/
def ringD (en : Bool) (cur : Option (Vector Word 8)) : CmdRing :=
  { w0 := BitVec.ofNat 64 (2 ^ 60 + 0x1000), w1 := BitVec.ofNat 64 (16 + if en then 2 ^ 32 else 0), head := 0, cur := cur,
    busy := false, asked := none, told := none }

def ringed (x : CmdRing) (s : State := mapped m0) (w : Word := 0) : State :=
  { happens { n := 3, w := w } (offeredTo (opened s)) with rings := m0.rings.set 3 x }

def tailAt (n : Nat) : State := { ringed (ringD true none) with hostMem := (Mem.putNat [] 0x1000 8 n).putNat 0x1040 8 0x0900000000000007 }

/-- The command with opcode `opc` of context `ctx` whose words from the second on are `ws`, being run. -/
def entryOf (opc ctx : Nat) (w1 w2 : Word) : Vector Word 8 := #v[BitVec.ofNat 64 (opc * 2 ^ 56 + ctx * 2 ^ 44 + 7), w1, w2, 0, 0, 0, 0, 0]

def running (w : Vector Word 8) (s : State := mapped m0) : State := ringed (ringD true (some w)) s

def badEntry : Vector Word 8 := (entryOf 2 0 0 0).set 7 1

def launchEntry : Vector Word 8 := entryOf 1 0 0x10040 (BitVec.ofNat 64 (2 ^ 13))

def launching : State := running launchEntry (withPage 4353 (mapped { m0 with hbm := headerMem }))

def created : Created := launching.createLaunch 0 #v[0x10040, BitVec.ofNat 64 (2 ^ 13), 0, 0, 0, 0, 0, 0] 0 [] true none { core := hostUnit, uid := 3 }

def ready : Created → Bool
  | .answer 0 _ _ => true
  | _ => false

def idIn : Created → Nat
  | .answer _ id _ => id
  | _ => 0

def stateIn : Created → State
  | .answer _ _ u => u
  | _ => m0

theorem answered {x : Created} (h : ready x = true) : x = .answer 0 (idIn x) (stateIn x) := by
  unfold ready at h; split at h <;> first | rfl | cases h

/-- A launch record of the host at place 5 of die 0, in state `st`. -/
def hostRec (st : Nat) : LaunchRec :=
  { LaunchRec.fresh false 3 [] 0 none 0 2 #v[0x10040, BitVec.ofNat 64 (2 ^ 13), 1, 2, 3, 4, 0, 0] with state := st, depth := 0 }

def hostId : Nat := 3 * 2048 + 5

def holds (st : Nat) : State := (mapped m0).modDie 0 fun d => { d with pool := [(5, hostRec st)] }

def names (opc : Nat) : Vector Word 8 := entryOf opc 0 (BitVec.ofNat 64 hostId) 0

def farId : Nat := 7 * 2 ^ 36 + hostId

def farNames : Vector Word 8 := entryOf 3 0 (BitVec.ofNat 64 farId) 0

def toldRing : State := ringed { ringD true (some farNames) with busy := true, asked := some farId, told := some 5 }

/-- PSAVE or PRESUME of context 5 on vcore 1, with its area at `base`. -/
def saves (opc : Nat) (base : Word) : Vector Word 8 := entryOf opc 5 (BitVec.ofNat 64 (2 ^ 12 + 2 ^ 25)) base

def areaWord : Word := BitVec.ofNat 64 (5 + 2 ^ 12 + 2 ^ 25)

def hostOf : Who := { core := hostUnit, uid := 3 }

def fiveP : Proc := { p0 with uid := 9, vcore := 1, record := { p0.record with ctx := 5 } }

def withFive : State := putAt 1 0 fiveP (mapped m0)

def savedFive : State := (mapped m0).modCore 1 fun co => { co with saved := [{ ctx := 5, base := 0x10000, procs := [], taken := [], foreign := [], records := [], ctrs := [], tbs := [], copies := [], windows := [] }] }

def beginsSave : State := ((running (saves 5 0x10000) withFive).beginSave areaWord 0x10000 none hostOf).getD m0

def beginsResume : State := ((running (saves 6 0x10000) savedFive).beginResume areaWord 0x10000 none hostOf).getD m0

def saveEnds : State := ringed { ringD true (some (saves 5 0x10000)) with busy := true }

/-- An event queue of 1,024 records at 0x2000 of host memory. -/
def queue (w rd : Nat) : EventQueue :=
  { en := true, ap := 1, base := 0x2000, vector := 9, size := 1024, wrptr := w, rd := rd, loss := 0, poll := none, irqAt := 0 }

def evqWord (log : Nat) : Word := BitVec.ofNat 64 (2 ^ 48 + 9 * 2 ^ 32 + 2 ^ log)

def queued (q : EventQueue) (s : State) : State := { s with evqs := [(5, q)] }

/-- A record for context 5 waits, whose queue has read pointer `rd` in memory. -/
def anEvent : List Word := [1, 2, 3, 4]

def delivers (q : EventQueue) (rd : Nat) : State :=
  { happens { n := 5 } (opened m0) with events := [(0, 5, anEvent)], evqs := [(5, q)], hostMem := Mem.putNat [] 0x2010 8 rd }

def noQueue : State := { delivers (queue 0 0) 0 with evqs := [] }

def polling : EventQueue := { queue 1024 0 with poll := some 0 }

theorem witness_HostInterface (h : Obligations.HostInterface) : True := by
  have := (h.1.1 (hostAt { n := hbmSize - 64, m := 64 }) (hbmSize - 64) 64 none rfl (by decide +kernel) (by decide +kernel)
      (by decide +kernel)).2.1 (by decide +kernel) (by decide +kernel)
  have := (h.1.1 (happens {} (opened m0)) 0 0 none rfl (by decide +kernel) (by decide +kernel) (by decide +kernel)).1
      (by decide +kernel)
  have := (h.1.1 (hostAt { n := hbmSize, bytes := [7], flag := true }) hbmSize 1 (some [7]) rfl (by decide +kernel)
      (by decide +kernel) (by decide +kernel)).2.2 (by decide +kernel) (by decide +kernel)
  have := (h.1.2.1 0x103F 66 (by decide +kernel)).2
  have := (h.1.2.1 0x1000 64 (by decide +kernel)).2 (by decide +kernel)
  have := (h.1.2.2.1 (piece 0x1000 8 none) 0 (pk0 (piece 0x1000 8 none)) 0x1000 8 none rfl rfl (by decide +kernel) rfl
      (by decide +kernel)).2 (by decide +kernel)
  have := (h.1.2.2.1 (piece 0x1000 1 (some [7]) true) 0 (pk0 (piece 0x1000 1 (some [7]) true)) 0x1000 1 (some [7]) rfl rfl
      (by decide +kernel) rfl (by decide +kernel)).1 (by decide +kernel)
  have := h.1.2.2.2.2.2.1 read64 0x40 [7, 8] (by decide +kernel) (by decide +kernel) (by decide +kernel)
  have := h.1.2.2.2.2.2.2.1 (hostAt { n := 1, m := 0x40, bytes := [7] }) (by decide +kernel)
  have := h.1.2.2.2.2.2.2.2.1 (hostAt {}) rfl
  have := (h.1.2.2.2.2.2.2.2.2.1 (ringed (ringD false none) m0 (BitVec.allOnes 64)) 3 (ringD false none) rfl
      (by decide +kernel) (by decide +kernel)).2.1 (by decide +kernel) (by decide +kernel) (by decide +kernel)
  have := (h.1.2.2.2.2.2.2.2.2.1 (happens { n := 3 } m0) 3 (m0.cmdRing 3) rfl (by decide +kernel) (by decide +kernel)).1
      (by decide +kernel)
  have := (h.1.2.2.2.2.2.2.2.2.1 (ringed (ringD true none)) 3 (ringD true none) rfl (by decide +kernel)
      (by decide +kernel)).2.2 (by decide +kernel) (by decide +kernel) (by decide +kernel)
  have := (h.1.2.2.2.2.2.2.2.2.2.1 (tailAt 16) 3 (ringD true none) rfl (by decide +kernel) (by decide +kernel)
      (by decide +kernel) rfl (by decide +kernel)).1 (by decide +kernel)
  have := (h.1.2.2.2.2.2.2.2.2.2.1 (tailAt 17) 3 (ringD true none) rfl (by decide +kernel) (by decide +kernel)
      (by decide +kernel) rfl (by decide +kernel)).2 (by decide +kernel)
  have := h.1.2.2.2.2.2.2.2.2.2.2 (running (entryOf 9 0 0 0)) 3 (ringD true (some (entryOf 9 0 0 0))) (entryOf 9 0 0 0) 2 5
      (by decide +kernel) (by decide +kernel) rfl (by decide +kernel) (by decide +kernel) (by decide +kernel)
  have := h.2.1.1 (running badEntry) 3 .cmdRetire 2 badEntry (by decide +kernel) rfl (by decide +kernel) (by decide +kernel)
  have := h.2.1.2.1 launching 3 launchEntry #v[0x10040, BitVec.ofNat 64 (2 ^ 13), 0, 0, 0, 0, 0, 0] (idIn created)
      (stateIn created) rfl (by decide +kernel) (by decide +kernel) (by decide +kernel) (by decide +kernel)
      (by decide +kernel) (answered (x := created) (by decide +kernel))
  have := h.2.1.2.2.1 (running (names 2) (holds 5)) 3 (names 2) (hostRec 5) rfl (by decide +kernel) (by decide +kernel)
      (by decide +kernel) (by decide +kernel)
  have := h.2.1.2.2.1 (running (names 2) (holds 4)) 3 (names 2) (hostRec 4) rfl (by decide +kernel) (by decide +kernel)
      (by decide +kernel) (by decide +kernel)
  have := (h.2.1.2.2.2.1 (running (entryOf 3 0 0x1000000000000 0)) 3 (entryOf 3 0 0x1000000000000 0) 0x1000000000000 2 rfl
      (by decide +kernel) (by decide +kernel) (by decide +kernel) (by decide +kernel)).1 (.inl (by decide +kernel))
  have := (h.2.1.2.2.2.1 (running (names 3) (holds 1)) 3 (names 3) hostId 0 rfl (by decide +kernel) (by decide +kernel)
      (by decide +kernel) (by decide +kernel)).2.1 (by decide +kernel) (by decide +kernel) (by decide +kernel)
      (by decide +kernel)
  have := (h.2.1.2.2.2.1 (running farNames) 3 farNames farId 2 rfl (by decide +kernel) (by decide +kernel)
      (by decide +kernel) (by decide +kernel)).2.2.1 (by decide +kernel) (by decide +kernel) (by decide +kernel)
      (by decide +kernel)
  have := (h.2.1.2.2.2.1 toldRing 3 farNames farId 2 rfl (by decide +kernel) (by decide +kernel) (by decide +kernel)
      (by decide +kernel)).2.2.2 5 (by decide +kernel) (by decide +kernel) (by decide +kernel) (by decide +kernel)
      (by decide +kernel)
  have := h.2.1.2.2.2.2.1 (running (entryOf 4 9 0 0)) 3 (entryOf 4 9 0 0) rfl (by decide +kernel) (by decide +kernel)
      (by decide +kernel)
  have := (h.2.1.2.2.2.2.2.1 saveEnds 3 (saves 5 0x10000) .cmdPsave 5 areaWord (.inl ⟨rfl, rfl⟩) rfl (by decide +kernel)
      (by decide +kernel) (by decide +kernel)).1 (by decide +kernel) (everyOf (by decide +kernel))
  have := (h.2.1.2.2.2.2.2.1 (running (saves 6 0x10001)) 3 (saves 6 0x10001) .cmdPresume 6 areaWord (.inr ⟨rfl, rfl⟩) rfl
      (by decide +kernel) (by decide +kernel) (by decide +kernel)).2.1 (by decide +kernel) (by decide +kernel)
  have := (h.2.1.2.2.2.2.2.1 (running (saves 5 0x10000) withFive) 3 (saves 5 0x10000) .cmdPsave 5 areaWord (.inl ⟨rfl, rfl⟩)
      rfl (by decide +kernel) (by decide +kernel) (by decide +kernel)).2.2 beginsSave (by decide +kernel) (by decide +kernel)
      (by decide +kernel) (everyOf (by decide +kernel)) (by decide +kernel)
  have := (h.2.1.2.2.2.2.2.1 (running (saves 6 0x10000) savedFive) 3 (saves 6 0x10000) .cmdPresume 6 areaWord
      (.inr ⟨rfl, rfl⟩) rfl (by decide +kernel) (by decide +kernel) (by decide +kernel)).2.2 beginsResume (by decide +kernel)
      (by decide +kernel) (by decide +kernel) (everyOf (by decide +kernel)) (by decide +kernel)
  have := (h.2.1.2.2.2.2.2.2.1 (queued (queue 3 1) (running (entryOf 7 5 0 0))) 3 (entryOf 7 5 0 0) 5 (queue 3 1) rfl
      (by decide +kernel) (by decide +kernel) (by decide +kernel)).1 (by decide +kernel) (by decide +kernel)
  have := (h.2.1.2.2.2.2.2.2.1 (running (entryOf 7 5 0x3000000000000000 (evqWord 10))) 3
      (entryOf 7 5 0x3000000000000000 (evqWord 10)) 5 (queue 0 0) rfl (by decide +kernel) (by decide +kernel)
      (by decide +kernel)).2.1 (by decide +kernel) (.inr (by decide +kernel))
  have := (h.2.1.2.2.2.2.2.2.1 (running (entryOf 7 5 0x1000000000002000 (evqWord 10))) 3
      (entryOf 7 5 0x1000000000002000 (evqWord 10)) 5 (queue 0 0) rfl (by decide +kernel) (by decide +kernel)
      (by decide +kernel)).2.2 10 _ (by decide +kernel) (by decide +kernel) (.inl (by decide +kernel)) (by decide +kernel)
      (by decide +kernel) (by decide +kernel) (by decide +kernel) (by decide +kernel) (by decide +kernel) (by decide +kernel)
      (by decide +kernel) (by decide +kernel) (by decide +kernel) (by decide +kernel) (by decide +kernel) (by decide +kernel)
      rfl
  have := (h.2.1.2.2.2.2.2.2.1 (running (entryOf 7 5 0x1000000000002000 (evqWord 26))) 3
      (entryOf 7 5 0x1000000000002000 (evqWord 26)) 5 { queue 0 0 with size := 2 ^ 26 } rfl (by decide +kernel)
      (by decide +kernel) (by decide +kernel)).2.2 26 _ (by decide +kernel) (by decide +kernel) (.inl (by decide +kernel))
      (by decide +kernel) (by decide +kernel) (by decide +kernel) (by decide +kernel) (by decide +kernel) (by decide +kernel)
      (by decide +kernel) (by decide +kernel) (by decide +kernel) (by decide +kernel) (by decide +kernel) (by decide +kernel)
      (by decide +kernel) rfl
  have := h.2.1.2.2.2.2.2.2.2.1 (running (entryOf 8 0 0x1000000000002000 0x73000)) 3
      (entryOf 8 0 0x1000000000002000 0x73000) rfl (by decide +kernel) (by decide +kernel) (.inl (by decide +kernel))
      (by decide +kernel)
  have := h.2.1.2.2.2.2.2.2.2.2.1 m0 (everyOf (by decide +kernel))
  have := (h.2.1.2.2.2.2.2.2.2.2.2 (running (entryOf 9 0 0 0)) 3 (entryOf 9 0 0 0) rfl (by decide +kernel)).1
      (by decide +kernel) (by decide +kernel)
  have := (h.2.1.2.2.2.2.2.2.2.2.2 (running (entryOf 10 0 0 0)) 3 (entryOf 10 0 0 0) rfl (by decide +kernel)).2
      (.inr (by decide +kernel))
  have := (h.2.1.2.2.2.2.2.2.2.2.2 (running (entryOf 0 0 0 0)) 3 (entryOf 0 0 0 0) rfl (by decide +kernel)).2
      (.inl (by decide +kernel))
  have := h.2.2.1 (delivers (queue 1023 0) 0) 0 5 anEvent [] (queue 1023 0) 0 (by decide +kernel) (by decide +kernel)
      (by decide +kernel) (by decide +kernel) rfl (by decide +kernel) (by decide +kernel) (by decide +kernel)
      (by decide +kernel)
  have := h.2.2.1 (delivers (queue 7 0) 7) 0 5 anEvent [] (queue 7 0) 7 (by decide +kernel) (by decide +kernel)
      (by decide +kernel) (by decide +kernel) rfl (by decide +kernel) (by decide +kernel) (by decide +kernel)
      (by decide +kernel)
  have := h.2.2.2.1 (delivers (queue 1024 0) 0) 0 5 anEvent [] (queue 1024 0) 0 (by decide +kernel) (by decide +kernel)
      (by decide +kernel) (by decide +kernel) rfl (by decide +kernel) (by decide +kernel) (.inr (by decide +kernel))
  have := h.2.2.2.1 (delivers (queue 7 0) 8) 0 5 anEvent [] (queue 7 0) 8 (by decide +kernel) (by decide +kernel)
      (by decide +kernel) (by decide +kernel) rfl (by decide +kernel) (by decide +kernel) (.inl (by decide +kernel))
  have := h.2.2.2.2.1 noQueue 0 5 anEvent [] (by decide +kernel) (by decide +kernel) (.inl (by decide +kernel))
  have := h.2.2.2.2.2.1 { m0 with events := [(0, 5, anEvent)] } (everyOf (by decide +kernel))
  have := h.2.2.2.2.2.2 (delivers polling 1) 5 polling 1 0 rfl (by decide +kernel) rfl (by decide +kernel)
      (by decide +kernel) (by decide +kernel)
  trivial

end W19

namespace W20

/-- A process that sends header `h` with LSEND, and a raw flit with that header at core `c`. -/
def rawSender (h : Word) : Proc := { p0 with x := p0.x.set 2 h }

def rawAt (src dst : Nat) (h : Word) (s : State := mapped m0) : State := packetTo src dst (.raw h 5 me) s

def lsending : Proc := waiting (.lsend 0 2 1 4) .lsendAck

def rawAnswered : State := packetTo 1 0 (.rawAns me 2) (at0 lsending)

def heard (n : Nat) : State := (at0 p0).modCore 0 fun co => { co with rawq := List.replicate n (7, 5) }

def sigBytes : List Byte := List.replicate 2420 0

/-- The power sequence stands before step `n`, whose time has come. -/
def stepping (n : Nat) (flag : Bool) (s : State := State.reset) : State :=
  { s with power := n, powerAt := 1, now := 1 + powerDue n, ev := { flag := flag } }

def powered (s : State) : State := { s with dies := s.dies.map fun d => { d with powered := true } }

def bootBytes : List Byte := tinyHeader.toList.flatMap fun w => leBytes w.toNat 8

def booting : State :=
  { powered State.reset with hbmStacks := [0, 1], ev := { n := 0, bytes := bootBytes ++ sigBytes, image := [9, 8] ++ sigBytes } }

def reported : State := { happens { w := 0x40000, words := [1, 2, 3, 4] } m0 with dies := m0.dies.map fun d => { d with reported := true } }

/-- A write of `w` to register `n` of unit `m`. -/
def writes (n m : Nat) (w : Word) (s : State := mapped m0) : State := happens { n := n, m := m, w := w } s

def haltedOne : State := (mapped m0).modCore 1 fun co => { co with dbgctl := 3 }

def broadcast : State := happens { n := 1, m := 0, w := 9, flag := true } ((mapped m0).modCore 5 fun co => co)

def reads (n m : Nat) : State := happens { n := n, m := m, k := 1 } (mapped m0)

theorem witness_RawAgents (h : Obligations.RawAgents) : True := by
  have := (h.1.1 (at0 (rawSender 0x1000040000000000)) 0 0 (rawSender 0x1000040000000000) 0 2 1 4 0x1000040000000000
      (by decide +kernel) (by decide +kernel) (execs (by decide +kernel)) rfl).1 (.inl (by decide +kernel))
  have := (h.1.1 (at0 (rawSender 0x2000000000000000)) 0 0 (rawSender 0x2000000000000000) 0 2 1 4 0x2000000000000000
      (by decide +kernel) (by decide +kernel) (execs (by decide +kernel)) rfl).1 (.inr (.inr (.inl (by decide +kernel))))
  have := (h.1.1 (at0 (rawSender 0x3000000000004000)) 0 0 (rawSender 0x3000000000004000) 0 2 1 4 0x3000000000004000
      (by decide +kernel) (by decide +kernel) (execs (by decide +kernel)) rfl).1
      (.inr (.inr (.inr (.inr (.inr (.inr (.inl (by decide +kernel))))))))
  have := (h.1.1 (at0 (rawSender 0x1000000000000000)) 0 0 (rawSender 0x1000000000000000) 0 2 1 4 0x1000000000000000
      (by decide +kernel) (by decide +kernel) (execs (by decide +kernel)) rfl).2.1 (by decide +kernel)
      (.inl (by decide +kernel)) (by decide +kernel) (by decide +kernel) (by decide +kernel)
  have := (h.1.1 (at0 (rawSender 0x3000000000003FE0)) 0 0 (rawSender 0x3000000000003FE0) 0 2 1 4 0x3000000000003FE0
      (by decide +kernel) (by decide +kernel) (execs (by decide +kernel)) rfl).2.1 (by decide +kernel)
      (.inr (by decide +kernel)) (by decide +kernel) (by decide +kernel) (by decide +kernel)
  have := (h.1.1 (at0 (rawSender 0x500003FF00000009)) 0 0 (rawSender 0x500003FF00000009) 0 2 1 4 0x500003FF00000009
      (by decide +kernel) (by decide +kernel) (execs (by decide +kernel)) rfl).2.2 (by decide +kernel) (by decide +kernel)
      (by decide +kernel) (by decide +kernel)
  have := h.1.2.1 rawAnswered 0 (pk0 rawAnswered) me 2 0 lsending 0 2 1 4 (by decide +kernel) rfl rfl rfl
      (waits (by decide +kernel))
  have := (h.1.2.2 (at0 p0) 0 0 p0 0 2 4 (by decide +kernel) (execs (by decide +kernel))).1 rfl
  have := (h.1.2.2 (heard 2) 0 0 p0 0 2 4 (by decide +kernel) (execs (by decide +kernel))).2 7 5 [(7, 5)] rfl
  have := h.2.1 (rawAt 0 1023 0x1000000000000000) 0 (pk0 (rawAt 0 1023 0x1000000000000000)) 0x1000000000000000 5 me
      (by decide +kernel) rfl rfl (by decide +kernel)
  have := (h.2.2.1 (rawAt 5 0 0x2000000500000000 (heard 15)) 0 (pk0 (rawAt 5 0 0x2000000500000000 (heard 15)))
      0x2000000500000000 5 me (by decide +kernel) rfl rfl (by decide +kernel)).1 (by decide +kernel)
  have := (h.2.2.1 (rawAt 0 9 0x5000000900000000) 0 (pk0 (rawAt 0 9 0x5000000900000000)) 0x5000000900000000 5 me
      (by decide +kernel) rfl rfl (by decide +kernel)).2 (by decide +kernel)
  have := (h.2.2.2 (rawAt 0 1 0x3000000000003FE0) 0 (pk0 (rawAt 0 1 0x3000000000003FE0)) 0x3000000000003FE0 5 me
      (by decide +kernel) rfl rfl (by decide +kernel)).1 (by decide +kernel)
  have := (h.2.2.2 (rawAt 0 1 0x4000000000000000) 0 (pk0 (rawAt 0 1 0x4000000000000000)) 0x4000000000000000 5 me
      (by decide +kernel) rfl rfl (by decide +kernel)).2.1 (by decide +kernel) (by decide +kernel)
  have := (h.2.2.2 (rawAt 0 9 0x4000000000000000) 0 (pk0 (rawAt 0 9 0x4000000000000000)) 0x4000000000000000 5 me
      (by decide +kernel) rfl rfl (by decide +kernel)).2.2 (by decide +kernel) (by decide +kernel)
  trivial

theorem witness_PowerAndBoot (h : Obligations.PowerAndBoot) : True := by
  have := h.1 [1, 2] sigBytes (by decide +kernel)
  have := h.2.1 [1, 2] (by decide +kernel)
  have := h.2.2.1 State.reset rfl
  have := (h.2.2.2.1 (stepping 11 false) 3 (by decide +kernel) (by decide +kernel) (by decide +kernel)
      (by decide +kernel)).1 rfl
  have := (h.2.2.2.1 (stepping 2 true) 0 (by decide +kernel) (by decide +kernel) (by decide +kernel)
      (by decide +kernel)).2.1 rfl rfl
  have := (h.2.2.2.1 (stepping 3 true) 0 (by decide +kernel) (by decide +kernel) (by decide +kernel)
      (by decide +kernel)).2.2.1 rfl rfl
  have := (h.2.2.2.1 (stepping 10 true) 3 (by decide +kernel) (by decide +kernel) (by decide +kernel)
      (by decide +kernel)).2.2.2.1 rfl (by decide +kernel) (by decide +kernel)
  have := (h.2.2.2.1 (stepping 11 true (powered State.reset)) 3 (by decide +kernel) (by decide +kernel) (by decide +kernel)
      (by decide +kernel)).2.2.2.2 rfl (by decide +kernel) (by decide +kernel) (by decide +kernel)
  have := h.2.2.2.2.2.1 booting 0 tinyHeader bootBytes [9, 8] rfl (by decide +kernel) (by decide +kernel)
      (by decide +kernel) (by decide +kernel) (by decide +kernel) (by decide +kernel) (by decide +kernel) (by decide +kernel)
      (by decide +kernel) (by decide +kernel) (by decide +kernel) (by decide +kernel)
  have := h.2.2.2.2.2.2.1 reported (by decide +kernel)
  have := h.2.2.2.2.2.2.2.1 (happens { n := 3 } m0) 3 rfl (by decide +kernel) (by decide +kernel)
  have := h.2.2.2.2.2.2.2.2.1 (happens { n := 3 } m0) 3 rfl
  trivial

theorem witness_RegisterWrites (h : Obligations.RegisterWrites) : True := by
  have := (h.1 (writes 0 400 0xFFFF) 0 400 0xFFFF 0 rfl rfl rfl rfl rfl (by decide +kernel)).1 (by decide +kernel)
  have := ((h.1 (writes 0 4 0xFFFF) 0 4 0xFFFF 1 rfl rfl rfl rfl rfl (by decide +kernel)).2 (by decide +kernel)).1 rfl
  have := ((h.1 (writes 1 4 77) 1 4 77 1 rfl rfl rfl rfl rfl (by decide +kernel)).2 (by decide +kernel)).2.1 rfl
  have := ((h.1 (writes 2 4 (BitVec.allOnes 64)) 2 4 (BitVec.allOnes 64) 1 rfl rfl rfl rfl rfl (by decide +kernel)).2
      (by decide +kernel)).2.2.1 rfl
  have := ((h.1 (writes 3 4 0x2FF5) 3 4 0x2FF5 1 rfl rfl rfl rfl rfl (by decide +kernel)).2 (by decide +kernel)).2.2.2.1 rfl
      (by decide +kernel) (by decide +kernel) (by decide +kernel)
  have := ((h.1 (writes 3 4 0x1000) 3 4 0x1000 1 rfl rfl rfl rfl rfl (by decide +kernel)).2 (by decide +kernel)).2.2.2.2.1
      rfl (by decide +kernel) (by decide +kernel)
  have := ((h.1 (writes 3 4 0 haltedOne) 3 4 0 1 rfl rfl rfl rfl rfl (by decide +kernel)).2 (by decide +kernel)).2.2.2.2.2.1
      rfl (by decide +kernel)
  have := ((h.1 (writes 4 7 0x40) 4 7 0x40 1 rfl rfl rfl rfl rfl (by decide +kernel)).2 (by decide +kernel)).2.2.2.2.2.2.1
      rfl
  have := ((h.1 (writes 5 4 0x40) 5 4 0x40 1 rfl rfl rfl rfl rfl (by decide +kernel)).2 (by decide +kernel)).2.2.2.2.2.2.2.1
      rfl
  have := ((h.1 (writes 6 4 0x8000000000000000) 6 4 0x8000000000000000 1 rfl rfl rfl rfl rfl (by decide +kernel)).2
      (by decide +kernel)).2.2.2.2.2.2.2.2 rfl
  have := ((h.1 (writes 6 4 0) 6 4 0 1 rfl rfl rfl rfl rfl (by decide +kernel)).2 (by decide +kernel)).2.2.2.2.2.2.2.2 rfl
  have := h.2.1 broadcast _ rfl rfl (by decide +kernel) rfl
  have := (h.2.2.1 (writes 7 4095 1) 7 4095 1 rfl rfl rfl rfl).1 rfl (by decide +kernel) (by decide +kernel)
  have := (h.2.2.1 (writes 7 4095 0) 7 4095 0 rfl rfl rfl rfl).2.1 rfl (by decide +kernel) (by decide +kernel)
  have := (h.2.2.1 (writes 8 4092 (BitVec.allOnes 64)) 8 4092 (BitVec.allOnes 64) rfl rfl rfl rfl).2.2.1 rfl
      (by decide +kernel)
  have := (h.2.2.1 (writes 8 4093 (BitVec.allOnes 64)) 8 4093 (BitVec.allOnes 64) rfl rfl rfl rfl).2.2.1 rfl
      (by decide +kernel)
  have := (h.2.2.1 (writes 8 4094 (BitVec.allOnes 64)) 8 4094 (BitVec.allOnes 64) rfl rfl rfl rfl).2.2.1 rfl
      (by decide +kernel)
  have := (h.2.2.1 (writes 8 4095 (BitVec.allOnes 64)) 8 4095 (BitVec.allOnes 64) rfl rfl rfl rfl).2.2.1 rfl
      (by decide +kernel)
  have := (h.2.2.1 (writes 9 2044 (BitVec.allOnes 64)) 9 2044 (BitVec.allOnes 64) rfl rfl rfl rfl).2.2.2.1 rfl
      (by decide +kernel)
  have := (h.2.2.1 (writes 9 2045 (BitVec.allOnes 64)) 9 2045 (BitVec.allOnes 64) rfl rfl rfl rfl).2.2.2.1 rfl
      (by decide +kernel)
  have := (h.2.2.1 (writes 9 2046 (BitVec.allOnes 64)) 9 2046 (BitVec.allOnes 64) rfl rfl rfl rfl).2.2.2.1 rfl
      (by decide +kernel)
  have := (h.2.2.1 (writes 9 2047 (BitVec.allOnes 64)) 9 2047 (BitVec.allOnes 64) rfl rfl rfl rfl).2.2.2.1 rfl
      (by decide +kernel)
  have := (h.2.2.1 (writes 10 0 0x40000) 10 0 0x40000 rfl rfl rfl rfl).2.2.2.2.1 rfl
  have := (h.2.2.1 (writes 11 3 0x40000) 11 3 0x40000 rfl rfl rfl rfl).2.2.2.2.2.1 rfl
  have := (h.2.2.1 (writes 12 1800 1) 12 1800 1 rfl rfl rfl rfl).2.2.2.2.2.2.1 7 rfl (by decide +kernel) (by decide +kernel)
      (by decide +kernel)
  have := (h.2.2.1 (writes 12 1792 0x10000000000) 12 1792 0x10000000000 rfl rfl rfl rfl).2.2.2.2.2.2.2.1 7 rfl
      (by decide +kernel) (by decide +kernel)
  have := (h.2.2.1 (writes 13 (2 ^ 18 * 1 + 0x2FFFF) 0x1FF) 13 (2 ^ 18 * 1 + 0x2FFFF) 0x1FF rfl rfl rfl
      rfl).2.2.2.2.2.2.2.2.1 1 0x2FFFF rfl (by decide +kernel) (by decide +kernel) (by decide +kernel) (by decide +kernel)
  have := (h.2.2.1 (writes 14 (2 ^ 18 * 1 + 0x3FFF) 0x1FF) 14 (2 ^ 18 * 1 + 0x3FFF) 0x1FF rfl rfl rfl
      rfl).2.2.2.2.2.2.2.2.2.1 1 0x3FFF rfl (by decide +kernel) (by decide +kernel) (by decide +kernel) (by decide +kernel)
  have := (h.2.2.1 (writes 15 60 (BitVec.allOnes 64)) 15 60 (BitVec.allOnes 64) rfl rfl rfl rfl).2.2.2.2.2.2.2.2.2.2.1 rfl
      (by decide +kernel) (by decide +kernel)
  have := (h.2.2.1 (happens { n := 19, m := 3, w := 0x40000000007, flag := true } m0) 19 3 0x40000000007 rfl rfl rfl
      rfl).2.2.2.2.2.2.2.2.2.2.2.1 rfl (by decide +kernel) (by decide +kernel) (by decide +kernel)
  have := (h.2.2.1 (writes 19 3 0) 19 3 0 rfl rfl rfl rfl).2.2.2.2.2.2.2.2.2.2.2.2 rfl (by decide +kernel)
  have := h.2.2.2 (reads 0 4) 0 4 rfl rfl rfl
  have := h.2.2.2 (reads 1 4) 1 4 rfl rfl rfl
  have := h.2.2.2 (reads 2 4) 2 4 rfl rfl rfl
  have := h.2.2.2 (reads 3 4) 3 4 rfl rfl rfl
  have := h.2.2.2 (reads 4 7) 4 7 rfl rfl rfl
  have := h.2.2.2 (reads 5 4) 5 4 rfl rfl rfl
  have := h.2.2.2 (reads 6 4) 6 4 rfl rfl rfl
  have := h.2.2.2 (reads 3 400) 3 400 rfl rfl rfl
  have := h.2.2.2 (reads 7 1) 7 1 rfl rfl rfl
  have := h.2.2.2 (reads 8 4) 8 4 rfl rfl rfl
  have := h.2.2.2 (reads 9 3) 9 3 rfl rfl rfl
  have := h.2.2.2 (reads 10 0) 10 0 rfl rfl rfl
  have := h.2.2.2 (reads 15 2) 15 2 rfl rfl rfl
  have := h.2.2.2 (reads 17 2048) 17 2048 rfl rfl rfl
  have := h.2.2.2 (reads 18 4) 18 4 rfl rfl rfl
  trivial

end W20

namespace W21

/-- The package right after reset with `w` at the pc of slot 0, which alone may issue. -/
def fetching (w : Nat) : State := State.reset.withFetchWord 32 w

def unmapped : State := (fetching 0).modCore 0 fun co => { co with boot := false }

def fetched (s : State) : Fetched := (s.noteIssue 0 0).fetchAt 0 0 p0 fetchInstr p0.pc 1

def isCode : Fetched → Bool
  | .code _ _ => true
  | _ => false

def isStop : Fetched → Bool
  | .stop _ => true
  | _ => false

def bytesIn : Fetched → List Byte
  | .code bs _ => bs
  | _ => []

def stateIn : Fetched → State
  | .code _ u => u
  | .stop u => u

theorem coded {x : Fetched} (h : isCode x = true) : x = .code (bytesIn x) (stateIn x) := by
  cases x <;> first | rfl | cases h

theorem stopped {x : Fetched} (h : isStop x = true) : x = .stop (stateIn x) := by
  cases x <;> first | rfl | cases h

def goesOn : Out → Bool
  | .next _ => true
  | _ => false

def after : Out → State
  | .next t => t
  | _ => m0

theorem stepped {x : Out} (h : goesOn x = true) : x = .next (after x) := by
  cases x <;> first | rfl | cases h

theorem decodes {bs : List Byte} {i : Instr} {n : Nat} (h : (decode bs).toOption = some (i, n)) : decode bs = .ok (i, n) := by
  cases e : decode bs <;> simp_all [Except.toOption]

def errorIn : Except DecodeError (Instr × Nat) → Option DecodeError
  | .error e => some e
  | .ok _ => none

theorem decodesNot {bs : List Byte} {e : DecodeError} (h : errorIn (decode bs) = some e) : decode bs = .error e := by
  cases x : decode bs <;> simp_all [errorIn]

theorem coresWf {s : State} (h : s.cores.all (fun e => e.2.spad.wf && e.2.bootMem.wf) = true) : s.coreMemoryWf := by
  intro c
  unfold State.core
  generalize s.cores = l at h
  induction l with
  | nil => exact ⟨rfl, rfl⟩
  | cons e l ih =>
    simp only [List.all_cons, Bool.and_eq_true] at h
    unfold kget
    split
    · exact ⟨h.1.1, h.1.2⟩
    · exact ih (by simpa using h.2)

def watchdog : State := State.reset.modCore 1 fun co => { co with wdCount := 16777216 }

theorem witness_StepRunsDecoded (h : Obligations.StepRunsDecoded) : True := by
  have := h.1 (fetching 0x00062203) (fetching 0x00062203) (stateIn (fetched (fetching 0x00062203))) 0 0 p0
      (bytesIn (fetched (fetching 0x00062203))) (.add 0 3 2 4) 4 (Chooses.only _ (by decide +kernel)) (by decide +kernel)
      (coded (x := fetched (fetching 0x00062203)) (by decide +kernel)) (decodes (by decide +kernel))
  have := h.2.1 (fetching 0) (fetching 0) (stateIn (fetched (fetching 0))) 0 0 p0 (bytesIn (fetched (fetching 0)))
      (.reservedCompact 0) (Chooses.only _ (by decide +kernel)) (by decide +kernel)
      (coded (x := fetched (fetching 0)) (by decide +kernel)) (decodesNot (by decide +kernel))
  have := h.2.2.1 unmapped unmapped (stateIn (fetched unmapped)) 0 0 p0 (Chooses.only _ (by decide +kernel))
      (by decide +kernel) (stopped (x := fetched unmapped) (by decide +kernel))
  have := h.2.2.2.1 watchdog watchdog .coreWatchdog { c := 1 } (Chooses.only _ (by decide +kernel))
  have := h.2.2.2.2.1 { m0 with inbox := [(.eccCorrectable, {})] } .eccCorrectable {} [] rfl rfl
  have := h.2.2.2.2.2.2 State.reset State.reset (Chooses.only _ (by decide +kernel))
  trivial

theorem witness_DecodeOfEncode (h : Obligations.DecodeOfEncode) : True := by
  have := h (.add 0 3 2 4) 32 0x00062203 (by decide +kernel) (by decide +kernel)
  trivial

theorem witness_PackageMemoryInvariant (h : Obligations.PackageMemoryInvariant) : True := by
  have := h (fetching 0x00062203) (after (step (fetching 0x00062203)))
      ⟨by decide +kernel, by decide +kernel, by decide +kernel⟩
      (stepped (x := step (fetching 0x00062203)) (by decide +kernel))
  trivial

theorem witness_CoreMemoryInvariant (h : Obligations.CoreMemoryInvariant) : True := by
  have := h (fetching 0x00062203) (after (step (fetching 0x00062203))) (coresWf (by decide +kernel))
      (stepped (x := step (fetching 0x00062203)) (by decide +kernel))
  trivial

end W21

end Sys2Proof.Tests
end

section
/-! PROOFS of the family of instruction words: what the checks at decode and a false guard leave of an instruction (O12). -/

namespace Sys2Proof.Machine

/-! ### The checks at decode (R27, R30, R32) -/

/-- A form that this agent does not have raises ILLEGAL, whatever its guard. -/
theorem instr_illegal {s : State} {c k : Nat} {p : Proc} (h : Issuing s c k p) (i : Instr) (check : Nat → Proc → Check)
    (body : State → Nat → Nat → Proc → Act) (legal : (check c p).legal = false) :
    instr i s check body = .next (s.trapEntry c k p 1 (instrWord i)) := by
  simp [instr, h.cur, h.proc, legal]

/-- A privileged form in an unprivileged process raises PRIV, whatever its guard. -/
theorem instr_unprivileged {s : State} {c k : Nat} {p : Proc} (h : Issuing s c k p) (i : Instr) (check : Nat → Proc → Check)
    (body : State → Nat → Nat → Proc → Act) (legal : (check c p).legal = true) (priv : (check c p).priv = true)
    (unpriv : p.priv = false) : instr i s check body = .next (s.trapEntry c k p 6 (instrWord i)) := by
  simp [instr, h.cur, h.proc, legal, priv, unpriv]

/-- A free choice changes at most the count of the choices made (log entry 2). -/
theorem State.choose_snd (s : State) (n : Nat) : (s.choose n).2 = s ∨ (s.choose n).2 = { s with tick := s.tick + 1 } := by
  unfold State.choose
  split
  · exact .inl rfl
  · exact .inr rfl

/-- An operand beyond the header's bounds raises RESOURCE, whatever the guard; TVAL names one such operand. -/
theorem instr_offending {s : State} {c k : Nat} {p : Proc} (h : Issuing s c k p) (i : Instr) (check : Nat → Proc → Check)
    (body : State → Nat → Nat → Proc → Act) (legal : (check c p).legal = true)
    (priv : (check c p).priv = true → p.priv = true) (uses : ¬p.Holds (check c p).uses) :
    ∃ u ∈ p.offending (check c p).uses, ∃ t, (t = s ∨ t = { s with tick := s.tick + 1 }) ∧
      instr i s check body = .next (t.trapEntry c k p 2 (BitVec.ofNat 64 (u.1 * 256 + u.2))) := by
  have hp : ¬((check c p).priv && !p.priv) = true := by
    cases hc : (check c p).priv <;> simp_all
  cases ho : p.offending (check c p).uses with
  | nil => exact absurd ho uses
  | cons u us =>
    refine ⟨((u :: us)[(s.choose (us.length + 1)).1]?).getD u, ?_, (s.choose (us.length + 1)).2, s.choose_snd _, ?_⟩
    · cases hn : (u :: us)[(s.choose (us.length + 1)).1]? with
      | none => exact List.mem_cons_self
      | some w => exact List.mem_of_getElem? hn
    · simp only [instr, h.cur, h.proc, legal, Bool.not_true, Bool.false_eq_true, if_false, hp, ho]

/-- Under a false guard an instruction only retires, or it traps with a cause that is decided at decode (R30, R40). -/
theorem instr_guardFalse {s : State} {c k : Nat} {p : Proc} (h : Issuing s c k p) (i : Instr) (check : Nat → Proc → Check)
    (body : State → Nat → Nat → Proc → Act) (guard : (check c p).guard = false) :
    instr i s check body = .next (s.retireAt c k i) ∨
    ∃ t cause v, cause ∈ [1, 6, 2] ∧ instr i s check body = .next (t.trapEntry c k p cause v) ∧
      (t = s ∨ t = { s with tick := s.tick + 1 }) := by
  by_cases legal : (check c p).legal = true
  · by_cases priv : (check c p).priv = true → p.priv = true
    · by_cases uses : p.Holds (check c p).uses
      · exact .inl (instr_idle h i check body legal priv uses guard)
      · obtain ⟨u, -, t, ht, hx⟩ := instr_offending h i check body legal priv uses
        exact .inr ⟨t, 2, _, by simp, hx, ht⟩
    · obtain ⟨hc, hp⟩ := Classical.not_imp.mp priv
      exact .inr ⟨s, 6, _, by simp, instr_unprivileged h i check body legal hc (by simpa using hp), .inl rfl⟩
  · exact .inr ⟨s, 1, _, by simp, instr_illegal h i check body (by simpa using legal), .inl rfl⟩

/-- A retirement keeps every register. -/
theorem Proc.keeps_retire (p : Proc) (now : Nat) (i : Instr) (pc : Word) : p.Keeps (p.retire now i pc) [] := by
  constructor <;> simp

/-! ### The guard that each form reads (R39, R41) -/

/-- Outcome `o` is that of an `instr` whose check reads guard `v`. -/
def Checked (i : Instr) (s : State) (p : Proc) (v : Bool) (o : Out) : Prop :=
  ∃ check body, o = instr i s check body ∧ ∀ c, (check c p).guard = v

section
variable {i : Instr} {s : State} {p : Proc} {v : Bool}

theorem instr_checked {check : Nat → Proc → Check} {body : State → Nat → Nat → Proc → Act}
    (hg : ∀ c, (check c p).guard = v) : Checked i s p v (instr i s check body) :=
  ⟨check, body, rfl, hg⟩

theorem regInstr_checked {u g f} (hg : g p = v) : Checked i s p v (regInstr i s u g f) :=
  instr_checked fun _ => hg

theorem binOp_checked {g b a d f} (hg : p.guardBit g 0 = v) : Checked i s p v (binOp i g b a d f s) :=
  regInstr_checked hg

theorem unOp_checked {g a d f} (hg : p.guardBit g 0 = v) : Checked i s p v (unOp i g a d f s) :=
  regInstr_checked hg

theorem immOp_checked {g e k a d f} (hg : p.guardBit g 0 = v) : Checked i s p v (immOp i g e k a d f s) :=
  regInstr_checked hg

theorem predOp_checked {g b a d f} (hg : p.guardBit g 0 = v) : Checked i s p v (predOp i g b a d f s) :=
  regInstr_checked hg

theorem eOp_checked {g u e f} (hg : p.guardBit g 0 = v) : Checked i s p v (eOp i g u e f s) :=
  regInstr_checked hg

theorem vecOp_checked {g w u d f} (hg : p.anyActive g w = v) : Checked i s p v (vecOp i g w u d f s) :=
  regInstr_checked hg

theorem fpBin_checked {g t b a d f} (hg : p.anyActive g (ftFmt t.toNat).width = v) :
    Checked i s p v (fpBin i g t b a d f s) :=
  vecOp_checked hg

theorem fpUn_checked {g t a d f} (hg : p.anyActive g (ftFmt t.toNat).width = v) :
    Checked i s p v (fpUn i g t a d f s) :=
  vecOp_checked hg

theorem intBin_checked {g w b a d f} (hg : p.anyActive g (wBits w.toNat) = v) :
    Checked i s p v (intBin i g w b a d f s) :=
  vecOp_checked hg

theorem goTo_checked {u g l t} (hg : g p = v) : Checked i s p v (goTo i s u g l t) :=
  instr_checked fun _ => hg

theorem divIssue_checked {g b a d} (hg : p.guardBit g 0 = v) : Checked i s p v (divIssue i g b a d s) :=
  instr_checked fun _ => hg

theorem granuleInstr_checked {g k a u load writes rel clr access f} (hg : p.guardBit g 0 = v) :
    Checked i s p v (granuleInstr i g k a u load writes rel clr access f s) :=
  instr_checked fun _ => hg

theorem amoInstr_checked {g m} (hg : p.guardBit g 0 = v) : Checked i s p v (amoInstr i g m s) :=
  instr_checked fun _ => hg

theorem fenceWait_checked {g sc} (hg : p.guardBit g 0 = v) : Checked i s p v (fenceWait i g sc s) :=
  instr_checked fun _ => hg

theorem ringInstr_checked {g q u f} (hg : p.guardBit g 0 = v) : Checked i s p v (ringInstr i g q u f s) :=
  instr_checked fun _ => hg

theorem tileInstr_checked {g u} (hg : p.guardBit g 0 = v) : Checked i s p v (tileInstr i g u s) :=
  instr_checked fun _ => hg

theorem portInstr_checked {g n u f} (hg : p.guardBit g 0 = v) : Checked i s p v (portInstr i g n u f s) :=
  instr_checked fun _ => hg

theorem sendInstr_checked {g n u t f} (hg : p.guardBit g 0 = v) : Checked i s p v (sendInstr i g n u t f s) :=
  portInstr_checked hg

theorem recvInstr_checked {g n u t f} (hg : p.guardBit g 0 = v) : Checked i s p v (recvInstr i g n u t f s) :=
  portInstr_checked hg

theorem blockInstr_checked {g u a f} (hg : p.guardBit g 0 = v) : Checked i s p v (blockInstr i g u a f s) :=
  instr_checked fun _ => hg

theorem memInstr_checked {g u} (hg : p.guardBit g 0 = v) : Checked i s p v (memInstr i g u s) :=
  instr_checked fun _ => hg

theorem vecTimed_checked {u g n} (hg : g p = v) : Checked i s p v (vecTimed i u g n s) :=
  instr_checked fun _ => hg

theorem vecDivide_checked {u g t} (hg : p.anyActive g (ftFmt t.toNat).width = v) :
    Checked i s p v (vecDivide i u g t s) :=
  instr_checked fun _ => hg

theorem seedForm_checked {g t a d} (hg : p.anyActive g (ftFmt t.toNat).width = v) :
    Checked i s p v (seedForm i g t a d s) :=
  vecTimed_checked hg

theorem reduceForm_checked {g t u} (hg : p.anyActive g (tcBits t.toNat) = v) : Checked i s p v (reduceForm i g t u s) :=
  vecTimed_checked hg

theorem gatherInstr_checked {g w b a d load access f} (hg : p.anyActive g (wBits w.toNat) = v) :
    Checked i s p v (gatherInstr i g w b a d load access f s) := by
  unfold gatherInstr
  exact instr_checked fun _ => hg

end

/-- Every instruction that has a guard is checked with that guard, and its length is that of R36. The forms are grouped by the
shared operation they are made of; those whose definition begins with a `let` are opened by name. -/
theorem exec_checked {p : Proc} {i : Instr} {v : Bool} (h : guardOf p i = some v) (s : State) :
    Checked i s p v (exec i s) ∧ instrLen i = size i := by
  unfold exec
  cases i with
  | add | sub | mul | mulh | and | or | xor | shl | shr | sha | rotl | min | max | bfx =>
    exact ⟨binOp_checked (Option.some.inj h), rfl⟩
  | div | rem => exact ⟨divIssue_checked (Option.some.inj h), rfl⟩
  | addi | andi | ori | xori => exact ⟨immOp_checked (Option.some.inj h), rfl⟩
  | shli | shri | shai | rotli | clz | ctz | popc | ext | mov => exact ⟨unOp_checked (Option.some.inj h), rfl⟩
  | bfi | li | lih | cmp | cmpi | pmovx | pmovp | prio => exact ⟨regInstr_checked (Option.some.inj h), rfl⟩
  | vcmp | vcvt | vget | vins =>
    dsimp only [execVcmp, execVcvt, execVget, execVins]
    exact ⟨regInstr_checked (Option.some.inj h), rfl⟩
  | movToY | movFromY | trap | bkpt | tret | srd | swr | evt | iflush | fencecFence | fencecAbandon | cmapw
  | preemptSave | preemptResume | capstart | capstop | trcmark | lsend | lrecv | st | gstate | fenceAcq | tscl | slab
  | quit | commit | yield | cstat | proof | pverd | hdrain | tlbp | stv | vsort =>
    exact ⟨instr_checked fun _ => Option.some.inj h, rfl⟩
  | ld | spawn | alt | launch | lwait | lcancel | ldep | graphOpen | graphClose | jcancel | nextt | gsendScalar
  | gsendVector | grecvScalar | grecvVector | copy | copya | ctradd | ctrset | tbexp | tbarr | ldv | vlut =>
    dsimp only [execLd, execSpawn, execAlt, execLaunch, execLwait, execLcancel, execLdep, execGraphOpen,
      execGraphClose, execJcancel, execNextt, execGsendScalar, execGsendVector, execGrecvScalar, execGrecvVector,
      execCopy, execCopya, execCtradd, execCtrset, execTbexp, execTbarr, execLdv, execVlut]
    exact ⟨instr_checked fun _ => Option.some.inj h, rfl⟩
  | pand | por | pxor | pnot => exact ⟨predOp_checked (Option.some.inj h), rfl⟩
  | j | jal | jr | jalr | br | cBr => exact ⟨goTo_checked (Option.some.inj h), rfl⟩
  | exti | extx | extg | extl | exts => exact ⟨eOp_checked (Option.some.inj h), rfl⟩
  | sete | setf => exact ⟨granuleInstr_checked (Option.some.inj h), rfl⟩
  | ldf | stf =>
    dsimp only [execLdf, execStf]
    exact ⟨granuleInstr_checked (Option.some.inj h), rfl⟩
  | amoLoad | amoStore | amoSwap | cas | amoAdd | amoAnd | amoOr | amoXor | amoMinSigned | amoMaxSigned | amoMinUnsigned
  | amoMaxUnsigned | amoFadd | amoFmin | amoFmax => exact ⟨amoInstr_checked (Option.some.inj h), rfl⟩
  | fenceRel | fenceAr => exact ⟨fenceWait_checked (Option.some.inj h), rfl⟩
  | rinit | radvHead | radvTail | rwaitHead | rwaitTail | rstat => exact ⟨ringInstr_checked (Option.some.inj h), rfl⟩
  | tmma | tmmx | tzero | tloada | tstore | ttrn => exact ⟨tileInstr_checked (Option.some.inj h), rfl⟩
  | chstat | dstat => exact ⟨portInstr_checked (Option.some.inj h), rfl⟩
  | chopen | chbind | chclose | wrel | sendv | sendt | recvt | dsend =>
    dsimp only [execChopen, execChbind, execChclose, execWrel, execSendv, execSendt, execRecvt, execDsend]
    exact ⟨portInstr_checked (Option.some.inj h), rfl⟩
  | send => exact ⟨sendInstr_checked (Option.some.inj h), rfl⟩
  | recv | recvv => exact ⟨recvInstr_checked (Option.some.inj h), rfl⟩
  | gcfg | gcfgPort =>
    dsimp only [execGcfg, execGcfgPort]
    exact ⟨blockInstr_checked (Option.some.inj h), rfl⟩
  | hload | hstore | hpush => exact ⟨memInstr_checked (Option.some.inj h), rfl⟩
  | vmxq | vmxd => exact ⟨vecTimed_checked (Option.some.inj h), rfl⟩
  | vadd | vsub | vmul | vfma | vfms | vfnma | vmin | vmax => exact ⟨fpBin_checked (Option.some.inj h), rfl⟩
  | vdiv | vsqrt => exact ⟨vecDivide_checked (Option.some.inj h), rfl⟩
  | vneg | vabs | vrint => exact ⟨fpUn_checked (Option.some.inj h), rfl⟩
  | vrcpa | vrsqa | vexpa | vloga => exact ⟨seedForm_checked (Option.some.inj h), rfl⟩
  | ldvx | stvx => exact ⟨gatherInstr_checked (Option.some.inj h), rfl⟩
  | viadd | visub | vimul | viminI | viminN | vimaxI | vimaxN | viaddsI | viaddsN | vand | vor | vxor | vshl | vshrN
  | vshrI => exact ⟨intBin_checked (Option.some.inj h), rfl⟩
  | vdup | viota | vperm =>
    dsimp only [execVdup, execViota, execVperm]
    exact ⟨vecOp_checked (Option.some.inj h), rfl⟩
  | vreds | vredm | vdot | vscan => exact ⟨reduceForm_checked (Option.some.inj h), rfl⟩
  | _ => exact absurd h.symm (Option.some_ne_none v)

/-- Settles O12: every guarded form is an `instr` that reads its guard (`exec_checked`), and under a false guard such an
instruction retires, which keeps every register and counts in RETIRED, unless one of the checks at decode traps. -/
theorem falseGuardOnlyRetires : Obligations.FalseGuardOnlyRetires := by
  unfold Obligations.FalseGuardOnlyRetires
  intro s c k p i h hg
  obtain ⟨⟨check, body, hx, hv⟩, hlen⟩ := exec_checked hg s
  have hk := State.proc_slot_lt h.proc
  rw [hx]
  rcases instr_guardFalse h i check body (hv c) with retires | traps
  · rw [State.retireAt_eq h.proc, hlen] at retires
    exact .inl ⟨_, retires, rfl, State.retireTo_frame s c k p p i _ [] hk (p.keeps_retire s.now i _),
      _, State.proc_retireTo s c k p i _ hk, rfl⟩
  · exact .inr traps

end Sys2Proof.Machine
end

section
/-! PROOFS of the family of scalar instructions: the extension registers (O9) and the y-registers (O16). -/

namespace Sys2Proof.Machine

/-! ### Extension registers (R105) -/

/-- What one EXTI.cat does to a word's arithmetic shift: it appends the sixteen bits that come next. -/
theorem sshiftRight_append_extract (w : Word) (l : Nat) (h : l + 16 ≤ 64) :
    (w.sshiftRight (l + 16) <<< 16) ||| (w.extractLsb' l 16).zeroExtend 64 = w.sshiftRight l := by
  ext i hi
  by_cases low : i < 16
  · have inside : l + i < 64 := by omega
    simp [BitVec.getElem_sshiftRight, low, inside]
  · have at_i : l + 16 + (i - 16) = l + i := by omega
    simp [BitVec.getElem_sshiftRight, low, at_i]

/-- What one EXTI loads of a word's uppermost sixteen bits. -/
theorem signExtend_extract_top (w : Word) : (w.extractLsb' 48 16).signExtend 64 = w.sshiftRight 48 := by
  ext i hi
  by_cases low : i < 16
  · have inside : 48 + i < 64 := by omega
    simp [BitVec.getElem_signExtend, BitVec.getElem_sshiftRight, low, inside]
  · have beyond : ¬48 + i < 64 := by omega
    simp [BitVec.getElem_signExtend, BitVec.getElem_sshiftRight, BitVec.msb_eq_getLsbD_last, low, beyond]

/-- An instruction that writes an e-register retires with it. -/
theorem eOp_run {s : State} {c k : Nat} {p : Proc} {g : BitVec 4} {us : List Use}
    (h : Executes s c k p us (p.guardBit g 0)) (i : Instr) (e : BitVec 3) (f : Proc → Word) :
    eOp i g us e f s = .next (s.retireTo c k (p.setE e (f p)) i (p.pc + instrLen i)) :=
  regInstr_run h.toIssuing i us _ _ h.holds h.true

/-- Settles O9: each form is an `eOp` (`eOp_run`); EXTI takes the uppermost sixteen bits of the word, and each EXTI.cat moves
the word's arithmetic shift sixteen bits to the left and appends the sixteen that come next. -/
theorem extiBuildsWords : Obligations.ExtiBuildsWords := by
  unfold Obligations.ExtiBuildsWords
  refine ⟨fun s c k p g n e h => ⟨eOp_run h _ e _, eOp_run h _ e _⟩, fun w => ?_⟩
  refine ⟨w.extractLsb' 48 16, w.extractLsb' 32 16, w.extractLsb' 16 16, w.extractLsb' 0 16, ?_⟩
  rw [signExtend_extract_top, sshiftRight_append_extract w 32 (by decide), sshiftRight_append_extract w 16 (by decide),
    sshiftRight_append_extract w 0 (by decide), BitVec.sshiftRight_zero]

/-! ### The y-registers (R96 to R98) -/

/-- A change of the core's other fields keeps the process in every slot. -/
theorem State.proc_modCore (s : State) (c k : Nat) (f : Core → Core) (h : (f (s.core c)).slots = (s.core c).slots) :
    (s.modCore c f).proc c k = s.proc c k := by
  simp [State.proc, State.slot, State.modCore, Core.slot, h]

/-- What process `p` reads of a y-register with this value and owner (R97). -/
def Proc.ownedValue (p : Proc) (v : Word) (owner : Option (BitVec 12)) : Word := if owner = some p.ctx then v else 0

/-- What process `p` reads in y-register `a` of a core. -/
def Core.yFresh (co : Core) (p : Proc) (a : BitVec 3) : Word := p.ownedValue co.y[a.toNat] co.yOwner[a.toNat]

/-- What process `p` would read had the last write of y-register `a` not been made. -/
def Core.yStale (co : Core) (p : Proc) (a : BitVec 3) : Word := p.ownedValue co.yOld[a.toNat].1 co.yOld[a.toNat].2.1

/-- The core after context `ctx` has written `v` to y-register `d` in cycle `now`. -/
def Core.writeY (co : Core) (now : Nat) (ctx : BitVec 12) (d : BitVec 3) (v : Word) : Core :=
  { co with y := co.y.set d.toNat v, yOwner := co.yOwner.set d.toNat (some ctx),
            yOld := co.yOld.set d.toNat (co.y[d.toNat], co.yOwner[d.toNat], now) }

/-- A MOV to a y-register retires in the core that it has written. -/
theorem exec_movToY {s : State} {c k : Nat} {p : Proc} {g : BitVec 4} {a : BitVec 5}
    (h : Executes s c k p [ux a] (p.guardBit g 0)) (d : BitVec 3) :
    exec (.movToY g a d) s =
      .next ((s.modCore c (·.writeY s.now p.ctx d (p.xr a))).retireTo c k p (.movToY g a d) (p.pc + 4)) := by
  have kept : (s.modCore c (·.writeY s.now p.ctx d (p.xr a))).proc c k = some p :=
    (State.proc_modCore s c k _ rfl).trans h.proc
  show execMovToY g a d s = _
  rw [execMovToY, instr_executes h _ _ _ rfl]
  exact congrArg _ (State.retireAt_eq kept _)

/-- A MOV from a y-register retires with the stale or the fresh value, as the free bit says, when the two differ and the
write was less than four cycles ago, and with the fresh value otherwise. -/
theorem exec_movFromY {s : State} {c k : Nat} {p : Proc} {g : BitVec 4} {d : BitVec 5}
    (h : Executes s c k p [ux d] (p.guardBit g 0)) (a : BitVec 3) :
    exec (.movFromY g a d) s = .next (
      if s.now < (s.core c).yOld[a.toNat].2.2 + 4 ∧ (s.core c).yStale p a ≠ (s.core c).yFresh p a then
        s.freeBit.2.retireTo c k (p.setX d (if s.freeBit.1 then (s.core c).yStale p a else (s.core c).yFresh p a))
          (.movFromY g a d) (p.pc + 4)
      else s.retireTo c k (p.setX d ((s.core c).yFresh p a)) (.movFromY g a d) (p.pc + 4)) := by
  have retires (t : State) (w : Word) :
      (t.setProc c k (p.setX d w)).retireAt c k (.movFromY g a d) =
        t.retireTo c k (p.setX d w) (.movFromY g a d) (p.pc + 4) := by
    rw [retireAt_setProc _ _ _ _ _ (State.proc_slot_lt h.proc), Proc.setX_pc]
    rfl
  show execMovFromY g a d s = _
  rw [execMovFromY, instr_executes h _ _ _ rfl]
  simp only [beq_iff_eq, bne_iff_ne, Bool.and_eq_true, decide_eq_true_eq, apply_ite (Act.apply · s c k p (.movFromY g a d))]
  simp only [Act.apply, retires]
  rfl

/-- Settles O16: a MOV to a y-register is its write (`exec_movToY`); a MOV from one has one way to retire from the fourth cycle
on, and before it the choice between the register as it is and as it was (`exec_movFromY`). -/
theorem sharedRegisters : Obligations.SharedRegisters := by
  unfold Obligations.SharedRegisters
  refine ⟨fun s c k p g a d h => exec_movToY h d, fun s c k p g a d h settled => ?_, fun s c k p g a d h => ?_⟩
  · rw [exec_movFromY h a, if_neg fun recent => absurd settled (Nat.not_le.mpr recent.1)]
    rfl
  · rw [exec_movFromY h a]
    split
    · refine ⟨s.freeBit.2, _, .inr rfl, rfl, ?_⟩
      cases s.freeBit.1
      · exact .inl rfl
      · exact .inr rfl
    · exact ⟨s, _, .inl rfl, rfl, .inl rfl⟩

end Sys2Proof.Machine
end
